-- ==== Sys2Proof/Word.lean ====
section
/-! DEFINITION. The word types of the SPA8800 model and the one shape every sparse store of the machine uses. -/
namespace Sys2Proof

/-- One byte. -/
abbrev Byte := BitVec 8
/-- One 16-bit lane, S register, loop counter or sequencer counter. -/
abbrev Half := BitVec 16
/-- One 32-bit register of the control space, and one 32-bit field of a record. -/
abbrev Word := BitVec 32
/-- One 48-bit A register of a vector engine. -/
abbrev Addr48 := BitVec 48
/-- One 64-bit field of a record, counter or generator. -/
abbrev Dword := BitVec 64

/-- A sparse store: (key, value) pairs. What an unlisted key reads as is the reader's default. -/
abbrev Tab (α : Type) := List (Nat × α)

end Sys2Proof
end

