-- ==== Sys2Proof/Syntax.lean ====
section
/-! DEFINITION. The commands of the block: one constructor of `Instr` per row of spec/opcode_table.json, with what the
world outside the device brings to the row (a message, a reading, a pin) as its operands. What the device itself
holds (an instruction store, a descriptor queue) is no operand: the row finds it in the state. -/
namespace Sys2Proof

/-- A link message whose last part has arrived (R340). -/
structure LinkMsg where
  src : Nat
  port : Nat
  body : List Byte
deriving DecidableEq, Repr

/-- What training meets on one Efoladel port: the lanes that pass detect, equalise and lock, and the EXCHANGE message of a partner
that then completes step 5 (R337). -/
structure PortEnv where
  lanes : BitVec 8
  peer : Option LinkMsg
deriving DecidableEq, Repr

/-- What start-up and Dawn meet outside the device (R425, R380, R485): the pins, and how the parts around it answer. -/
structure BootEnv where
  /-- POS_ID[5:0] as sampled at step 1 -/
  posPins : BitVec 6
  /-- every PG input is high (R486) -/
  pgHigh : Bool
  /-- the flash answers the setup of R422 and its reads -/
  flashOk : Bool
  /-- the PLLs lock at step 6 -/
  pllOk : Bool
  /-- central-store banks that fail the test of step 6 -/
  csBad : List Nat
  /-- MCGs with a package fitted -/
  fitted : BitVec 24
  /-- what each MCG's package is: the fields of MCG_CONFIG (data rate, ranks, density, hPPR) -/
  packages : List Nat
  /-- channels (0 to 95) that fail training at step 7, or retraining at Dawn (R273) -/
  chFail : List Nat
  /-- channels whose full training at Dawn fails as well (MCG_DOWN, Table 15.4) -/
  chDown : List Nat
  /-- the Efoladel ports, EP0 first -/
  ports : List PortEnv
  /-- host ports that link within step 10 -/
  hostLinks : BitVec 4
  /-- the firmware that is loaded matches its measurement: the retained copy at Dawn (Table 12.6, step 4), the staged slot at an
  activation (R442, step 2) -/
  fwCopyOk : Bool
  /-- xclk ticks that the AOC counted in Midnight (R476) -/
  midnightXclk : Nat
  /-- energy in microjoules that the AOC measured in Midnight on rails 2 to 8 (R398) -/
  midnightUj : List Nat
deriving DecidableEq, Repr

/-- What happens around a Midnight entry (R376, R377). -/
structure MidEnv where
  /-- the abort point (1 to 6) at or before which a wake event of R376 arrives, if one does -/
  wakeAt : Option Nat
  /-- an event arrives after A6 (abort mode) or during entry (window mode), and is latched -/
  latched : Bool
  /-- the Dawn that a latched event then starts -/
  dawn : BootEnv
deriving DecidableEq, Repr

/-- A UDP datagram on the listening port (R379). -/
structure WakeFrame where
  host : Nat
  dstUnicast : Bool
  dstPort : Nat
  payload : List Byte
deriving DecidableEq, Repr

/-- Device power as the cap controller reads it (R387), in milliwatts: the averages over 1 ms and 10 ms. -/
structure PowerSample where
  avg1 : Nat
  avg10 : Nat
deriving DecidableEq, Repr

/-- The energy of one shared block on one rail, with the tagged activity of each partition (R398). -/
structure SharedEnergy where
  uj : Nat
  tags : List Nat
deriving DecidableEq, Repr

/-- The energy of one rail over 1 ms in microjoules: in all, of blocks owned by each partition, of shared blocks (R398). -/
structure RailEnergy where
  total : Nat
  owned : List Nat
  shared : List SharedEnergy
deriving DecidableEq, Repr

/-- The nine rails of one measurement, in the order of Table 12.2. -/
structure EnergySample where
  rails : List RailEnergy
  /-- device power over the last 1 ms, in watts -/
  watts : Nat
deriving DecidableEq, Repr

/-- A domain that enters Dusk on its own (R370). -/
inductive DuskDomain
  | engine (e : Fin 8)
  | vector (c : Fin 4)
  | sequencer (c : Fin 4)
deriving DecidableEq, Repr

/-- An RDMA WRITE as its last packet arrives: the PSN of its first packet, its window key and address, its bytes (R354, R355). -/
structure RdmaWrite where
  q : Fin 1024
  psn : Nat
  rkey : Word
  va : Nat
  data : List Byte
  imm : Option Word
  /-- a packet of the message is marked CE (R360) -/
  ce : Bool
deriving DecidableEq, Repr

/-- An RDMA READ request (R355). -/
structure RdmaRead where
  q : Fin 1024
  psn : Nat
  rkey : Word
  va : Nat
  len : Nat
  ce : Bool
deriving DecidableEq, Repr

/-- A SEND (R357). -/
structure RdmaSend where
  q : Fin 1024
  psn : Nat
  data : List Byte
  imm : Option Word
  ce : Bool
deriving DecidableEq, Repr

/-- The head of a RoCE packet as the rows without a structure of their own take it: its PSN, and whether IP marked it CE (R351, R360). -/
structure Bth where
  psn : Nat
  ce : Bool
deriving DecidableEq, Repr

/-- The kinds of NAK a requester receives. -/
inductive NakKind | rnr (timer : Nat) | psnSequence | invalidRequest | remoteAccess | remoteOperational
deriving DecidableEq, Repr

/-- ARP or IPv6 neighbour discovery: the address asked for or told, the sender's address, and the MAC address told. -/
structure ArpMsg where
  target : Nat
  sender : Nat
  mac : BitVec 48
  v6 : Bool
deriving DecidableEq, Repr

/-- An ICMP or ICMPv6 echo request. -/
structure EchoMsg where
  dst : Nat
  src : Nat
  v6 : Bool
  ident : Half
  seq : Half
  payload : List Byte
deriving DecidableEq, Repr

/-- A wait that has lasted past its limit (R165): that of the descriptor the core's sequencer has at hand, or of the head of one of its
unit queues (0 to 5: ENG0, ENG1, VE, XFER, CXE, COLL). -/
structure WaitAt where
  core : Fin 4
  unit : Option (Fin 6)
deriving DecidableEq, Repr

/-- Why the MAC drops a host frame (R348, R351). -/
inductive DropWhy | tooLong | otherVlan | unsupported | fragment | icrc (q : Option (Fin 1024))
deriving DecidableEq, Repr

/-- The engine of a LOAD, and what its stationary load and the fill behind it meet (R41, R45, R59, R60): each change of the issue rate, as advancing eclk after which it
comes and the new N; eclk frozen by the feeder, and those of them that were withheld as well; the advancing eclk in which a parity error
strikes a stationary register or the column scale store, and in which a pre-emption request arrives. -/
structure LoadEnv where
  engine : Fin 8
  rates : List (Nat × Nat)
  feed : Nat
  both : Nat
  hwFault : Option Nat
  preemptAt : Option Nat
deriving DecidableEq, Repr

/-- What the array meets while the rows of a pass stream and drain. -/
structure PassEnv where
  /-- the act ends inside this segment, with the segments before it streamed and those whose outputs are all staged committed; none where
  it goes on until the pass has ended -/
  upTo : Option Nat
  /-- each change of the issue rate: advancing eclk of the act after which it comes, and the new N (R60) -/
  rates : List (Nat × Nat)
  /-- eclk frozen by the feeder, and by the drain, before the last row enters; those of them that were withheld as well; eclk frozen after
  it; eclk in which the PASS's wait held the first row (R59, R72) -/
  feed : Nat
  drain : Nat
  both : Nat
  tailFreeze : Nat
  held : Nat
  /-- a parity error or a residue mismatch: its cause in Table 2.11, and the advancing eclk in which it strikes, counted so that row m
  enters in eclk m -/
  hwFault : Option (Nat × Nat)
  /-- a pre-emption request arrives while this segment is open -/
  preemptIn : Option Nat
  /-- rows whose staged copy holds an uncorrectable error (R63) -/
  stagedUe : List Nat
deriving DecidableEq, Repr

/-- One received flit (R330): its 256 bytes, whether a codeword under it was uncorrectable, how many codewords were corrected
since the last flit, and the corrected symbols per lane (R329, Table 11.7). -/
structure FlitIn where
  bytes : List Byte
  uncorr : Bool
  corrected : Nat
  laneSyms : List Nat
  /-- a retrain that this flit leads to (R336) succeeds -/
  retrainOk : Bool
deriving DecidableEq, Repr

/-- One block-information entry (R302). -/
structure BlockInfo where
  scale : Nat
  agreed : Nat
  saturated : Bool
  escalated : Bool
deriving DecidableEq, Repr

/-- A collective frame (Table 10.3) but for its type, which the row names. -/
structure Frame where
  fmt : Nat
  job : Nat
  pace : Bool
  none : Bool
  bucket : Nat
  n : Nat
  dim : Nat
  prev : Bool
  blockFirst : Nat
  count : Nat
  src : Nat
  dst : Nat
  hops : Nat
  attempt : Nat
  step : Nat
  info : List BlockInfo
  payload : List Byte
deriving DecidableEq, Repr

/-- A lending message in one frame (Table 11.5) but for its type. -/
structure LendMsg where
  packed : Bool
  part : Nat
  lastPart : Bool
  src : Nat
  seq : Nat
  handle : Nat
  arg : Nat
  payload : List Byte
deriving DecidableEq, Repr

/-- A section of the retained-state mirror (R439). -/
inductive Section | overlay | scaleHistory (p : Fin 4) | mcg (g : Fin 24) | eraseCounts | lifeCounters
deriving DecidableEq, Repr

/-- Which generator a forced-draw write addresses (R90). -/
inductive RngTarget | core (c : Fin 4) | rde
deriving DecidableEq, Repr

/-- Through which view a register access comes (R474): a device-scoped or a partition-scoped window, on which queue pair. -/
inductive Scope | device (q : Fin 1024) | partition (q : Fin 1024) (p : Fin 4)
deriving DecidableEq, Repr

/-- How a patrol read came back from the packages (R283, R286): the symbols of the codeword that differ from what was written, with
the value added to each (0 to 131 stored symbols, 132 to 138 address nibbles, 139 the poison symbol). -/
structure ScrubRead where
  errs : List (Nat × Nat)
  /-- cells struck in the device's memories since the read before: whether in T1 (a sector of a page's home copy, by page × 1024 + sector as
  stored) or in the central store (a 32-byte word of the span), which, and its symbols in error -/
  strikes : List (Bool × Nat × List (Nat × Nat))
deriving DecidableEq, Repr

/-- What one channel's mode register 4 reports: the 5-bit code and the row of Table 9.4 it stands for (JESD209-5). -/
structure RateReport where
  code : Nat
  step : Nat
deriving DecidableEq, Repr

/-- What a channel test meets (R463): rows done when the next command comes, if it has not ended by then; the rows that fail their
patterns, as rank, bank and row; the remapped rows whose hPPR repair fails, by position in the remap table of the channel. -/
structure TestRun where
  stillAt : Option Nat
  bad : List (Nat × Nat × Nat)
  pprFails : List Nat
deriving DecidableEq, Repr

/-- The commands: the rows of spec/opcode_table.json. (Rows without operands stand last.) -/
inductive Instr where
  /-- PORST_N_RELEASE (R425). Release of PORST_N starts a cold start, which runs the steps of Table 14.2 through to ready or to the boot-failure state. -/
  | porstNRelease (env : BootEnv)
  /-- WARM_N_RELEASE (R485). Release of WARM_N restarts the device as PORST_N does, except that THERMTRIP_N is not released. -/
  | warmNRelease (env : BootEnv)
  /-- POWER_GOOD_LOSS (R486). A PG input low for 1 µs or more resets the device as PORST_N low does, without writing a record. -/
  | powerGoodLoss (rail : Fin 9)
  /-- THERMAL_TRIP (R397). A sensor reaching 118 °C stops every clock except aclk and xclk, opens the power switches and drives THERMTRIP_N low. -/
  | thermalTrip (sensor : Fin 80)
  /-- THERMAL_SAMPLE (R396). Every 100 µs the device reads the sensors, handles warning and throttle thresholds, and lowers the thermal limit. -/
  | thermalSample (temps : List Nat)
  /-- CAP_STEP (R387). Every 100 µs the cap controller compares averaged power with the cap, adjusts its limit and may set cap_unmet. -/
  | capStep (p : PowerSample)
  /-- ENERGY_MEASURE (R398). Every 1 ms the device adds each rail's energy to the rail, device and partition counters. -/
  | energyMeasure (m : EnergySample)
  /-- DROOP_TRIP (R388). A droop detector trip limits every engine's issue rate to 32 within 8 eclk. -/
  | droopTrip (c : Fin 4)
  /-- RAMP_STEP (R390). Every 512 eclk, a running start ramp raises its engine's limit by 8 until it reaches 64. -/
  | rampStep (e : Fin 8)
  /-- PHASE2_START (R391). After a RELEASE arrives, a member starts phase 2 once (position ID mod 8) µs have passed. -/
  | phase2Start (c : Fin 4)
  /-- DUSK_ENTRY (R370). An engine, vector engine or sequencer that has been idle for dusk_us enters Dusk. -/
  | duskEntry (d : DuskDomain)
  /-- DUSK_WAKE (R371). The first event that needs a domain in Dusk wakes it within 2 µs, with no event lost or reordered. -/
  | duskWake (d : DuskDomain)
  /-- AUTO_MIDNIGHT (R373). After midnight_s seconds in Dusk, the device requests Midnight on its own. -/
  | autoMidnight (env : MidEnv)
  /-- MIDNIGHT_REQUEST (R373). A write of 1 to midnight in PWR_REQ requests Midnight; the device refuses if a condition of Table 12.4 holds. -/
  | midnightRequest (env : MidEnv)
  /-- WAKE_N_LOW (R378). WAKE_N low in Midnight starts Dawn. -/
  | wakeNLow (env : BootEnv)
  /-- WAKE_FRAME (R379). A UDP datagram on the listening port is checked as a wake frame; a valid one starts Dawn and any other is counted and dropped. -/
  | wakeFrame (f : WakeFrame) (env : BootEnv)
  /-- CALENDAR_ALARM (R378). The calendar reaching alarm_utc with alarm_en set starts Dawn. -/
  | calendarAlarm (env : BootEnv)
  /-- CLK_PT_WRITE (R384). A write to clk_pt changes eclk, holding the engines for up to 20 µs, or is dropped with refused set. -/
  | clkPtWrite (v : Fin 4)
  /-- V_PT_WRITE (R384). A write to v_pt sends a new VDD_ENG request to the board, or is dropped with refused set. -/
  | vPtWrite (v : Fin 4)
  /-- RDMA_WRITE_RECEIVE (R354). An RDMA WRITE, with or without immediate, is checked against a memory window, placed in order and acknowledged. -/
  | rdmaWriteReceive (m : RdmaWrite)
  /-- RDMA_READ_REQUEST (R355). An RDMA READ request is checked against a memory window and answered, or ends with NAK on poisoned data under R358. -/
  | rdmaReadRequest (m : RdmaRead)
  /-- SEND_RECEIVE (R357). A SEND is placed in the next free receive-ring slot with its trailer, or answered with RNR NAK or NAK. -/
  | sendReceive (m : RdmaSend)
  /-- INVALID_REQUEST (R351). A SEND with invalidate or an atomic is answered with NAK Invalid Request, and the queue pair enters ERROR. -/
  | invalidRequest (q : Fin 1024) (h : Bth)
  /-- ROCE_ACK_RECEIVE (R353). An ACK received as requester retires the outstanding requests it covers. -/
  | roceAckReceive (q : Fin 1024) (h : Bth)
  /-- ROCE_NAK_RECEIVE (R352). A NAK received as requester retries after RNR NAK, or moves the queue pair to ERROR. -/
  | roceNakReceive (q : Fin 1024) (h : Bth) (k : NakKind)
  /-- READ_RESPONSE_RECEIVE (R353). A read response for a device-issued RDMA READ is placed in the destination. -/
  | readResponseReceive (q : Fin 1024) (h : Bth) (data : List Byte)
  /-- ACK_TIMEOUT (R353). An unacknowledged request times out after 4.096 µs × 2^n and is retried, or the queue pair enters ERROR. -/
  | ackTimeout (q : Fin 1024)
  /-- CNP_RECEIVE (R361). A received CNP cuts the queue pair's rate if t_cut_us has passed since the last cut. -/
  | cnpReceive (q : Fin 1024)
  /-- CC_INCREASE_TICK (R361). Each t_inc_us with no CNP received raises the queue pair's rate by its step. -/
  | ccIncreaseTick (q : Fin 1024)
  /-- PFC_FRAME_RECEIVE (R359). A received PFC frame pauses or resumes the priority it names. -/
  | pfcFrameReceive (h : Fin 4) (prio : Fin 8) (time : Half)
  /-- PFC_REFRESH (R359). Every half pause time, the device refreshes the XOFF it holds. -/
  | pfcRefresh (h : Fin 4)
  /-- PFC_STORM (R359). A priority paused without a break for 100 ms writes one PFC_STORM record. -/
  | pfcStorm (h : Fin 4) (prio : Fin 8)
  /-- ARP_REQUEST (R350). An ARP request for the port's address is answered. -/
  | arpRequest (h : Fin 4) (m : ArpMsg)
  /-- NEIGHBOUR_SOLICITATION (R350). An IPv6 neighbour solicitation for the port's address is answered. -/
  | neighbourSolicitation (h : Fin 4) (m : ArpMsg)
  /-- ECHO_REQUEST (R350). An ICMP or ICMPv6 echo request is answered, within the rate limit. -/
  | echoRequest (h : Fin 4) (m : EchoMsg)
  /-- NEIGHBOUR_AGE_OUT (R350). A resolved ARP or neighbour entry not given in the image ages out after 300 s. -/
  | neighbourAgeOut (h : Fin 4) (ip : Nat)
  /-- HOST_LINK_UP (R347). A host port completes auto-negotiation and link training in its configured mode. -/
  | hostLinkUp (h : Fin 4)
  /-- JOB_TAKE (R143). The device takes a visible head entry once every core in its core_mask is free, choosing the lowest ring first. -/
  | jobTake (p : Fin 4)
  /-- COMPLETION_WRITE (R145). Once every host transfer of an ended job is acknowledged, the device writes the completion record and frees the cores. -/
  | completionWrite (c : Fin 4)
  /-- DESCRIPTOR_DISPATCH (R152). The sequencer dispatches the next descriptor to its unit queue, stalling while that queue is full. -/
  | descriptorDispatch (c : Fin 4)
  /-- MAIN_RUN_START (R166). Once every unit of the job is idle after the previous run, the next main-stream run starts with its counters zeroed. -/
  | mainRunStart (c : Fin 4)
  /-- UPDATE_STREAM_START (R166). The update stream begins dispatch after the last main run has dispatched its END. -/
  | updateStreamStart (c : Fin 4)
  /-- LOAD (R41). A LOAD whose wait is satisfied writes the stationary operand into the array, one row or column per advancing eclk. -/
  | load (env : LoadEnv)
  /-- PASS (R67). A PASS streams rows, drains and commits segments, writes its pass report and signals when it ends. -/
  | pass (e : Fin 8) (env : PassEnv)
  /-- PASS_REPLAY (R103). After a pass ends OVERFLOW, the sequencer reruns it from its resume index with a raised e_pass. -/
  | passReplay (e : Fin 8)
  /-- PREEMPT (R69). A write of 1 to preempt in CORE_ENG_CTRL stops the current pass at the next segment boundary; the sequencer then resumes it. -/
  | preempt (e : Fin 8)
  /-- CNT_CLEAR (R73). A write of 1 to cnt_clear clears the engine's cumulative counters. -/
  | cntClear (e : Fin 8)
  /-- VKERN (R176). A VKERN reads its argument block, loads the A and S registers and starts the kernel at its entry point. -/
  | vkern (c : Fin 4)
  /-- XFER_COPY (R158). An XFER in copy mode copies length bytes from src to local. -/
  | xferCopy (c : Fin 4)
  /-- XFER_ZERO_FILL (R158). An XFER in zero-fill mode writes zeros to length bytes at local. -/
  | xferZeroFill (c : Fin 4)
  /-- XFER_HOST_WRITE (R158). An XFER in host-write mode RDMA-writes local bytes to the host address. -/
  | xferHostWrite (c : Fin 4)
  /-- XFER_HOST_WRITE_IMM (R158). An XFER in host-write-with-immediate mode RDMA-writes with the given immediate. -/
  | xferHostWriteImm (c : Fin 4)
  /-- XFER_HOST_READ (R158). An XFER in host-read mode RDMA-reads host bytes into local. -/
  | xferHostRead (c : Fin 4)
  /-- OPEN (R216). A CTXQ OPEN creates a live record and attaches the longest matching prefix of whole blocks. -/
  | ctxOpen (c : Fin 4)
  /-- APPEND_RESERVE (R218). A CTXQ APPEND reservation copies a shared partial page, allocates pages for the new positions and stores their keys. -/
  | appendReserve (c : Fin 4)
  /-- APPEND_WRITE (R219). A CTXQ APPEND write copies K and V rows into slots, sets written bits and seals full blocks. -/
  | appendWrite (c : Fin 4)
  /-- FORK (R216). A CTXQ FORK creates a live copy of a context, with every page gaining one holder. -/
  | ctxFork (c : Fin 4)
  /-- TRIM (R216). A CTXQ TRIM removes tokens from the end of a context and releases the pages past the new end. -/
  | ctxTrim (c : Fin 4)
  /-- PARK (R216). A CTXQ PARK moves exclusive pages to a park region, writes the record to the directory and frees the live ID. -/
  | ctxPark (c : Fin 4)
  /-- UNPARK (R204). A CTXQ UNPARK checks the parked record, creates a live record and promotes its pages. -/
  | ctxUnpark (c : Fin 4)
  /-- CLOSE (R216). A CTXQ CLOSE drops this holder from every page and frees the ID. -/
  | ctxClose (c : Fin 4)
  /-- PLAN (R222). A CTXQ PLAN classifies the key blocks against the query range and writes E page plan entries. -/
  | ctxPlan (c : Fin 4)
  /-- STARVE_RETEST (R231). At each frame release, stalled reservations are tested again, oldest first, and one whose frames are all free takes them. -/
  | starveRetest (p : Fin 4)
  /-- STARVE_TIMEOUT (R230). A reservation stalled for the starvation timeout ends with NO_PAGE, and its record returns to live. -/
  | starveTimeout (c : Fin 4)
  /-- REDUCE_SCATTER (R299). A COLL reduce-scatter sends READY and runs one phase per dimension until every owned block is closed. -/
  | reduceScatter (c : Fin 4)
  /-- ALL_GATHER (R299). A COLL all-gather sends shard copies in reverse dimension order until every block is present. -/
  | allGather (c : Fin 4)
  /-- ALL_REDUCE (R299). A COLL all-reduce runs a reduce-scatter and then an all-gather of its results. -/
  | allReduce (c : Fin 4)
  /-- WAIT (R157). A WAIT holds dispatch until its counter condition is met. -/
  | wait (c : Fin 4)
  /-- SIGNAL (R157). A SIGNAL adds to or sets its counter. -/
  | signal (c : Fin 4)
  /-- FENCE (R153). A FENCE holds dispatch until every earlier descriptor in its scope is complete. -/
  | fence (c : Fin 4)
  /-- VOTE (R126). A STEP VOTE contributes this device's all-finite block to the all-reduce on bucket 0xFFFF and takes the result. -/
  | vote (c : Fin 4)
  /-- COMMIT (R127). A STEP COMMIT flips or discards the step, writes the scale history and the step report, and starts the next attempt or ends the job. -/
  | commit (c : Fin 4)
  /-- END (R153). An END ends its stream. -/
  | endStream (c : Fin 4)
  /-- COUNTER_TIMEOUT (R165). A wait or FENCE not satisfied within its timeout ends the job with COUNTER_TIMEOUT: that of the descriptor
  the sequencer has at hand, or of the head of a unit queue (0 to 5: ENG0, ENG1, VE, XFER, CXE, COLL). -/
  | counterTimeout (w : WaitAt)
  /-- VKERN_LIMIT (R157). A kernel that runs past its VKERN limit is stopped with fault 0x07. -/
  | vkernLimit (c : Fin 4)
  /-- CANCEL (R170). A write of 1 to a cancel bit ends the core's job with CANCELLED at its next pre-emption point. -/
  | cancel (p : Fin 4) (mask : BitVec 4)
  /-- SUSPEND (R168). A write of 1 to a suspend bit brings the job to a pre-emption point, writes the save area and ends the job SUSPENDED. -/
  | suspend (p : Fin 4) (mask : BitVec 4)
  /-- RING_RESET (R141). A write of 1 to reset in JOB_RING_CTRL, while the ring is disabled, sets next_seq to 1 and zeroes the ring. -/
  | ringReset (p : Fin 4) (r : Fin 16)
  /-- NOP (R183). A NOP does nothing. -/
  | nop (c : Fin 4)
  /-- KERNEL_END (R179). The vector END retires after all stores are visible, flushes the accumulators and completes the VKERN, reading the loss pair for the loss kernel. -/
  | kernelEnd (c : Fin 4)
  /-- BR (R183). A BR adds imm to PC. -/
  | br (c : Fin 4)
  /-- BNZD (R183). A BNZD decrements A(a) and branches if the result is nonzero. -/
  | bnzd (c : Fin 4)
  /-- AMOVI (R183). An AMOVI loads a sign-extended immediate into A(d). -/
  | amovi (c : Fin 4)
  /-- AADDI (R183). An AADDI adds a sign-extended immediate to A(a). -/
  | aaddi (c : Fin 4)
  /-- AADD (R183). An AADD adds two A registers. -/
  | aadd (c : Fin 4)
  /-- SETVL (R183). A SETVL sets VL, or faults with 0x05 on 0 or a value above 1,024. -/
  | setvl (c : Fin 4)
  /-- SETOPT (R196). A SETOPT flushes the norm accumulators and sets LAYER. -/
  | setopt (c : Fin 4)
  /-- FENCEM (R183). A FENCEM holds issue until every earlier memory instruction has completed. -/
  | fencem (c : Fin 4)
  /-- ADD (R184). An ADD adds lanewise with one rounding. -/
  | add (c : Fin 4)
  /-- SUB (R184). A SUB subtracts lanewise with one rounding. -/
  | sub (c : Fin 4)
  /-- MUL (R184). A MUL multiplies lanewise with one rounding. -/
  | mul (c : Fin 4)
  /-- FMA (R184). An FMA computes a·b + c with one rounding. -/
  | fma (c : Fin 4)
  /-- FMS (R184). An FMS computes a·b − c with one rounding. -/
  | fms (c : Fin 4)
  /-- FNMA (R184). An FNMA computes −a·b + c with one rounding. -/
  | fnma (c : Fin 4)
  /-- MIN (R186). A MIN takes the lanewise minimum. -/
  | min (c : Fin 4)
  /-- MAX (R186). A MAX takes the lanewise maximum. -/
  | max (c : Fin 4)
  /-- ABS (R183). An ABS clears the sign bit. -/
  | abs (c : Fin 4)
  /-- NEG (R183). A NEG inverts the sign bit. -/
  | neg (c : Fin 4)
  /-- SCALB (R183). A SCALB multiplies by 2^imm with one rounding. -/
  | scalb (c : Fin 4)
  /-- MOV (R183). A MOV copies a register. -/
  | mov (c : Fin 4)
  /-- MOVI (R183). A MOVI writes an immediate into every lane. -/
  | movi (c : Fin 4)
  /-- AND (R183). An AND combines lanes bitwise. -/
  | and (c : Fin 4)
  /-- OR (R183). An OR combines lanes bitwise. -/
  | or (c : Fin 4)
  /-- XOR (R183). An XOR combines lanes bitwise. -/
  | xor (c : Fin 4)
  /-- CMP (R186). A CMP writes 0xFFFF or 0 per lane from the condition in x. -/
  | cmp (c : Fin 4)
  /-- SEL (R183). A SEL chooses a or b per lane from lane c. -/
  | sel (c : Fin 4)
  /-- CLASS (R183). A CLASS writes class bits for each lane. -/
  | classify (c : Fin 4)
  /-- EXP2 (R187). An EXP2 computes 2^a. -/
  | exp2 (c : Fin 4)
  /-- LOG2 (R187). A LOG2 computes log2 a. -/
  | log2 (c : Fin 4)
  /-- RCP (R187). An RCP computes 1/a. -/
  | rcp (c : Fin 4)
  /-- RSQ (R187). An RSQ computes 1/√a. -/
  | rsq (c : Fin 4)
  /-- SQRT (R187). A SQRT computes √a. -/
  | sqrt (c : Fin 4)
  /-- SIG (R187). A SIG computes the logistic sigmoid. -/
  | sig (c : Fin 4)
  /-- TANH (R187). A TANH computes tanh a. -/
  | tanh (c : Fin 4)
  /-- SILU (R187). A SILU computes a/(1 + e^−a). -/
  | silu (c : Fin 4)
  /-- SINT (R187). A SINT computes sin(2πa). -/
  | sint (c : Fin 4)
  /-- COST (R187). A COST computes cos(2πa). -/
  | cost (c : Fin 4)
  /-- DIV (R187). A DIV computes a/b with one rounding. -/
  | div (c : Fin 4)
  /-- RSUM (R188). An RSUM sums the active lanes exactly into S(d) and rounds once. -/
  | rsum (c : Fin 4)
  /-- RMAX (R186). An RMAX writes the lane maximum into S(d). -/
  | rmax (c : Fin 4)
  /-- RMIN (R186). An RMIN writes the lane minimum into S(d). -/
  | rmin (c : Fin 4)
  /-- RSSQ (R188). An RSSQ writes the sum of squares of the lanes into S(d). -/
  | rssq (c : Fin 4)
  /-- RDOT (R188). An RDOT writes the dot product of a and b into S(d). -/
  | rdot (c : Fin 4)
  /-- BCAST (R183). A BCAST writes S(a) into every lane. -/
  | bcast (c : Fin 4)
  /-- EXTR (R183). An EXTR copies one lane into S(d). -/
  | extr (c : Fin 4)
  /-- INSRT (R183). An INSRT writes S(a) into one lane of d. -/
  | insrt (c : Fin 4)
  /-- PERM (R183). A PERM permutes lanes by index. -/
  | perm (c : Fin 4)
  /-- CVT (R189). A CVT converts lanes between BF16, FP16 and INT16. -/
  | cvt (c : Fin 4)
  /-- LDX (R189). An LDX loads elements of a memory format and widens them with their scales. -/
  | ldx (c : Fin 4)
  /-- STX (R190). An STX narrows lanes to a memory format, as the drain does, and stores them with their scales. -/
  | stx (c : Fin 4)
  /-- LD (R191). An LD loads VL contiguous 16-bit elements. -/
  | ld (c : Fin 4)
  /-- ST (R191). An ST stores VL contiguous lanes. -/
  | st (c : Fin 4)
  /-- LDS (R191). An LDS loads strided elements. -/
  | lds (c : Fin 4)
  /-- STS (R191). An STS stores strided elements. -/
  | sts (c : Fin 4)
  /-- LDG (R191). An LDG gathers elements by index. -/
  | ldg (c : Fin 4)
  /-- STG (R191). An STG scatters lanes by index. -/
  | stg (c : Fin 4)
  /-- SLD (R191). An SLD loads 2 B into S(d). -/
  | sld (c : Fin 4)
  /-- SST (R191). An SST stores S(d). -/
  | sst (c : Fin 4)
  /-- OADAM (R193). An OADAM applies the AdamW-class update to w, m and v and accumulates the norms and stall counts. -/
  | oadam (c : Fin 4)
  /-- OSGD (R193). An OSGD applies the SGD-momentum-class update and accumulates the norms. -/
  | osgd (c : Fin 4)
  /-- NRG (R195). An NRG adds Σ(a·g_scale)² to NR and NT. -/
  | nrg (c : Fin 4)
  /-- NSSQ (R195). An NSSQ adds Σa² to NG. -/
  | nssq (c : Fin 4)
  /-- NSTORE (R195). An NSTORE stores NT or NG and zeroes it. -/
  | nstore (c : Fin 4)
  /-- CLIPF (R197). A CLIPF computes the clip factor from a total and latches it. -/
  | clipf (c : Fin 4)
  /-- FLIT_RECEIVE (R335). A received flit is checked, accepted in order or discarded, and its ack, NAK and credit fields are acted on. -/
  | flitReceive (ep : Fin 16) (r : FlitIn)
  /-- ACK_TIMER (R335). The receiver sends ACK at least every 32 accepted flits or 64 ns. -/
  | ackTimer (ep : Fin 16)
  /-- NAK_REPEAT (R335). While waiting for a lost flit, the receiver repeats NAK every 1 µs. -/
  | nakRepeat (ep : Fin 16) (retrainOk : Bool)
  /-- CREDIT_STALL (R334). A channel without credit for 10 ms increments LNK_CRED_STALL and writes a CREDIT_STALL record. -/
  | creditStall (ep : Fin 16) (vc : Fin 8)
  /-- LANE_FAILURE (R338). A lane that loses signal or lock, or exceeds the symbol error limit, makes its port narrow by a width change or go down. -/
  | laneFailure (ep : Fin 16) (lanes : BitVec 8)
  /-- WIDTH_ACK_TIMEOUT (R340). With no WIDTH_ACK within 4 µs, both ends re-stripe onto the group named in the WIDTH. -/
  | widthAckTimeout (ep : Fin 16)
  /-- EXCHANGE (R337). An EXCHANGE link message carries the peer's width, allocations and flags, and credits are granted. -/
  | exchange (ep : Fin 16) (m : LinkMsg)
  /-- VERIFY (R337). A VERIFY link message counts toward the 1,024 needed to bring the port up. -/
  | verify (ep : Fin 16) (m : LinkMsg)
  /-- WIDTH (R340). A WIDTH link message names the new lane group, and the receiver answers WIDTH_ACK. -/
  | width (ep : Fin 16) (m : LinkMsg)
  /-- WIDTH_ACK (R340). A WIDTH_ACK lets both ends re-stripe onto the new group. -/
  | widthAck (ep : Fin 16) (m : LinkMsg)
  /-- KEYX_EK (R418). A KEYX_EK carries the ephemeral encapsulation key, and the receiver encapsulates to it. -/
  | keyxEk (ep : Fin 16) (m : LinkMsg)
  /-- KEYX_CT (R418). A KEYX_CT carries the ML-KEM-768 ciphertext. -/
  | keyxCt (ep : Fin 16) (m : LinkMsg)
  /-- KEYX_CERT (R418). A KEYX_CERT carries the peer's certificate, which is verified against the vendor key and permitted peers. -/
  | keyxCert (ep : Fin 16) (m : LinkMsg)
  /-- KEYX_SIG (R418). A KEYX_SIG carries the peer's signature over the transcript; the receiver verifies it and derives the link keys. -/
  | keyxSig (ep : Fin 16) (m : LinkMsg)
  /-- KEYX_DONE (R418). A KEYX_DONE reports whether the keys were installed, and encryption becomes active or a LINK_AUTH record is written. -/
  | keyxDone (ep : Fin 16) (m : LinkMsg)
  /-- FENCED (R340). A FENCED link message makes the receiver declare the sender lost at once and forward LOST. -/
  | fenced (ep : Fin 16) (m : LinkMsg)
  /-- KEEPALIVE_TIMER (R313). Every port with a peer sends KEEPALIVE at least every 4 µs. -/
  | keepaliveTimer (ep : Fin 16)
  /-- PEER_LOSS (R313). 64 µs without a frame from a peer declares it lost, sends LOST and starts abort, election and lender-loss handling. -/
  | peerLoss (pos : Fin 4096)
  /-- KEEPALIVE (R313). A received KEEPALIVE marks its peer alive. -/
  | keepalive (ep : Fin 16) (f : Frame)
  /-- LOST (R313). A received LOST is acted on and forwarded once to every other peer. -/
  | lost (ep : Fin 16) (f : Frame)
  /-- DEPART (R313). A received DEPART marks the sender departed, treated as lost for its jobs. -/
  | depart (ep : Fin 16) (f : Frame)
  /-- REDUCE (R308). A received REDUCE frame is added block by block at this hop and forwarded or closed. -/
  | reduce (ep : Fin 16) (f : Frame)
  /-- GATHER (R306). A received GATHER frame's blocks are written into buf and forwarded as the plan requires. -/
  | gather (ep : Fin 16) (f : Frame)
  /-- READY (R300). A received READY permits REDUCE frames to its sender, or is held as an early record. -/
  | ready (ep : Fin 16) (f : Frame)
  /-- ABORT (R314). A received ABORT stops the attempt, discards it, writes a FAULT step report and waits at the next barrier. -/
  | abort (ep : Fin 16) (f : Frame)
  /-- ARRIVE (R317). A received ARRIVE is forwarded up the tree or, at the master, completes the barrier with RELEASE and RESYNC. -/
  | arrive (ep : Fin 16) (f : Frame)
  /-- RELEASE (R317). A received RELEASE adopts the attempt number and permits phase 2. -/
  | release (ep : Fin 16) (f : Frame)
  /-- ASSIGN (R318). A received ASSIGN makes a spare take the lost position ID and updates the neighbours' plans. -/
  | assign (ep : Fin 16) (f : Frame)
  /-- RESYNC (R317). A received RESYNC fetches the missing shards, flips, writes a COMMITTED report and arrives again. -/
  | resync (ep : Fin 16) (f : Frame)
  /-- MIRROR (R320). A received MIRROR frame writes moment or parameter bytes into the mirror area or alternate slot. -/
  | mirror (ep : Fin 16) (f : Frame)
  /-- HEARTBEAT (R322). A received HEARTBEAT with a new step makes the shadow flip its commit_word. -/
  | heartbeat (ep : Fin 16) (f : Frame)
  /-- TAKEOVER (R323). A TAKEOVER request is granted or refused by the master, and a grant makes the shadow assume the position. -/
  | takeover (ep : Fin 16) (f : Frame)
  /-- REASSIGN_TIMEOUT (R321). A position left unfilled for reassign_ms makes the master abort the job with COLL_FAULT. -/
  | reassignTimeout (job : Fin 4096)
  /-- OFFER (R259). A received OFFER updates the granules the lender offers. -/
  | offer (ep : Fin 16) (m : LendMsg)
  /-- PLACE (R259). A received PLACE, once all its parts have arrived, places the page and answers with a handle or a refusal. -/
  | place (ep : Fin 16) (m : LendMsg)
  /-- PLACED (R343). A received PLACED gives the page's new handle, or a refusal. -/
  | placed (ep : Fin 16) (m : LendMsg)
  /-- FETCH (R259). A received FETCH is answered with DATA for the stripe. -/
  | fetch (ep : Fin 16) (m : LendMsg)
  /-- DATA (R259). A received DATA delivers one stripe to the fill that waits for it. -/
  | data (ep : Fin 16) (m : LendMsg)
  /-- FREE (R259). A received FREE frees the handle's granules. -/
  | free (ep : Fin 16) (m : LendMsg)
  /-- RECLAIM (R260). A received RECLAIM makes the borrower vacate every page in the range within 2 ms. -/
  | reclaim (ep : Fin 16) (m : LendMsg)
  /-- RETURNED (R261). A received RETURNED ends the reclaim and updates the lent counts. -/
  | returned (ep : Fin 16) (m : LendMsg)
  /-- TAKEN (R261). A received TAKEN marks every page still held in the range as lost. -/
  | taken (ep : Fin 16) (m : LendMsg)
  /-- RECLAIM_DEADLINE (R261). 2.1 ms after a RECLAIM, the lender takes the range and sends TAKEN. -/
  | reclaimDeadline (peer : Fin 4096)
  /-- STRIPE_FILL (R243). A stripe fill for a waiting access completes and the access proceeds. -/
  | stripeFill (page : Nat) (stripe : Fin 32)
  /-- PAGE_MOVE_COMPLETE (R245). A page move finishes copying, changes the entry at one instant and frees the old place. -/
  | pageMoveComplete (page : Nat)
  /-- DEMOTION (R247). Free T1 below the low watermark makes the STU demote pages until the high watermark is reached. -/
  | demotion (p : Fin 4)
  /-- STASH_SPILL (R113). With the T0 quota full, the STU moves the oldest stash stripes to T1 as Wafer stripes. -/
  | stashSpill (p : Fin 4)
  /-- SLAB_FILL (R255). The STU fills the next stream slabs into the slab window, nearest first, and releases slabs left behind. -/
  | slabFill (p : Fin 4)
  /-- MAP (R254). A MAP command maps span pages zero-filled in the given class with their chosen homes. -/
  | map (p : Fin 4) (cls : Fin 4)
  /-- UNMAP (R254). An UNMAP command frees the homes and cached copies of span pages. -/
  | unmap (p : Fin 4)
  /-- SET_CLASS (R253). A SET_CLASS command sets the class of span pages and moves pages whose new class pins another tier. -/
  | setClass (p : Fin 4) (cls : Fin 4)
  /-- PREFETCH (R254). A PREFETCH command fills every stripe of span pages into the cache. -/
  | prefetch (p : Fin 4)
  /-- QUERY (R254). A QUERY command copies a translation entry into SPN_XLATE0–3. -/
  | query (p : Fin 4)
  /-- CHECK_GROUP_INIT (R271). After ready, the MCG initialises the next marked check group with zeros and check words and clears its bit. -/
  | checkGroupInit (g : Fin 24)
  /-- REFRESH (R274). Per-bank refresh is issued at the interval the reported refresh rate requires. -/
  | refresh (g : Fin 24) (rank : Fin 2) (bank : Nat)
  /-- REFRESH_RATE_READ (R275). Every 1 ms the MCG reads mode register 4 and moves to a hotter or cooler step of Table 9.4. -/
  | refreshRateRead (g : Fin 24) (reports : List RateReport)
  /-- OSCILLATOR_CHECK (R272). Every 8 ms the MCG reads the WCK–DQ oscillators and corrects the channel timing. -/
  | oscillatorCheck (g : Fin 24) (drift : List Nat)
  /-- RANK_POWER_DOWN (R372). A package with no request for 1 µs puts its ranks into power-down. -/
  | rankPowerDown (g : Fin 24)
  /-- PATROL_SCRUB (R286). Patrol scrub reads and decodes the next sector, applying correction or poisoning. -/
  | patrolScrub (g : Fin 24) (found : ScrubRead)
  /-- ROW_REMAP (R288). A failed row is copied into a spare row and redirected, with its accesses held for at most 10 µs. -/
  | rowRemap (g : Fin 24)
  /-- ROW_RETIRE (R290). A failed row whose package has no spare withdraws its blocks, moves their pages and adds them to the retired list. -/
  | rowRetire (g : Fin 24)
  /-- MCG_REINIT (R464). After a partial reset or an unretained Dawn, the MCG finishes writing every rank and sets ready. -/
  | mcgReinit (g : Fin 24)
  /-- SNAPSHOT_WRITE (R440). A section quiet for 1 s, and past its spacing, is written as a snapshot to the mirror log. -/
  | snapshotWrite (sec : Section)
  /-- BANK_ACK (R452). A write of ack to ERR_BANK_ACKb removes the record in service. -/
  | bankAck (b : Fin 88)
  /-- AUDIT (R457). A write of a ledger mask freezes a snapshot, checks the equalities and ends OK, VOID or BREAK. -/
  | audit (mask : BitVec 8)
  /-- PARTIAL_RESET (R464). A write to ERR_PRESET runs the partial reset of Table 15.7 on a partition. -/
  | partialReset (mask : BitVec 4)
  /-- BANK_RETIRE (R461). A write to CS_RETIRE, or an automatic retirement, copies a bank into a spare and switches the interleave. -/
  | bankRetire (b : Nat)
  /-- SELF_TEST (R459). A write of start to CORE_ENG_TEST self-tests an idle engine. -/
  | selfTest (e : Fin 8)
  /-- SELF_TEST_DONE (R459). A self-test ends, returning the engine to IDLE or fencing it. -/
  | selfTestDone (e : Fin 8) (ok : Bool)
  /-- ENGINE_UNFENCE (R459). A write of unfence to CORE_ENG_TEST runs the self-test again and leaves FENCED only on a pass. -/
  | engineUnfence (e : Fin 8)
  /-- CORE_FENCE (R460). A write of fence to CORE_FENCE ends the core's job as a fault and fences the core. -/
  | coreFence (c : Fin 4)
  /-- CORE_UNFENCE (R460). A write of unfence to CORE_FENCE self-tests the core's engines and returns the core to service on a pass. -/
  | coreUnfence (c : Fin 4)
  /-- CHANNEL_TEST (R463). A write of start to MCG_TEST tests every row of one channel through a spare row. -/
  | channelTest (g : Fin 24) (ch : Fin 4) (run : TestRun)
  /-- CHANNEL_TEST_STOP (R463). A write of stop to MCG_TEST ends the channel test after the current row is restored. -/
  | channelTestStop (g : Fin 24)
  /-- LANE_LOOPBACK (R463). A write to LNK_LANE_TEST narrows the port and runs PRBS31 on the excluded lanes for 10 ms. -/
  | laneLoopback (ep : Fin 16) (lanes : BitVec 8) (pass : BitVec 8)
  /-- RETRAIN (R337). A write of retrain to LNK_CTRL runs a full training of the port, including retired lanes. -/
  | retrain (ep : Fin 16) (lanes : BitVec 8)
  /-- LNK_DISABLE (R339). A write of disable to LNK_CTRL takes the port down and holds it down. -/
  | lnkDisable (ep : Fin 16)
  /-- ADMIT (R405). An ADMIT command moves a tenant slot from EMPTY to RESIDENT and creates its memory keys. -/
  | admitTenant (p : Fin 4)
  /-- EVICT (R419). An EVICT command scrubs a tenant slot through quiesce, crypto-erase and zeroing, then sets it EMPTY. -/
  | evict (p : Fin 4)
  /-- KEY_LOAD (R413). A KEY_LOAD command checks a key envelope, unwraps the content key and installs it in a key slot. -/
  | keyLoad (p : Fin 4)
  /-- KEY_CLEAR (R410). A KEY_CLEAR command destroys a content key slot. -/
  | keyClear (p : Fin 4)
  /-- UNSEAL (R415). An UNSEAL command decrypts and checks a sealed image block by block into dst. -/
  | unseal (p : Fin 4)
  /-- ATTEST (R411). A write of go to SEC_ATT_CTRL makes SEC form and sign an attestation report. -/
  | attest (p : Fin 4) (tenant : Fin 16)
  /-- RNG_FORCE (R90). A write of fixed_en to CORE_RNG_CTRL or RDE_RNG_CTRL forces fixed draws while debug is enabled, or is dropped. -/
  | rngForce (t : RngTarget) (v : Word)
  /-- CALENDAR_SET (R443). A write of LIF_CAL_SET_HI sets both halves of the calendar and sets valid. -/
  | calendarSet (hi : Word)
  /-- LOG_READ (R446). A write to LIF_LOG_IDX reads that life log record into LIF_LOG_DATA, or sets gone. -/
  | logRead (seq : Word)
  /-- QP_STATE_WRITE (R352). A write to HPT_QP_CTRL moves the queue pair to a new state, or is dropped if the transition is illegal. -/
  | qpStateWrite (q : Fin 1024) (st : Fin 8)
  /-- RING_ACK (R357). A write to HPT_QP_RING_ACK restores the free-slot count of the receive ring. -/
  | ringAck (q : Fin 1024) (v : Word)
  /-- COUNTER_LO_READ (R468). A read of a 64-bit counter's LO half latches its HI half for that queue pair. -/
  | counterLoRead (q : Fin 1024) (a : Nat)
  /-- REGISTER_WRITE (R433). A write to a register field with no row of its own takes effect, enters a shadow or is dropped, according to its class. -/
  | registerWrite (a : Nat) (v : Word) (w : Scope)
  /-- SMB_ALERT_CLEAR (R490). An SMBus write of 1s to SMB_ALERT clears those alert bits. -/
  | smbAlertClear (v : Byte)
  /-- SMB_ALERT_MASK_WRITE (R489). An SMBus write to SMB_ALERT_MASK sets which alert bits drive ALERT_N. -/
  | smbAlertMaskWrite (v : Byte)
  /-- SAMPLE_PRELOAD (R499). The JTAG SAMPLE/PRELOAD instruction samples or preloads the boundary register. -/
  | samplePreload (v : List Bool)
  /-- HOST_LINK_DOWN (R353). A host port losing its link clears link_up, and its queue pairs keep their state and fail by timeout. -/
  | hostLinkDown (h : Fin 4)
  /-- LINK_PARTNER_TRAINING (R337). Signal from a peer starting training, after its Dawn or retrain, brings this end's down port through the training steps. -/
  | linkPartnerTraining (ep : Fin 16) (lanes : BitVec 8)
  /-- ARP_REPLY (R350). A received ARP reply fills the neighbour cache entry for a queue pair's next hop. -/
  | arpReply (h : Fin 4) (m : ArpMsg)
  /-- NEIGHBOUR_ADVERTISEMENT (R350). A received IPv6 neighbour advertisement fills the neighbour cache entry for a next hop. -/
  | neighbourAdvertisement (h : Fin 4) (m : ArpMsg)
  /-- HOST_FRAME_DROP (R348). A received host frame that is oversized, has another VLAN, is of an unsupported kind, is an IPv4 fragment or fails its ICRC is dropped and counted. -/
  | hostFrameDrop (h : Fin 4) (why : DropWhy)
  /-- PFC_PAUSE_EXPIRY (R359). The pause time of a received PFC XOFF runs out, and transmission on that priority resumes. -/
  | pfcPauseExpiry (h : Fin 4) (prio : Fin 8)
  /-- RNR_RETRY_TIMER (R353). After an RNR NAK, the RNR wait runs out and the queue pair resends the request. -/
  | rnrRetryTimer (q : Fin 1024)
  /-- THERMAL_RELEASE (R396). Each 1 ms below thr_c − 2 °C, the thermal limit rises by 1, up to 64. -/
  | thermalRelease
  /-- DROOP_RELEASE (R388). 4,096 eclk after the last droop trip, the limit is released through a start ramp that begins at 32. -/
  | droopRelease
  /-- PWR_BRAKE_ASSERT (R389). PWR_BRAKE_N falling applies the brake floor to the issue rate within 1 µs. -/
  | pwrBrakeAssert
  /-- PWR_BRAKE_RELEASE (R389). PWR_BRAKE_N rising releases the brake through a start ramp from the floor. -/
  | pwrBrakeRelease
  /-- VOLTAGE_CONFIRM (R385). Once the on-die sense has read at least the request − 10 mV for 10 µs, v_conf is set and v_busy cleared. -/
  | voltageConfirm
  /-- DVFS_TIMEOUT (R385). Without confirmation within 1 ms, the device clears v_busy, returns v_pt to v_conf and writes a DVFS_TIMEOUT record. -/
  | dvfsTimeout
  /-- READY_REPEAT (R301). Every 100 µs a device repeats each READY not yet answered. -/
  | readyRepeat
  /-- HEARTBEAT_TIMER (R323). Each pair member sends HEARTBEAT on both pair ports every 8 µs. -/
  | heartbeatTimer
  /-- PAIR_SILENCE (R323). 64 µs of silence on both pair ports makes the shadow request takeover, or take over without a master. -/
  | pairSilence
  /-- OFFER_TIMER (R259). A lender sends OFFER on every change and at least every 1 ms. -/
  | offerTimer
  /-- LIFE_LOG_RECORD (R445). At every multiple of 3,600 powered seconds, the AOC writes one life log record. -/
  | lifeLogRecord
  /-- AUDIT_RELEASE (R457). A write of release ends the audit snapshot. -/
  | auditRelease
  /-- DEBUG_ENABLE (R417). A write enabling SEC_DEBUG clears content keys and replaces the partition keys. -/
  | debugEnable
  /-- STAGE_FW (R441). A STAGE_FW command programs, verifies and stages firmware in the slot not in use. -/
  | stageFw
  /-- STAGE_CFG (R441). A STAGE_CFG command programs, verifies and stages a configuration image. -/
  | stageCfg
  /-- ACTIVATE_FW (R442). An ACTIVATE_FW command commits the staged firmware and restarts SEC and the sequencers with it;
  a failed check makes it a cold start. -/
  | activateFw (env : BootEnv)
  /-- ACTIVATE_CFG (R441). An ACTIVATE_CFG command commits the staged configuration slot for the next cold start. -/
  | activateCfg
  /-- ABANDON (R441). An ABANDON command erases every staged slot. -/
  | abandon
  /-- OVERLAY_CLEAR (R438). A write of clear to LIF_OVL_CTRL empties the overlay and sets image_hash to the running m_config. -/
  | overlayClear
  /-- SMB_ALERT_RESPONSE (R490). An answer at the SMBus alert response address releases ALERT_N. -/
  | smbAlertResponse
  /-- EXTEST (R499). The JTAG EXTEST instruction drives the boundary cells while PORST_N is low, and acts as BYPASS otherwise. -/
  | extest
  /-- IDCODE (R499). The JTAG IDCODE instruction returns 0x1880_0DEB. -/
  | idcode
  /-- CLAMP (R499). The JTAG CLAMP instruction holds the outputs while PORST_N is low. -/
  | clamp
  /-- HIGHZ (R499). The JTAG HIGHZ instruction floats the outputs while PORST_N is low. -/
  | highz
  /-- BYPASS (R499). The JTAG BYPASS instruction, and every unlisted code, selects the bypass register. -/
  | bypass
  /-- TAP_RESET (R498). A TRST_N low pulse resets the TAP asynchronously and selects IDCODE. -/
  | tapReset
  /-- PORST_N_ASSERT (R487). PORST_N falling puts the device in reset, drives the outputs as R487 states and releases THERMTRIP_N. -/
  | porstNAssert
  /-- WARM_N_ASSERT (R485). WARM_N falling resets the device as PORST_N low does, but keeps THERMTRIP_N and is ignored while THERMTRIP_N is low. -/
  | warmNAssert
  /-- POWER_UP (R493). The board applies the rails in group order, leaving Off, and the AOC and calendar start with the calendar at 0 and valid clear. -/
  | powerUp
  /-- CLOCK_FAULT (R453). A PLL losing lock writes a fatal CLOCK_FAULT record and halts the device. -/
  | clockFault
  /-- SEC_FAULT (R453). SEC firmware stopping or failing a self-check writes a fatal SEC_FAULT record and halts the device. -/
  | secFault
  /-- SMB_BUS_TIMEOUT (R498). SCL held low past the 25 ms to 35 ms bus timeout resets the SMBus target's interface. -/
  | smbBusTimeout
  /-- DEBUG_DISABLE (R90). A write clearing SEC_DEBUG clears fixed_en in every core and in the RDE. -/
  | debugDisable
deriving DecidableEq, Repr

end Sys2Proof
end

