-- ==== Sys2Proof/Config.lean ====
section
/-! DEFINITION. What an implementation or its configuration image fixes, and the free values: constants without a body, so
that nothing can be proved of them but what holds of every value (log entries 3 to 9). -/
namespace Sys2Proof

/-- A partition as the configuration image sets it (groups 0x01 to 0x03); its span range in units of 256 MiB (R233). -/
structure PartCfg where
  cores : BitVec 4
  quarters : BitVec 4
  mcgs : BitVec 24
  eps : BitVec 16
  guarded : Bool
  slotsLog2 : Nat
  rangeBase : Nat
  rangeSize : Nat
  pinMib : Nat
  tableMib : Nat
  t3Qp : Nat
  t3Va : Nat
  t3Rkey : Nat
  t3Slots : Nat
  policies : List Word
  lend : Word
  layoutAddr : Nat
  liveFirst : Nat
  liveCount : Nat
  /-- span pages that the image maps, with their class (R503) -/
  pages : List (Nat × Nat)
  /-- bytes that the image places in mapped pages: the layout block (R200) -/
  content : List (Nat × Byte)
  tableKey : Word
  records : List Byte
deriving DecidableEq, Repr

/-- A spare roster entry (R318): the spare, and per position it may take the ports that reach it and the plan updates. -/
structure RosterEntry where
  spare : Nat
  positions : List Nat
  ports : List (Nat × Nat)
deriving DecidableEq, Repr

/-- A host port as the image sets it (R347 to R350, R378, R379). An IPv4 address stands in `neighbours` in its IPv4-mapped form. -/
structure HostCfg where
  mode : Nat
  cr : Bool
  pcp : Nat
  vlan : Option Nat
  mac : BitVec 48
  ipv4 : Nat
  prefix4 : Nat
  gw4 : Nat
  ipv6 : Nat
  prefix6 : Nat
  gw6 : Nat
  neighbours : List (Nat × BitVec 48)
  wakePort : Nat
  wakeCode : List Byte
deriving DecidableEq, Repr

/-- What a record of group 0x05 sets of a host port (Table 14.4). -/
inductive HostSet
  | port (mode : Nat) (cr : Bool)
  | addresses (mac : BitVec 48) (ipv4 prefix4 ipv6 prefix6 : Nat)
  | gateways (gw4 gw6 : Nat)
  | vlan (id : Option Nat) (pcp : Nat)
  | neighbour (ip : Nat) (mac : BitVec 48)
  | listening
  | wake (port : Nat) (code : List Byte)
deriving DecidableEq, Repr

/-- A record of group 0x05: its selector, its host port, what it sets (R431). -/
structure HostRecord where
  selector : Nat
  host : Nat
  what : HostSet
deriving DecidableEq, Repr

structure QpCfg where
  q : Nat
  part : Nat
  port : Nat
  mgmt : Bool
deriving DecidableEq, Repr

structure MwCfg where
  w : Nat
  key : Word
  attr : Word
  base : Nat
  len : Nat
  va : Nat
deriving DecidableEq, Repr

/-- A configuration image as its records say (R428 to R432), and whether its signature and form stand the checks of R430. -/
structure CfgImage where
  sigOk : Bool
  formOk : Bool
  minFw : Nat
  ignored : Nat
  m : List Byte
  posBase : Nat
  pinMode : Bool
  groupSize : Nat
  members : List Nat
  roster : List RosterEntry
  named : Nat
  pair : Bool
  pairShadow : Bool
  plans : List (List Byte)
  parts : List PartCfg
  debugOk : Bool
  vcAlloc : List (List Nat)
  encPermit : BitVec 16
  permitted : List (List Byte)
  listen : Nat
  hosts : List HostCfg
  /-- the records of group 0x05, in image order: those that a board selects make up its host ports (R431) -/
  hostRecords : List HostRecord
  qps : List QpCfg
  mws : List MwCfg
  regDefaults : List (Nat × Word × Word)
  rate : Nat
  eventQp : Option Nat
  eventVa : Nat
  eventRkey : Nat
deriving DecidableEq, Repr

/-- A firmware image (R424): its version, its three components, all its bytes, and whether it verifies. -/
structure FwImage where
  sigOk : Bool
  version : Nat
  boot : List Byte
  sec : List Byte
  seq : List Byte
  whole : List Byte
deriving DecidableEq, Repr


namespace Config

/-! ### Free values

Each takes the state's `freeIdx` at the moment the value is taken, so no two uses are known to agree. -/

/-- fclk cycles that pass between two acts of the device (the order of the commands is their senders', their distance is free). -/
opaque elapsed : Nat → Nat
/-- xclk seconds that pass between two acts. -/
opaque seconds : Nat → Nat
/-- A choice the spec leaves to the device: a T1 frame, a lender's granule, a sub-slot of a rounding generator. -/
opaque pick : Nat → Nat
/-- A value the spec gives no contents for. -/
opaque value : Nat → Nat
/-- Where the linear T1 of a partition begins on its channels, which is not architectural (R277). -/
opaque rowShift : Nat → Nat
/-- Which bank of its quarters the first word of a partition's T0 lies in, which is not architectural (R237). -/
opaque bankShift : Nat → Nat
/-- A list of places the spec gives no contents for: as (rank, bank, row). -/
opaque places : Nat → List (Nat × Nat × Nat)
/-- An approximation the spec bounds: a position inside the interval that the bound allows. -/
opaque within : Nat → Nat

/-! ### Cryptography of published standards (R408 to R418, FIPS 203, 204, 197, SP 800-38D, SP 800-38E) -/

/-- ML-DSA-44: key pair of a seed (public, private). -/
opaque dsaKey : List Byte → List Byte × List Byte
/-- ML-DSA-44 signature by a private key over a message with a context string. -/
opaque dsaSign : List Byte → List Byte → List Byte → List Byte
/-- ML-DSA-44 verification: public key, context string, message, signature. -/
opaque dsaVerify : List Byte → List Byte → List Byte → List Byte → Bool
/-- ML-KEM-768 key pair drawn at a free moment (encapsulation key, decapsulation key). -/
opaque kemKey : Nat → List Byte × List Byte
/-- ML-KEM-768 encapsulation to a key at a free moment (ciphertext, shared secret). -/
opaque kemEncap : List Byte → Nat → List Byte × List Byte
/-- ML-KEM-768 decapsulation. -/
opaque kemDecap : List Byte → List Byte → List Byte
/-- AES-256-GCM: key, nonce, associated data, plaintext; the ciphertext followed by the tag. -/
opaque gcmSeal : List Byte → List Byte → List Byte → List Byte → List Byte
/-- AES-256-GCM: key, nonce, associated data, ciphertext with tag; none on a tag mismatch. -/
opaque gcmOpen : List Byte → List Byte → List Byte → List Byte → Option (List Byte)
/-- AES-256-XTS encryption of one 64 B sector: key pair, tweak, data. -/
opaque xtsEncrypt : List Byte → Nat → List Byte → List Byte
/-- A fresh AES-256 key (memory keys of R405) drawn at a free moment. -/
opaque freshKey : Nat → List Byte

/-! ### Images as bytes

The tag numbers of the configuration records and the layout of a firmware image are those of tools, not of the spec. -/

/-- What the records of a configuration image say, each a tag and a value: none where a mandatory tag is unknown, a length is not its
tag's, a tag that may stand once stands twice, or a value breaks its range (R430). -/
opaque readCfg : List (Nat × List Byte) → Option CfgImage
/-- The firmware image that staged bytes hold. -/
opaque readFw : List Byte → Option FwImage

end Config
end Sys2Proof
end

