-- ==== Sys2Proof/Machine/Registers.lean ====
section
/-! DEFINITION. Every register of the control space (R466, R477, Tables 16.5 to 16.9) under a name of its own:
its place in the space, its fields with their access type, update class and value of the reset column
(the field tables of the chapters named there), and the named fields (`F.<register><Field>`) the meanings read and write. -/
namespace Sys2Proof.Machine

/-- What a write to a field does (Table 0.3, R14). No register of the space has a W1S field. -/
inductive Acc | ro | rw | w1c | wo
deriving DecidableEq, Repr

/-- The update class of a field (R433, Table 14.5); `none` for RO and other unclassed fields. -/
inductive Cls | none | s | q | b | l
deriving DecidableEq, Repr

/-- The registers of Tables 16.5 to 16.9. Indices: `n` the register's own number, `p` a partition, `c` a core,
`e` an engine (ME number) or an Efoladel port, `h` a host port, `g` an MCG, `b` an error bank, `k` a bank slot, `q` a queue pair. -/
inductive Reg where
  | glbSerial (n : Nat)
  | glbScratch (n : Nat)
  | telTemp (n : Nat)
  | telERailLo (r : Nat)
  | telERailHi (r : Nat)
  | telEPartLo (p : Nat)
  | telEPartHi (p : Nat)
  | secPartCfg (p : Nat)
  | secPartMcg (p : Nat)
  | secPartEp (p : Nat)
  | secPartTs (p : Nat)
  | secCmdLo (p : Nat)
  | secCmdHi (p : Nat)
  | secCmdOp (p : Nat)
  | secCmdStatus (p : Nat)
  | secCmdDetail (p : Nat)
  | secAttCtrl (p : Nat)
  | secAttStatus (p : Nat)
  | secAttNonce (p : Nat) (n : Nat)
  | secQpTs (q : Nat)
  | secCert (n : Nat)
  | secReport (p : Nat) (n : Nat)
  | errInsvc (n : Nat)
  | errBankStat (b : Nat)
  | errBankAck (b : Nat)
  | ldgCsCache (p : Nat)
  | ldgCsTransit (p : Nat)
  | ldgJobsTaken (p : Nat)
  | ldgJobsEnded (p : Nat)
  | ldgReclaimSpan (p : Nat)
  | ldgReclaimKv (p : Nat)
  | ldgLinkSent (e : Nat)
  | ldgLinkRecv (e : Nat)
  | ldgLinkRtx (e : Nat)
  | ldgLinkRrx (e : Nat)
  | errRecord (b : Nat) (k : Nat) (n : Nat)
  | coreSqStatus (c : Nat)
  | coreFence (c : Nat)
  | engStatus (e : Nat)
  | engCtrl (e : Nat)
  | engTest (e : Nat)
  | engRowsLo (e : Nat)
  | engRowsHi (e : Nat)
  | engFreezeLo (e : Nat)
  | engFreezeHi (e : Nat)
  | engThrottleLo (e : Nat)
  | engThrottleHi (e : Nat)
  | coreRngCtrl (c : Nat)
  | coreCtr (c : Nat) (n : Nat)
  | veStatus (c : Nat)
  | veFlags (c : Nat)
  | vePc (c : Nat)
  | veRetiredLo (c : Nat)
  | veRetiredHi (c : Nat)
  | veMemstallLo (c : Nat)
  | veMemstallHi (c : Nat)
  | cxePartLayoutLo (p : Nat)
  | cxePartLayoutHi (p : Nat)
  | cxePartIds (p : Nat)
  | cxeStarveCtrl (p : Nat)
  | cxePagesFree (p : Nat)
  | cxePagesRef (p : Nat)
  | cxePagesShared (p : Nat)
  | cxePagesParked (p : Nat)
  | cxePagesLent (p : Nat)
  | cxeParked (p : Nat)
  | cxeStarveEvents (p : Nat)
  | cxeStarveFails (p : Nat)
  | cxeHashColl (p : Nat)
  | cxePoolFree (p : Nat) (n : Nat)
  | spnLendPeer (n : Nat)
  | spnLendPeerGr (n : Nat)
  | spnRange (p : Nat)
  | spnRangeSize (p : Nat)
  | spnT0Pin (p : Nat)
  | spnT1Water (p : Nat)
  | spnWindow (p : Nat)
  | spnStreamLo (p : Nat)
  | spnStreamHi (p : Nat)
  | spnStreamLen (p : Nat)
  | spnLend (p : Nat)
  | spnT3Free (p : Nat)
  | spnWindowMiss (p : Nat)
  | spnCmdAddrLo (p : Nat)
  | spnCmdAddrHi (p : Nat)
  | spnCmdCount (p : Nat)
  | spnCmdOp (p : Nat)
  | spnCmdStatus (p : Nat)
  | spnPagesT0 (p : Nat)
  | spnPagesT1 (p : Nat)
  | spnPagesT2 (p : Nat)
  | spnPagesT3 (p : Nat)
  | spnPagesLost (p : Nat)
  | spnPagesCached (p : Nat)
  | spnPolicy (p : Nat) (n : Nat)
  | spnXlate (p : Nat) (n : Nat)
  | mcgStatus (g : Nat)
  | mcgConfig (g : Nat)
  | mcgTherm (g : Nat)
  | mcgScrubCtrl (g : Nat)
  | mcgScrubPass (g : Nat)
  | mcgRemapCtrl (g : Nat)
  | mcgSpares (g : Nat)
  | mcgRetired (g : Nat)
  | mcgUsableMib (g : Nat)
  | mcgUeCnt (g : Nat)
  | mcgTest (g : Nat)
  | mcgTestRow (g : Nat)
  | mcgCeCnt (g : Nat) (n : Nat)
  | lnkStatus (e : Nat)
  | lnkCtrl (e : Nat)
  | lnkLaneTest (e : Nat)
  | lnkFecCorrLo (e : Nat)
  | lnkFecCorrHi (e : Nat)
  | lnkFecUncorr (e : Nat)
  | lnkCrcFail (e : Nat)
  | lnkReplay (e : Nat)
  | lnkRetired (e : Nat)
  | lnkGcmFail (e : Nat)
  | lnkResend (e : Nat)
  | lnkDup (e : Nat)
  | lnkCredStall (e : Nat)
  | lnkProto (e : Nat)
  | lnkVcCred (e : Nat) (v : Nat)
  | lnkLaneSer (e : Nat) (l : Nat)
  | rdePeer (n : Nat)
  | rdeMirAreaLo (p : Nat)
  | rdeMirAreaHi (p : Nat)
  | rdeMirLen (p : Nat)
  | rdePairPlen (p : Nat)
  | rdePairMlen (p : Nat)
  | rdePlan (n : Nat) (w : Nat)
  | hptStatus (h : Nat)
  | hptPfc (h : Nat)
  | hptCc (h : Nat)
  | hptRxDrop (h : Nat)
  | hptIcrcErr (h : Nat)
  | hptAccessErr (h : Nat)
  | hptCnpRx (h : Nat)
  | hptCnpTx (h : Nat)
  | hptPausedUs (h : Nat)
  | qpCtrl (q : Nat)
  | qpPart (q : Nat)
  | qpDest (q : Nat)
  | qpRetry (q : Nat)
  | qpPsn (q : Nat)
  | qpRpsn (q : Nat)
  | qpSport (q : Nat)
  | qpRingLo (q : Nat)
  | qpRingHi (q : Nat)
  | qpRingN (q : Nat)
  | qpRingAck (q : Nat)
  | qpDgid (q : Nat) (w : Nat)
  | mwKey (w : Nat)
  | mwAttr (w : Nat)
  | mwBaseLo (w : Nat)
  | mwBaseHi (w : Nat)
  | mwLen (w : Nat)
  | mwVaLo (w : Nat)
  | mwVaHi (w : Nat)
  | lifLogData (n : Nat)
  | jobTableKey (p : Nat)
  | jobCtrl (p : Nat)
  | jobCoreStatus (p : Nat) (c : Nat)
  | jobStashQuota (p : Nat)
  | jobRingCtrl (p : Nat) (r : Nat)
  | jobRingSeq (p : Nat) (r : Nat)
  | glbIdcode
  | glbRev
  | glbMePresent
  | glbPos
  | glbBoot
  | glbDropAddr
  | glbDropCnt
  | glbFclkLo
  | glbFclkHi
  | pwrState
  | pwrReq
  | pwrIdle
  | pwrAuto
  | pwrDvfs
  | pwrVreqMv
  | pwrCapWatts
  | pwrIssue
  | pwrBrake
  | pwrWake
  | pwrAlarm
  | pwrMemRetain
  | pwrAborts
  | pwrMidnights
  | pwrWakeBad
  | pwrThrUsLo
  | pwrThrUsHi
  | telTempMax
  | telThermCtrl
  | telPower
  | telEDevLo
  | telEDevHi
  | secStatus
  | secDebug
  | errStatus
  | errHaltSeq
  | errPreset
  | csRetire
  | ldgAudit
  | ldgAuditStatus
  | ldgReclaimGr
  | cxeStatus
  | spnStatus
  | spnCsRetain
  | spnLentOut
  | spnBorrowed
  | spnMoveAborts
  | spnXcMissLo
  | spnXcMissHi
  | rdeStatus
  | rdeGroup
  | rdeMaster
  | rdeGroupCtrl
  | rdeRngCtrl
  | rdeSaturated
  | rdeEscalated
  | rdeStale
  | rdeLost
  | rdeBlkClosedLo
  | rdeBlkClosedHi
  | rdeCntDelta
  | rdeEvtDrop
  | rdeReadyDrop
  | rdePaceCnt
  | lifCalLo
  | lifCalHi
  | lifCalSetLo
  | lifCalSetHi
  | lifCalStatus
  | lifPoweredS
  | lifBootCount
  | lifEnergyJLo
  | lifEnergyJHi
  | lifLogHead
  | lifLogIdx
  | lifLogStatus
  | lifOvlStatus
  | lifOvlCtrl
  | lifFlashSrcLo
  | lifFlashSrcHi
  | lifFlashLen
  | lifFlashCmd
  | lifFlashStatus
  | lifFwVersion
  | lifFwStaged
deriving DecidableEq, Repr

/-- One field of a register: its lowest bit, its width, how it is accessed, its class, its value in the reset column
(a word of Table 16.2 counts as 0: the boot steps then set the field). -/
structure FieldSpec where
  lo : Nat
  width : Nat
  acc : Acc
  cls : Cls
  rst : Nat
deriving DecidableEq, Repr

/-- A named field of one register. -/
structure Fld where
  reg : Reg
  lo : Nat
  width : Nat
deriving DecidableEq, Repr

/-- The fields of a register (reserved bits belong to no field: R13). -/
def Reg.fields : Reg → List FieldSpec
  | .glbSerial _ => [⟨0, 32, .ro, .s, 0⟩]
  | .glbScratch _ => [⟨0, 32, .rw, .l, 0⟩]
  | .telTemp _ => [⟨0, 12, .ro, .none, 0⟩]
  | .telERailLo _ => [⟨0, 32, .ro, .none, 0⟩]
  | .telERailHi _ => [⟨0, 32, .ro, .none, 0⟩]
  | .telEPartLo _ => [⟨0, 32, .ro, .none, 0⟩]
  | .telEPartHi _ => [⟨0, 32, .ro, .none, 0⟩]
  | .secPartCfg _ => [⟨0, 4, .ro, .s, 0⟩, ⟨4, 4, .ro, .s, 0⟩, ⟨8, 1, .ro, .s, 0⟩, ⟨9, 3, .ro, .s, 0⟩, ⟨12, 1, .ro, .s, 0⟩]
  | .secPartMcg _ => [⟨0, 24, .ro, .s, 0⟩]
  | .secPartEp _ => [⟨0, 16, .ro, .s, 0⟩]
  | .secPartTs _ => [⟨0, 32, .ro, .none, 0⟩]
  | .secCmdLo _ => [⟨0, 32, .rw, .l, 0⟩]
  | .secCmdHi _ => [⟨0, 32, .rw, .l, 0⟩]
  | .secCmdOp _ => [⟨0, 4, .wo, .l, 0⟩]
  | .secCmdStatus _ => [⟨0, 1, .ro, .none, 0⟩, ⟨4, 4, .ro, .none, 0⟩]
  | .secCmdDetail _ => [⟨0, 32, .ro, .none, 0⟩]
  | .secAttCtrl _ => [⟨0, 1, .wo, .l, 0⟩, ⟨1, 4, .rw, .l, 0⟩]
  | .secAttStatus _ => [⟨0, 1, .ro, .none, 0⟩, ⟨1, 1, .ro, .none, 0⟩]
  | .secAttNonce _ _ => [⟨0, 32, .rw, .l, 0⟩]
  | .secQpTs _ => [⟨0, 4, .rw, .q, 0⟩]
  | .secCert _ => [⟨0, 32, .ro, .none, 0⟩]
  | .secReport _ _ => [⟨0, 32, .ro, .none, 0⟩]
  | .errInsvc _ => [⟨0, 32, .ro, .none, 0⟩]
  | .errBankStat _ => [⟨0, 3, .ro, .none, 0⟩, ⟨3, 2, .ro, .none, 0⟩, ⟨5, 1, .ro, .none, 0⟩, ⟨8, 8, .ro, .none, 0⟩]
  | .errBankAck _ => [⟨0, 1, .wo, .l, 0⟩]
  | .ldgCsCache _ => [⟨0, 16, .ro, .none, 0⟩, ⟨16, 16, .ro, .none, 0⟩]
  | .ldgCsTransit _ => [⟨0, 16, .ro, .none, 0⟩, ⟨16, 16, .ro, .none, 0⟩]
  | .ldgJobsTaken _ => [⟨0, 32, .ro, .none, 0⟩]
  | .ldgJobsEnded _ => [⟨0, 32, .ro, .none, 0⟩]
  | .ldgReclaimSpan _ => [⟨0, 32, .ro, .none, 0⟩]
  | .ldgReclaimKv _ => [⟨0, 32, .ro, .none, 0⟩]
  | .ldgLinkSent _ => [⟨0, 32, .ro, .none, 0⟩]
  | .ldgLinkRecv _ => [⟨0, 32, .ro, .none, 0⟩]
  | .ldgLinkRtx _ => [⟨0, 32, .ro, .none, 0⟩]
  | .ldgLinkRrx _ => [⟨0, 32, .ro, .none, 0⟩]
  | .errRecord _ _ _ => [⟨0, 32, .ro, .none, 0⟩]
  | .coreSqStatus _ => [⟨0, 3, .ro, .none, 0⟩, ⟨3, 1, .ro, .none, 0⟩, ⟨4, 8, .ro, .none, 0⟩, ⟨12, 16, .ro, .none, 0⟩]
  | .coreFence _ => [⟨0, 1, .wo, .l, 0⟩, ⟨1, 1, .wo, .l, 0⟩, ⟨2, 1, .ro, .none, 0⟩]
  | .engStatus _ => [⟨0, 4, .ro, .none, 0⟩, ⟨4, 8, .ro, .none, 0⟩, ⟨12, 1, .ro, .none, 0⟩, ⟨13, 3, .ro, .none, 0⟩, ⟨16, 7, .ro, .none, 64⟩]
  | .engCtrl _ => [⟨0, 1, .wo, .l, 0⟩, ⟨1, 1, .rw, .q, 1⟩, ⟨2, 1, .wo, .l, 0⟩]
  | .engTest _ => [⟨0, 1, .wo, .l, 0⟩, ⟨1, 1, .wo, .l, 0⟩, ⟨2, 2, .ro, .none, 0⟩]
  | .engRowsLo _ => [⟨0, 32, .ro, .none, 0⟩]
  | .engRowsHi _ => [⟨0, 32, .ro, .none, 0⟩]
  | .engFreezeLo _ => [⟨0, 32, .ro, .none, 0⟩]
  | .engFreezeHi _ => [⟨0, 32, .ro, .none, 0⟩]
  | .engThrottleLo _ => [⟨0, 32, .ro, .none, 0⟩]
  | .engThrottleHi _ => [⟨0, 32, .ro, .none, 0⟩]
  | .coreRngCtrl _ => [⟨0, 1, .rw, .q, 0⟩, ⟨16, 16, .rw, .q, 0⟩]
  | .coreCtr _ _ => [⟨0, 16, .ro, .none, 0⟩]
  | .veStatus _ => [⟨0, 2, .ro, .none, 0⟩, ⟨2, 1, .ro, .none, 0⟩, ⟨8, 8, .ro, .none, 0⟩, ⟨16, 11, .ro, .none, 1024⟩]
  | .veFlags _ => [⟨0, 1, .w1c, .l, 0⟩, ⟨1, 1, .w1c, .l, 0⟩, ⟨2, 1, .w1c, .l, 0⟩]
  | .vePc _ => [⟨0, 13, .ro, .none, 0⟩]
  | .veRetiredLo _ => [⟨0, 32, .ro, .none, 0⟩]
  | .veRetiredHi _ => [⟨0, 32, .ro, .none, 0⟩]
  | .veMemstallLo _ => [⟨0, 32, .ro, .none, 0⟩]
  | .veMemstallHi _ => [⟨0, 32, .ro, .none, 0⟩]
  | .cxePartLayoutLo _ => [⟨0, 32, .ro, .s, 0⟩]
  | .cxePartLayoutHi _ => [⟨0, 20, .ro, .s, 0⟩]
  | .cxePartIds _ => [⟨0, 12, .ro, .s, 0⟩, ⟨12, 13, .ro, .s, 0⟩]
  | .cxeStarveCtrl _ => [⟨0, 16, .rw, .l, 200⟩, ⟨16, 1, .rw, .l, 1⟩]
  | .cxePagesFree _ => [⟨0, 32, .ro, .none, 0⟩]
  | .cxePagesRef _ => [⟨0, 32, .ro, .none, 0⟩]
  | .cxePagesShared _ => [⟨0, 32, .ro, .none, 0⟩]
  | .cxePagesParked _ => [⟨0, 32, .ro, .none, 0⟩]
  | .cxePagesLent _ => [⟨0, 32, .ro, .none, 0⟩]
  | .cxeParked _ => [⟨0, 32, .ro, .none, 0⟩]
  | .cxeStarveEvents _ => [⟨0, 32, .ro, .none, 0⟩]
  | .cxeStarveFails _ => [⟨0, 32, .ro, .none, 0⟩]
  | .cxeHashColl _ => [⟨0, 32, .ro, .none, 0⟩]
  | .cxePoolFree _ _ => [⟨0, 32, .ro, .none, 0⟩]
  | .spnLendPeer _ => [⟨0, 12, .rw, .q, 0⟩, ⟨12, 1, .rw, .q, 0⟩]
  | .spnLendPeerGr _ => [⟨0, 32, .ro, .none, 0⟩]
  | .spnRange _ => [⟨0, 24, .ro, .s, 0⟩]
  | .spnRangeSize _ => [⟨0, 23, .ro, .s, 0⟩]
  | .spnT0Pin _ => [⟨0, 10, .ro, .s, 0⟩]
  | .spnT1Water _ => [⟨0, 16, .rw, .l, 8⟩, ⟨16, 16, .rw, .l, 16⟩]
  | .spnWindow _ => [⟨0, 7, .rw, .b, 16⟩, ⟨8, 4, .rw, .b, 2⟩, ⟨12, 1, .rw, .b, 0⟩]
  | .spnStreamLo _ => [⟨0, 32, .rw, .b, 0⟩]
  | .spnStreamHi _ => [⟨0, 20, .rw, .b, 0⟩]
  | .spnStreamLen _ => [⟨0, 32, .rw, .b, 0⟩]
  | .spnLend _ => [⟨0, 1, .rw, .l, 0⟩, ⟨1, 6, .rw, .q, 0⟩]
  | .spnT3Free _ => [⟨0, 32, .ro, .none, 0⟩]
  | .spnWindowMiss _ => [⟨0, 32, .ro, .none, 0⟩]
  | .spnCmdAddrLo _ => [⟨0, 32, .rw, .l, 0⟩]
  | .spnCmdAddrHi _ => [⟨0, 20, .rw, .l, 0⟩]
  | .spnCmdCount _ => [⟨0, 24, .rw, .l, 0⟩]
  | .spnCmdOp _ => [⟨0, 4, .wo, .l, 0⟩, ⟨4, 2, .wo, .l, 0⟩]
  | .spnCmdStatus _ => [⟨0, 1, .ro, .none, 0⟩, ⟨4, 4, .ro, .none, 0⟩, ⟨8, 24, .ro, .none, 0⟩]
  | .spnPagesT0 _ => [⟨0, 32, .ro, .none, 0⟩]
  | .spnPagesT1 _ => [⟨0, 32, .ro, .none, 0⟩]
  | .spnPagesT2 _ => [⟨0, 32, .ro, .none, 0⟩]
  | .spnPagesT3 _ => [⟨0, 32, .ro, .none, 0⟩]
  | .spnPagesLost _ => [⟨0, 32, .ro, .none, 0⟩]
  | .spnPagesCached _ => [⟨0, 32, .ro, .none, 0⟩]
  | .spnPolicy _ _ => [⟨0, 1, .rw, .l, 1⟩, ⟨1, 1, .rw, .l, 0⟩, ⟨2, 1, .rw, .l, 0⟩, ⟨3, 1, .rw, .l, 1⟩, ⟨4, 3, .rw, .l, 0⟩, ⟨7, 1, .rw, .l, 0⟩, ⟨8, 1, .rw, .l, 0⟩, ⟨9, 2, .rw, .l, 0⟩, ⟨12, 2, .rw, .l, 0⟩]
  | .spnXlate _ _ => [⟨0, 32, .ro, .none, 0⟩]
  | .mcgStatus _ => [⟨0, 1, .ro, .none, 0⟩, ⟨1, 1, .ro, .none, 0⟩, ⟨2, 1, .ro, .none, 0⟩, ⟨3, 1, .ro, .none, 0⟩, ⟨4, 3, .ro, .none, 0⟩, ⟨7, 1, .ro, .none, 0⟩]
  | .mcgConfig _ => [⟨0, 2, .ro, .s, 0⟩, ⟨2, 1, .ro, .s, 0⟩, ⟨3, 1, .ro, .s, 0⟩, ⟨4, 1, .ro, .s, 0⟩]
  | .mcgTherm _ => [⟨0, 20, .ro, .none, 0⟩, ⟨20, 7, .ro, .none, 64⟩]
  | .mcgScrubCtrl _ => [⟨0, 1, .rw, .l, 1⟩, ⟨8, 8, .rw, .l, 24⟩]
  | .mcgScrubPass _ => [⟨0, 32, .ro, .none, 0⟩]
  | .mcgRemapCtrl _ => [⟨0, 4, .rw, .l, 4⟩, ⟨8, 8, .rw, .l, 24⟩]
  | .mcgSpares _ => [⟨0, 9, .ro, .none, 0⟩]
  | .mcgRetired _ => [⟨0, 32, .ro, .none, 0⟩]
  | .mcgUsableMib _ => [⟨0, 32, .ro, .none, 0⟩]
  | .mcgUeCnt _ => [⟨0, 32, .ro, .none, 0⟩]
  | .mcgTest _ => [⟨0, 2, .wo, .l, 0⟩, ⟨2, 1, .wo, .l, 0⟩, ⟨3, 1, .wo, .l, 0⟩, ⟨4, 1, .ro, .none, 0⟩, ⟨5, 3, .ro, .none, 0⟩]
  | .mcgTestRow _ => [⟨0, 32, .ro, .none, 0⟩]
  | .mcgCeCnt _ _ => [⟨0, 32, .ro, .none, 0⟩]
  | .lnkStatus _ => [⟨0, 3, .ro, .none, 0⟩, ⟨3, 2, .ro, .none, 0⟩, ⟨5, 8, .ro, .none, 0⟩, ⟨13, 1, .ro, .none, 0⟩, ⟨14, 1, .ro, .s, 0⟩]
  | .lnkCtrl _ => [⟨0, 1, .wo, .l, 0⟩, ⟨1, 1, .rw, .l, 0⟩]
  | .lnkLaneTest _ => [⟨0, 8, .wo, .l, 0⟩, ⟨8, 1, .ro, .none, 0⟩, ⟨9, 8, .ro, .none, 0⟩]
  | .lnkFecCorrLo _ => [⟨0, 32, .ro, .none, 0⟩]
  | .lnkFecCorrHi _ => [⟨0, 32, .ro, .none, 0⟩]
  | .lnkFecUncorr _ => [⟨0, 32, .ro, .none, 0⟩]
  | .lnkCrcFail _ => [⟨0, 32, .ro, .none, 0⟩]
  | .lnkReplay _ => [⟨0, 32, .ro, .none, 0⟩]
  | .lnkRetired _ => [⟨0, 32, .ro, .none, 0⟩]
  | .lnkGcmFail _ => [⟨0, 32, .ro, .none, 0⟩]
  | .lnkResend _ => [⟨0, 32, .ro, .none, 0⟩]
  | .lnkDup _ => [⟨0, 32, .ro, .none, 0⟩]
  | .lnkCredStall _ => [⟨0, 32, .ro, .none, 0⟩]
  | .lnkProto _ => [⟨0, 32, .ro, .none, 0⟩]
  | .lnkVcCred _ _ => [⟨0, 11, .ro, .s, 0⟩, ⟨11, 11, .ro, .none, 0⟩]
  | .lnkLaneSer _ _ => [⟨0, 32, .ro, .none, 0⟩]
  | .rdePeer _ => [⟨0, 12, .ro, .none, 0⟩, ⟨12, 1, .ro, .none, 0⟩, ⟨13, 1, .ro, .none, 0⟩]
  | .rdeMirAreaLo _ => [⟨0, 32, .rw, .q, 0⟩]
  | .rdeMirAreaHi _ => [⟨0, 20, .rw, .q, 0⟩]
  | .rdeMirLen _ => [⟨0, 24, .rw, .q, 0⟩]
  | .rdePairPlen _ => [⟨0, 24, .rw, .q, 0⟩]
  | .rdePairMlen _ => [⟨0, 24, .rw, .q, 0⟩]
  | .rdePlan _ _ => [⟨0, 32, .rw, .q, 0⟩]
  | .hptStatus _ => [⟨0, 1, .ro, .none, 0⟩, ⟨1, 2, .ro, .s, 0⟩, ⟨3, 1, .ro, .s, 0⟩]
  | .hptPfc _ => [⟨0, 3, .ro, .s, 3⟩, ⟨3, 1, .rw, .l, 1⟩, ⟨4, 10, .rw, .l, 768⟩, ⟨14, 10, .rw, .l, 512⟩]
  | .hptCc _ => [⟨0, 3, .rw, .l, 2⟩, ⟨3, 3, .rw, .l, 6⟩, ⟨6, 8, .rw, .l, 50⟩, ⟨14, 8, .rw, .l, 50⟩, ⟨22, 8, .rw, .l, 50⟩]
  | .hptRxDrop _ => [⟨0, 32, .ro, .none, 0⟩]
  | .hptIcrcErr _ => [⟨0, 32, .ro, .none, 0⟩]
  | .hptAccessErr _ => [⟨0, 32, .ro, .none, 0⟩]
  | .hptCnpRx _ => [⟨0, 32, .ro, .none, 0⟩]
  | .hptCnpTx _ => [⟨0, 32, .ro, .none, 0⟩]
  | .hptPausedUs _ => [⟨0, 32, .ro, .none, 0⟩]
  | .qpCtrl _ => [⟨0, 3, .rw, .l, 0⟩, ⟨3, 8, .ro, .none, 0⟩]
  | .qpPart _ => [⟨0, 2, .ro, .s, 0⟩, ⟨2, 2, .ro, .s, 0⟩, ⟨4, 1, .ro, .s, 0⟩]
  | .qpDest _ => [⟨0, 24, .rw, .q, 0⟩, ⟨24, 3, .rw, .q, 0⟩, ⟨27, 5, .rw, .q, 14⟩]
  | .qpRetry _ => [⟨0, 3, .rw, .q, 7⟩, ⟨3, 3, .rw, .q, 7⟩, ⟨6, 5, .rw, .q, 1⟩, ⟨11, 6, .rw, .q, 26⟩]
  | .qpPsn _ => [⟨0, 24, .rw, .q, 0⟩]
  | .qpRpsn _ => [⟨0, 24, .rw, .q, 0⟩]
  | .qpSport _ => [⟨0, 16, .rw, .q, 49152⟩, ⟨16, 2, .rw, .q, 0⟩]
  | .qpRingLo _ => [⟨0, 32, .rw, .q, 0⟩]
  | .qpRingHi _ => [⟨0, 32, .rw, .q, 0⟩]
  | .qpRingN _ => [⟨0, 4, .rw, .q, 0⟩]
  | .qpRingAck _ => [⟨0, 32, .rw, .l, 0⟩]
  | .qpDgid _ _ => [⟨0, 32, .rw, .q, 0⟩]
  | .mwKey _ => [⟨0, 32, .ro, .s, 0⟩]
  | .mwAttr _ => [⟨0, 2, .ro, .s, 0⟩, ⟨2, 2, .ro, .s, 0⟩, ⟨4, 1, .ro, .s, 0⟩, ⟨5, 1, .ro, .s, 0⟩, ⟨6, 1, .ro, .s, 0⟩]
  | .mwBaseLo _ => [⟨0, 32, .ro, .s, 0⟩]
  | .mwBaseHi _ => [⟨0, 32, .ro, .s, 0⟩]
  | .mwLen _ => [⟨0, 32, .ro, .s, 0⟩]
  | .mwVaLo _ => [⟨0, 32, .ro, .s, 0⟩]
  | .mwVaHi _ => [⟨0, 32, .ro, .s, 0⟩]
  | .lifLogData _ => [⟨0, 32, .ro, .none, 0⟩]
  | .jobTableKey _ => [⟨0, 32, .ro, .s, 0⟩]
  | .jobCtrl _ => [⟨0, 4, .wo, .l, 0⟩, ⟨4, 4, .wo, .l, 0⟩]
  | .jobCoreStatus _ _ => [⟨0, 2, .ro, .none, 0⟩, ⟨2, 4, .ro, .none, 0⟩, ⟨8, 8, .ro, .none, 0⟩]
  | .jobStashQuota _ => [⟨0, 10, .rw, .q, 192⟩, ⟨16, 16, .rw, .q, 32⟩]
  | .jobRingCtrl _ _ => [⟨0, 1, .rw, .l, 0⟩, ⟨1, 1, .wo, .q, 0⟩]
  | .jobRingSeq _ _ => [⟨0, 32, .ro, .none, 1⟩]
  | .glbIdcode => [⟨0, 1, .ro, .none, 1⟩, ⟨1, 11, .ro, .none, 1781⟩, ⟨12, 16, .ro, .none, 34816⟩, ⟨28, 4, .ro, .none, 1⟩]
  | .glbRev => [⟨0, 8, .ro, .none, 1⟩, ⟨8, 8, .ro, .none, 1⟩]
  | .glbMePresent => [⟨0, 8, .ro, .s, 0⟩, ⟨8, 2, .ro, .s, 0⟩]
  | .glbPos => [⟨0, 12, .ro, .s, 0⟩, ⟨12, 6, .ro, .s, 0⟩, ⟨18, 1, .ro, .s, 0⟩]
  | .glbBoot => [⟨0, 1, .ro, .none, 0⟩, ⟨1, 4, .ro, .none, 0⟩, ⟨8, 4, .ro, .none, 0⟩, ⟨12, 1, .ro, .none, 0⟩, ⟨13, 1, .ro, .none, 0⟩, ⟨14, 1, .ro, .none, 0⟩, ⟨15, 1, .ro, .none, 0⟩, ⟨16, 2, .ro, .none, 0⟩, ⟨18, 8, .ro, .none, 0⟩]
  | .glbDropAddr => [⟨0, 26, .ro, .none, 0⟩]
  | .glbDropCnt => [⟨0, 32, .ro, .none, 0⟩]
  | .glbFclkLo => [⟨0, 32, .ro, .none, 0⟩]
  | .glbFclkHi => [⟨0, 32, .ro, .none, 0⟩]
  | .pwrState => [⟨0, 3, .ro, .none, 0⟩, ⟨3, 1, .ro, .none, 0⟩, ⟨4, 4, .ro, .none, 0⟩, ⟨8, 8, .ro, .none, 0⟩, ⟨16, 4, .ro, .none, 0⟩, ⟨20, 3, .ro, .none, 0⟩]
  | .pwrReq => [⟨0, 1, .wo, .l, 0⟩, ⟨1, 1, .rw, .l, 0⟩]
  | .pwrIdle => [⟨0, 16, .rw, .l, 50⟩, ⟨16, 1, .rw, .l, 1⟩]
  | .pwrAuto => [⟨0, 16, .rw, .l, 0⟩]
  | .pwrDvfs => [⟨0, 2, .rw, .l, 0⟩, ⟨2, 2, .rw, .l, 0⟩, ⟨4, 2, .ro, .none, 0⟩, ⟨6, 1, .ro, .none, 0⟩, ⟨7, 1, .w1c, .l, 0⟩]
  | .pwrVreqMv => [⟨0, 10, .ro, .none, 720⟩]
  | .pwrCapWatts => [⟨0, 11, .rw, .l, 1400⟩]
  | .pwrIssue => [⟨0, 7, .ro, .none, 64⟩, ⟨7, 7, .ro, .none, 64⟩, ⟨14, 7, .ro, .none, 64⟩, ⟨21, 1, .ro, .none, 0⟩, ⟨22, 1, .ro, .none, 0⟩, ⟨23, 1, .ro, .none, 0⟩, ⟨24, 1, .ro, .none, 0⟩]
  | .pwrBrake => [⟨0, 7, .rw, .l, 4⟩, ⟨8, 8, .rw, .q, 40⟩]
  | .pwrWake => [⟨0, 1, .rw, .l, 1⟩, ⟨1, 1, .rw, .l, 0⟩, ⟨2, 2, .ro, .s, 0⟩]
  | .pwrAlarm => [⟨0, 32, .rw, .l, 0⟩]
  | .pwrMemRetain => [⟨0, 24, .rw, .l, 16777215⟩]
  | .pwrAborts => [⟨0, 32, .ro, .none, 0⟩]
  | .pwrMidnights => [⟨0, 32, .ro, .none, 0⟩]
  | .pwrWakeBad => [⟨0, 32, .ro, .none, 0⟩]
  | .pwrThrUsLo => [⟨0, 32, .ro, .none, 0⟩]
  | .pwrThrUsHi => [⟨0, 32, .ro, .none, 0⟩]
  | .telTempMax => [⟨0, 12, .ro, .none, 0⟩, ⟨12, 7, .ro, .none, 0⟩, ⟨19, 1, .ro, .none, 0⟩, ⟨20, 1, .ro, .none, 0⟩]
  | .telThermCtrl => [⟨0, 8, .rw, .l, 95⟩, ⟨8, 8, .rw, .l, 105⟩]
  | .telPower => [⟨0, 16, .ro, .none, 0⟩]
  | .telEDevLo => [⟨0, 32, .ro, .none, 0⟩]
  | .telEDevHi => [⟨0, 32, .ro, .none, 0⟩]
  | .secStatus => [⟨0, 1, .ro, .none, 0⟩, ⟨1, 1, .ro, .none, 0⟩, ⟨2, 4, .ro, .none, 0⟩, ⟨6, 4, .ro, .none, 0⟩]
  | .secDebug => [⟨0, 1, .rw, .l, 0⟩]
  | .errStatus => [⟨0, 1, .ro, .none, 0⟩, ⟨1, 1, .ro, .none, 0⟩]
  | .errHaltSeq => [⟨0, 32, .ro, .none, 0⟩]
  | .errPreset => [⟨0, 4, .wo, .l, 0⟩, ⟨4, 4, .ro, .none, 0⟩]
  | .csRetire => [⟨0, 9, .wo, .l, 0⟩, ⟨9, 1, .ro, .none, 0⟩, ⟨10, 4, .ro, .none, 8⟩]
  | .ldgAudit => [⟨0, 8, .wo, .l, 0⟩, ⟨8, 1, .wo, .l, 0⟩]
  | .ldgAuditStatus => [⟨0, 1, .ro, .none, 0⟩, ⟨1, 3, .ro, .none, 0⟩, ⟨4, 3, .ro, .none, 0⟩, ⟨8, 4, .ro, .none, 0⟩]
  | .ldgReclaimGr => [⟨0, 32, .ro, .none, 0⟩]
  | .cxeStatus => [⟨0, 13, .ro, .none, 0⟩, ⟨16, 12, .ro, .none, 0⟩]
  | .spnStatus => [⟨0, 4, .ro, .none, 0⟩, ⟨4, 4, .ro, .none, 0⟩, ⟨8, 4, .ro, .none, 0⟩, ⟨12, 5, .ro, .none, 0⟩]
  | .spnCsRetain => [⟨0, 32, .rw, .l, 0⟩]
  | .spnLentOut => [⟨0, 32, .ro, .none, 0⟩]
  | .spnBorrowed => [⟨0, 32, .ro, .none, 0⟩]
  | .spnMoveAborts => [⟨0, 32, .ro, .none, 0⟩]
  | .spnXcMissLo => [⟨0, 32, .ro, .none, 0⟩]
  | .spnXcMissHi => [⟨0, 32, .ro, .none, 0⟩]
  | .rdeStatus => [⟨0, 9, .ro, .none, 0⟩, ⟨9, 1, .ro, .none, 0⟩, ⟨10, 2, .ro, .none, 0⟩, ⟨12, 1, .ro, .none, 0⟩]
  | .rdeGroup => [⟨0, 12, .ro, .none, 0⟩, ⟨12, 13, .ro, .s, 1⟩]
  | .rdeMaster => [⟨0, 12, .ro, .none, 0⟩, ⟨12, 1, .ro, .none, 0⟩, ⟨16, 12, .ro, .s, 4095⟩]
  | .rdeGroupCtrl => [⟨0, 16, .rw, .l, 1000⟩, ⟨16, 1, .rw, .q, 0⟩]
  | .rdeRngCtrl => [⟨0, 1, .rw, .q, 0⟩, ⟨16, 16, .rw, .q, 0⟩]
  | .rdeSaturated => [⟨0, 32, .ro, .none, 0⟩]
  | .rdeEscalated => [⟨0, 32, .ro, .none, 0⟩]
  | .rdeStale => [⟨0, 32, .ro, .none, 0⟩]
  | .rdeLost => [⟨0, 32, .ro, .none, 0⟩]
  | .rdeBlkClosedLo => [⟨0, 32, .ro, .none, 0⟩]
  | .rdeBlkClosedHi => [⟨0, 32, .ro, .none, 0⟩]
  | .rdeCntDelta => [⟨0, 32, .ro, .none, 0⟩]
  | .rdeEvtDrop => [⟨0, 32, .ro, .none, 0⟩]
  | .rdeReadyDrop => [⟨0, 32, .ro, .none, 0⟩]
  | .rdePaceCnt => [⟨0, 32, .ro, .none, 0⟩]
  | .lifCalLo => [⟨0, 32, .ro, .none, 0⟩]
  | .lifCalHi => [⟨0, 32, .ro, .none, 0⟩]
  | .lifCalSetLo => [⟨0, 32, .rw, .l, 0⟩]
  | .lifCalSetHi => [⟨0, 32, .rw, .l, 0⟩]
  | .lifCalStatus => [⟨0, 1, .ro, .none, 0⟩]
  | .lifPoweredS => [⟨0, 32, .ro, .none, 0⟩]
  | .lifBootCount => [⟨0, 32, .ro, .none, 0⟩]
  | .lifEnergyJLo => [⟨0, 32, .ro, .none, 0⟩]
  | .lifEnergyJHi => [⟨0, 32, .ro, .none, 0⟩]
  | .lifLogHead => [⟨0, 32, .ro, .none, 0⟩]
  | .lifLogIdx => [⟨0, 32, .rw, .l, 0⟩]
  | .lifLogStatus => [⟨0, 1, .ro, .none, 0⟩, ⟨1, 1, .ro, .none, 0⟩]
  | .lifOvlStatus => [⟨0, 14, .ro, .none, 0⟩, ⟨14, 1, .ro, .none, 0⟩, ⟨15, 1, .ro, .none, 0⟩]
  | .lifOvlCtrl => [⟨0, 1, .rw, .l, 0⟩, ⟨1, 1, .wo, .l, 0⟩]
  | .lifFlashSrcLo => [⟨0, 32, .rw, .l, 0⟩]
  | .lifFlashSrcHi => [⟨0, 32, .rw, .l, 0⟩]
  | .lifFlashLen => [⟨0, 23, .rw, .l, 0⟩]
  | .lifFlashCmd => [⟨0, 4, .wo, .l, 0⟩]
  | .lifFlashStatus => [⟨0, 1, .ro, .none, 0⟩, ⟨4, 4, .ro, .none, 0⟩, ⟨8, 2, .ro, .none, 0⟩]
  | .lifFwVersion => [⟨0, 32, .ro, .none, 0⟩]
  | .lifFwStaged => [⟨0, 32, .ro, .none, 0⟩]

/-- The reset column's word of a register. -/
def Reg.resetWord (r : Reg) : Word :=
  BitVec.ofNat 32 ((r.fields.map fun f => f.rst * 2 ^ f.lo).sum)

/-- The address of a register in the control space (R477). -/
def Reg.addr : Reg → Nat
  | .glbSerial n => 0x40 + n * 0x4
  | .glbScratch n => 0x80 + n * 0x4
  | .telTemp n => 0x200100 + n * 0x4
  | .telERailLo r => 0x200200 + r * 0x8
  | .telERailHi r => 0x200204 + r * 0x8
  | .telEPartLo p => 0x200290 + p * 0x8
  | .telEPartHi p => 0x200294 + p * 0x8
  | .secPartCfg p => 0x300100 + p * 0x100
  | .secPartMcg p => 0x300104 + p * 0x100
  | .secPartEp p => 0x300108 + p * 0x100
  | .secPartTs p => 0x30010C + p * 0x100
  | .secCmdLo p => 0x300110 + p * 0x100
  | .secCmdHi p => 0x300114 + p * 0x100
  | .secCmdOp p => 0x300118 + p * 0x100
  | .secCmdStatus p => 0x30011C + p * 0x100
  | .secCmdDetail p => 0x300120 + p * 0x100
  | .secAttCtrl p => 0x300124 + p * 0x100
  | .secAttStatus p => 0x300128 + p * 0x100
  | .secAttNonce p n => 0x300140 + p * 0x100 + n * 0x4
  | .secQpTs q => 0x30C000 + q * 0x4
  | .secCert n => 0x308000 + n * 0x4
  | .secReport p n => 0x310000 + p * 0x2000 + n * 0x4
  | .errInsvc n => 0x400008 + n * 0x4
  | .errBankStat b => 0x401000 + b * 0x10
  | .errBankAck b => 0x401004 + b * 0x10
  | .ldgCsCache p => 0x402100 + p * 0x20
  | .ldgCsTransit p => 0x402104 + p * 0x20
  | .ldgJobsTaken p => 0x402108 + p * 0x20
  | .ldgJobsEnded p => 0x40210C + p * 0x20
  | .ldgReclaimSpan p => 0x402110 + p * 0x20
  | .ldgReclaimKv p => 0x402114 + p * 0x20
  | .ldgLinkSent e => 0x403000 + e * 0x10
  | .ldgLinkRecv e => 0x403004 + e * 0x10
  | .ldgLinkRtx e => 0x403008 + e * 0x10
  | .ldgLinkRrx e => 0x40300C + e * 0x10
  | .errRecord b k n => 0x408000 + b * 0x100 + k * 0x40 + n * 0x4
  | .coreSqStatus c => 0x800000 + c * 0x100000
  | .coreFence c => 0x800004 + c * 0x100000
  | .engStatus e => 0x804000 + e / 2 * 0x100000 + e % 2 * 0x1000 + 0x0
  | .engCtrl e => 0x804000 + e / 2 * 0x100000 + e % 2 * 0x1000 + 0x4
  | .engTest e => 0x804000 + e / 2 * 0x100000 + e % 2 * 0x1000 + 0x8
  | .engRowsLo e => 0x804000 + e / 2 * 0x100000 + e % 2 * 0x1000 + 0x10
  | .engRowsHi e => 0x804000 + e / 2 * 0x100000 + e % 2 * 0x1000 + 0x14
  | .engFreezeLo e => 0x804000 + e / 2 * 0x100000 + e % 2 * 0x1000 + 0x18
  | .engFreezeHi e => 0x804000 + e / 2 * 0x100000 + e % 2 * 0x1000 + 0x1C
  | .engThrottleLo e => 0x804000 + e / 2 * 0x100000 + e % 2 * 0x1000 + 0x20
  | .engThrottleHi e => 0x804000 + e / 2 * 0x100000 + e % 2 * 0x1000 + 0x24
  | .coreRngCtrl c => 0x806000 + c * 0x100000
  | .coreCtr c n => 0x808000 + c * 0x100000 + n * 0x4
  | .veStatus c => 0x80A000 + c * 0x100000
  | .veFlags c => 0x80A004 + c * 0x100000
  | .vePc c => 0x80A008 + c * 0x100000
  | .veRetiredLo c => 0x80A010 + c * 0x100000
  | .veRetiredHi c => 0x80A014 + c * 0x100000
  | .veMemstallLo c => 0x80A018 + c * 0x100000
  | .veMemstallHi c => 0x80A01C + c * 0x100000
  | .cxePartLayoutLo p => 0x1001000 + p * 0x400
  | .cxePartLayoutHi p => 0x1001004 + p * 0x400
  | .cxePartIds p => 0x1001008 + p * 0x400
  | .cxeStarveCtrl p => 0x1001010 + p * 0x400
  | .cxePagesFree p => 0x1001040 + p * 0x400
  | .cxePagesRef p => 0x1001044 + p * 0x400
  | .cxePagesShared p => 0x1001048 + p * 0x400
  | .cxePagesParked p => 0x100104C + p * 0x400
  | .cxePagesLent p => 0x1001050 + p * 0x400
  | .cxeParked p => 0x1001054 + p * 0x400
  | .cxeStarveEvents p => 0x1001060 + p * 0x400
  | .cxeStarveFails p => 0x1001064 + p * 0x400
  | .cxeHashColl p => 0x1001068 + p * 0x400
  | .cxePoolFree p n => 0x1001020 + p * 0x400 + n * 0x4
  | .spnLendPeer n => 0x1400040 + n * 0x8
  | .spnLendPeerGr n => 0x1400044 + n * 0x8
  | .spnRange p => 0x1401000 + p * 0x400
  | .spnRangeSize p => 0x1401004 + p * 0x400
  | .spnT0Pin p => 0x1401008 + p * 0x400
  | .spnT1Water p => 0x140100C + p * 0x400
  | .spnWindow p => 0x1401010 + p * 0x400
  | .spnStreamLo p => 0x1401014 + p * 0x400
  | .spnStreamHi p => 0x1401018 + p * 0x400
  | .spnStreamLen p => 0x140101C + p * 0x400
  | .spnLend p => 0x1401030 + p * 0x400
  | .spnT3Free p => 0x1401034 + p * 0x400
  | .spnWindowMiss p => 0x1401038 + p * 0x400
  | .spnCmdAddrLo p => 0x1401040 + p * 0x400
  | .spnCmdAddrHi p => 0x1401044 + p * 0x400
  | .spnCmdCount p => 0x1401048 + p * 0x400
  | .spnCmdOp p => 0x140104C + p * 0x400
  | .spnCmdStatus p => 0x1401050 + p * 0x400
  | .spnPagesT0 p => 0x1401080 + p * 0x400
  | .spnPagesT1 p => 0x1401084 + p * 0x400
  | .spnPagesT2 p => 0x1401088 + p * 0x400
  | .spnPagesT3 p => 0x140108C + p * 0x400
  | .spnPagesLost p => 0x1401090 + p * 0x400
  | .spnPagesCached p => 0x1401094 + p * 0x400
  | .spnPolicy p n => 0x1401020 + p * 0x400 + n * 0x4
  | .spnXlate p n => 0x1401060 + p * 0x400 + n * 0x4
  | .mcgStatus g => 0x1800000 + g * 0x10000
  | .mcgConfig g => 0x1800004 + g * 0x10000
  | .mcgTherm g => 0x1800008 + g * 0x10000
  | .mcgScrubCtrl g => 0x1800010 + g * 0x10000
  | .mcgScrubPass g => 0x1800014 + g * 0x10000
  | .mcgRemapCtrl g => 0x1800018 + g * 0x10000
  | .mcgSpares g => 0x180001C + g * 0x10000
  | .mcgRetired g => 0x1800020 + g * 0x10000
  | .mcgUsableMib g => 0x1800024 + g * 0x10000
  | .mcgUeCnt g => 0x1800040 + g * 0x10000
  | .mcgTest g => 0x1800050 + g * 0x10000
  | .mcgTestRow g => 0x1800054 + g * 0x10000
  | .mcgCeCnt g n => 0x1800030 + g * 0x10000 + n * 0x4
  | .lnkStatus e => 0x1C00000 + e * 0x1000
  | .lnkCtrl e => 0x1C00004 + e * 0x1000
  | .lnkLaneTest e => 0x1C00008 + e * 0x1000
  | .lnkFecCorrLo e => 0x1C00080 + e * 0x1000
  | .lnkFecCorrHi e => 0x1C00084 + e * 0x1000
  | .lnkFecUncorr e => 0x1C00088 + e * 0x1000
  | .lnkCrcFail e => 0x1C0008C + e * 0x1000
  | .lnkReplay e => 0x1C00090 + e * 0x1000
  | .lnkRetired e => 0x1C00094 + e * 0x1000
  | .lnkGcmFail e => 0x1C00098 + e * 0x1000
  | .lnkResend e => 0x1C0009C + e * 0x1000
  | .lnkDup e => 0x1C000A0 + e * 0x1000
  | .lnkCredStall e => 0x1C000A4 + e * 0x1000
  | .lnkProto e => 0x1C000A8 + e * 0x1000
  | .lnkVcCred e v => 0x1C00010 + e * 0x1000 + v * 0x4
  | .lnkLaneSer e l => 0x1C00040 + e * 0x1000 + l * 0x4
  | .rdePeer n => 0x1E00100 + n * 0x4
  | .rdeMirAreaLo p => 0x1E00200 + p * 0x20
  | .rdeMirAreaHi p => 0x1E00204 + p * 0x20
  | .rdeMirLen p => 0x1E00208 + p * 0x20
  | .rdePairPlen p => 0x1E0020C + p * 0x20
  | .rdePairMlen p => 0x1E00210 + p * 0x20
  | .rdePlan n w => 0x1E01000 + n * 0x40 + w * 0x4
  | .hptStatus h => 0x2000000 + h * 0x10000
  | .hptPfc h => 0x2000004 + h * 0x10000
  | .hptCc h => 0x2000008 + h * 0x10000
  | .hptRxDrop h => 0x2000010 + h * 0x10000
  | .hptIcrcErr h => 0x2000014 + h * 0x10000
  | .hptAccessErr h => 0x2000018 + h * 0x10000
  | .hptCnpRx h => 0x200001C + h * 0x10000
  | .hptCnpTx h => 0x2000020 + h * 0x10000
  | .hptPausedUs h => 0x2000024 + h * 0x10000
  | .qpCtrl q => 0x2080000 + q * 0x40
  | .qpPart q => 0x2080004 + q * 0x40
  | .qpDest q => 0x2080008 + q * 0x40
  | .qpRetry q => 0x208000C + q * 0x40
  | .qpPsn q => 0x2080010 + q * 0x40
  | .qpRpsn q => 0x2080014 + q * 0x40
  | .qpSport q => 0x2080018 + q * 0x40
  | .qpRingLo q => 0x2080030 + q * 0x40
  | .qpRingHi q => 0x2080034 + q * 0x40
  | .qpRingN q => 0x2080038 + q * 0x40
  | .qpRingAck q => 0x208003C + q * 0x40
  | .qpDgid q w => 0x2080020 + q * 0x40 + w * 0x4
  | .mwKey w => 0x20C0000 + w * 0x20
  | .mwAttr w => 0x20C0004 + w * 0x20
  | .mwBaseLo w => 0x20C0008 + w * 0x20
  | .mwBaseHi w => 0x20C000C + w * 0x20
  | .mwLen w => 0x20C0010 + w * 0x20
  | .mwVaLo w => 0x20C0014 + w * 0x20
  | .mwVaHi w => 0x20C0018 + w * 0x20
  | .lifLogData n => 0x2400040 + n * 0x4
  | .jobTableKey p => 0x2800000 + p * 0x10000
  | .jobCtrl p => 0x2800004 + p * 0x10000
  | .jobCoreStatus p c => 0x2800010 + p * 0x10000 + c * 0x4
  | .jobStashQuota p => 0x2800100 + p * 0x10000
  | .jobRingCtrl p r => 0x2800200 + p * 0x10000 + r * 0x10
  | .jobRingSeq p r => 0x2800204 + p * 0x10000 + r * 0x10
  | .glbIdcode => 0x0
  | .glbRev => 0x4
  | .glbMePresent => 0x10
  | .glbPos => 0x14
  | .glbBoot => 0x18
  | .glbDropAddr => 0x20
  | .glbDropCnt => 0x24
  | .glbFclkLo => 0x28
  | .glbFclkHi => 0x2C
  | .pwrState => 0x100000
  | .pwrReq => 0x100004
  | .pwrIdle => 0x100008
  | .pwrAuto => 0x10000C
  | .pwrDvfs => 0x100010
  | .pwrVreqMv => 0x100014
  | .pwrCapWatts => 0x100020
  | .pwrIssue => 0x100024
  | .pwrBrake => 0x100028
  | .pwrWake => 0x100030
  | .pwrAlarm => 0x100034
  | .pwrMemRetain => 0x100038
  | .pwrAborts => 0x100040
  | .pwrMidnights => 0x100044
  | .pwrWakeBad => 0x100048
  | .pwrThrUsLo => 0x100050
  | .pwrThrUsHi => 0x100054
  | .telTempMax => 0x200000
  | .telThermCtrl => 0x200004
  | .telPower => 0x200008
  | .telEDevLo => 0x200280
  | .telEDevHi => 0x200284
  | .secStatus => 0x300000
  | .secDebug => 0x300004
  | .errStatus => 0x400000
  | .errHaltSeq => 0x400004
  | .errPreset => 0x400018
  | .csRetire => 0x400020
  | .ldgAudit => 0x402000
  | .ldgAuditStatus => 0x402004
  | .ldgReclaimGr => 0x402010
  | .cxeStatus => 0x1000000
  | .spnStatus => 0x1400000
  | .spnCsRetain => 0x1400010
  | .spnLentOut => 0x1400020
  | .spnBorrowed => 0x1400024
  | .spnMoveAborts => 0x1400028
  | .spnXcMissLo => 0x1400030
  | .spnXcMissHi => 0x1400034
  | .rdeStatus => 0x1E00000
  | .rdeGroup => 0x1E00004
  | .rdeMaster => 0x1E00008
  | .rdeGroupCtrl => 0x1E0000C
  | .rdeRngCtrl => 0x1E00010
  | .rdeSaturated => 0x1E00020
  | .rdeEscalated => 0x1E00024
  | .rdeStale => 0x1E00028
  | .rdeLost => 0x1E0002C
  | .rdeBlkClosedLo => 0x1E00030
  | .rdeBlkClosedHi => 0x1E00034
  | .rdeCntDelta => 0x1E00038
  | .rdeEvtDrop => 0x1E0003C
  | .rdeReadyDrop => 0x1E00040
  | .rdePaceCnt => 0x1E00180
  | .lifCalLo => 0x2400000
  | .lifCalHi => 0x2400004
  | .lifCalSetLo => 0x2400008
  | .lifCalSetHi => 0x240000C
  | .lifCalStatus => 0x2400010
  | .lifPoweredS => 0x2400018
  | .lifBootCount => 0x240001C
  | .lifEnergyJLo => 0x2400020
  | .lifEnergyJHi => 0x2400024
  | .lifLogHead => 0x2400030
  | .lifLogIdx => 0x2400034
  | .lifLogStatus => 0x2400038
  | .lifOvlStatus => 0x2400080
  | .lifOvlCtrl => 0x2400084
  | .lifFlashSrcLo => 0x2400090
  | .lifFlashSrcHi => 0x2400094
  | .lifFlashLen => 0x2400098
  | .lifFlashCmd => 0x240009C
  | .lifFlashStatus => 0x24000A0
  | .lifFwVersion => 0x24000A4
  | .lifFwStaged => 0x24000A8

/-- The index of `a` in an array of `count` places from `base`, `stride` apart, each one word. -/
def arrIdx (a base stride count : Nat) : Option Nat :=
  if base ≤ a ∧ (a - base) % stride = 0 ∧ (a - base) / stride < count then some ((a - base) / stride) else none

/-- As `arrIdx` for arrays of `n` words `s` apart in each of `m` units `t` apart. -/
def arrIdx2 (a base t m s n : Nat) : Option (Nat × Nat) :=
  if base ≤ a ∧ (a - base) / t < m ∧ (a - base) % t % s = 0 ∧ (a - base) % t / s < n then
    some ((a - base) / t, (a - base) % t / s)
  else none

/-- The registers of the GLB block by address. -/
def regAtGlb (a : Nat) : Option Reg :=
  if a = 0x0 then some .glbIdcode else
  if a = 0x4 then some .glbRev else
  if a = 0x10 then some .glbMePresent else
  if a = 0x14 then some .glbPos else
  if a = 0x18 then some .glbBoot else
  if a = 0x20 then some .glbDropAddr else
  if a = 0x24 then some .glbDropCnt else
  if a = 0x28 then some .glbFclkLo else
  if a = 0x2C then some .glbFclkHi else
  if let some i := arrIdx a 0x40 0x4 4 then some (.glbSerial i) else
  if let some i := arrIdx a 0x80 0x4 4 then some (.glbScratch i) else
  none

/-- The registers of the TEL block by address. -/
def regAtTel (a : Nat) : Option Reg :=
  if a = 0x200000 then some .telTempMax else
  if a = 0x200004 then some .telThermCtrl else
  if a = 0x200008 then some .telPower else
  if a = 0x200280 then some .telEDevLo else
  if a = 0x200284 then some .telEDevHi else
  if let some i := arrIdx a 0x200100 0x4 80 then some (.telTemp i) else
  if let some i := arrIdx a 0x200200 0x8 9 then some (.telERailLo i) else
  if let some i := arrIdx a 0x200204 0x8 9 then some (.telERailHi i) else
  if let some i := arrIdx a 0x200290 0x8 4 then some (.telEPartLo i) else
  if let some i := arrIdx a 0x200294 0x8 4 then some (.telEPartHi i) else
  none

/-- The registers of the SEC block by address. -/
def regAtSec (a : Nat) : Option Reg :=
  if a = 0x300000 then some .secStatus else
  if a = 0x300004 then some .secDebug else
  if let some i := arrIdx a 0x300100 0x100 4 then some (.secPartCfg i) else
  if let some i := arrIdx a 0x300104 0x100 4 then some (.secPartMcg i) else
  if let some i := arrIdx a 0x300108 0x100 4 then some (.secPartEp i) else
  if let some i := arrIdx a 0x30010C 0x100 4 then some (.secPartTs i) else
  if let some i := arrIdx a 0x300110 0x100 4 then some (.secCmdLo i) else
  if let some i := arrIdx a 0x300114 0x100 4 then some (.secCmdHi i) else
  if let some i := arrIdx a 0x300118 0x100 4 then some (.secCmdOp i) else
  if let some i := arrIdx a 0x30011C 0x100 4 then some (.secCmdStatus i) else
  if let some i := arrIdx a 0x300120 0x100 4 then some (.secCmdDetail i) else
  if let some i := arrIdx a 0x300124 0x100 4 then some (.secAttCtrl i) else
  if let some i := arrIdx a 0x300128 0x100 4 then some (.secAttStatus i) else
  if let some (i, j) := arrIdx2 a 0x300140 0x100 4 0x4 8 then some (.secAttNonce i j) else
  if let some i := arrIdx a 0x30C000 0x4 1024 then some (.secQpTs i) else
  if let some i := arrIdx a 0x308000 0x4 939 then some (.secCert i) else
  if let some (i, j) := arrIdx2 a 0x310000 0x2000 4 0x4 2048 then some (.secReport i j) else
  none

/-- The registers of the ERR block by address. -/
def regAtErr (a : Nat) : Option Reg :=
  if a = 0x400000 then some .errStatus else
  if a = 0x400004 then some .errHaltSeq else
  if a = 0x400018 then some .errPreset else
  if a = 0x400020 then some .csRetire else
  if a = 0x402000 then some .ldgAudit else
  if a = 0x402004 then some .ldgAuditStatus else
  if a = 0x402010 then some .ldgReclaimGr else
  if let some i := arrIdx a 0x400008 0x4 3 then some (.errInsvc i) else
  if let some i := arrIdx a 0x401000 0x10 88 then some (.errBankStat i) else
  if let some i := arrIdx a 0x401004 0x10 88 then some (.errBankAck i) else
  if let some i := arrIdx a 0x402100 0x20 4 then some (.ldgCsCache i) else
  if let some i := arrIdx a 0x402104 0x20 4 then some (.ldgCsTransit i) else
  if let some i := arrIdx a 0x402108 0x20 4 then some (.ldgJobsTaken i) else
  if let some i := arrIdx a 0x40210C 0x20 4 then some (.ldgJobsEnded i) else
  if let some i := arrIdx a 0x402110 0x20 4 then some (.ldgReclaimSpan i) else
  if let some i := arrIdx a 0x402114 0x20 4 then some (.ldgReclaimKv i) else
  if let some i := arrIdx a 0x403000 0x10 16 then some (.ldgLinkSent i) else
  if let some i := arrIdx a 0x403004 0x10 16 then some (.ldgLinkRecv i) else
  if let some i := arrIdx a 0x403008 0x10 16 then some (.ldgLinkRtx i) else
  if let some i := arrIdx a 0x40300C 0x10 16 then some (.ldgLinkRrx i) else
  if let some (i, j) := arrIdx2 a 0x408000 0x100 88 0x4 64 then some (.errRecord i (j / 16) (j % 16)) else
  none

/-- The registers of the CORE block by address. -/
def regAtCore (a : Nat) : Option Reg :=
  if let some i := arrIdx a 0x800000 0x100000 4 then some (.coreSqStatus i) else
  if let some i := arrIdx a 0x800004 0x100000 4 then some (.coreFence i) else
  if let some i := arrIdx a 0x806000 0x100000 4 then some (.coreRngCtrl i) else
  if let some (i, j) := arrIdx2 a 0x808000 0x100000 4 0x4 256 then some (.coreCtr i j) else
  if let some i := arrIdx a 0x80A000 0x100000 4 then some (.veStatus i) else
  if let some i := arrIdx a 0x80A004 0x100000 4 then some (.veFlags i) else
  if let some i := arrIdx a 0x80A008 0x100000 4 then some (.vePc i) else
  if let some i := arrIdx a 0x80A010 0x100000 4 then some (.veRetiredLo i) else
  if let some i := arrIdx a 0x80A014 0x100000 4 then some (.veRetiredHi i) else
  if let some i := arrIdx a 0x80A018 0x100000 4 then some (.veMemstallLo i) else
  if let some i := arrIdx a 0x80A01C 0x100000 4 then some (.veMemstallHi i) else
  if let some (i, j) := arrIdx2 a 0x804000 0x100000 4 0x1000 2 then some (.engStatus (2 * i + j)) else
  if let some (i, j) := arrIdx2 a 0x804004 0x100000 4 0x1000 2 then some (.engCtrl (2 * i + j)) else
  if let some (i, j) := arrIdx2 a 0x804008 0x100000 4 0x1000 2 then some (.engTest (2 * i + j)) else
  if let some (i, j) := arrIdx2 a 0x804010 0x100000 4 0x1000 2 then some (.engRowsLo (2 * i + j)) else
  if let some (i, j) := arrIdx2 a 0x804014 0x100000 4 0x1000 2 then some (.engRowsHi (2 * i + j)) else
  if let some (i, j) := arrIdx2 a 0x804018 0x100000 4 0x1000 2 then some (.engFreezeLo (2 * i + j)) else
  if let some (i, j) := arrIdx2 a 0x80401C 0x100000 4 0x1000 2 then some (.engFreezeHi (2 * i + j)) else
  if let some (i, j) := arrIdx2 a 0x804020 0x100000 4 0x1000 2 then some (.engThrottleLo (2 * i + j)) else
  if let some (i, j) := arrIdx2 a 0x804024 0x100000 4 0x1000 2 then some (.engThrottleHi (2 * i + j)) else
  none

/-- The registers of the CXE block by address. -/
def regAtCxe (a : Nat) : Option Reg :=
  if a = 0x1000000 then some .cxeStatus else
  if let some i := arrIdx a 0x1001000 0x400 4 then some (.cxePartLayoutLo i) else
  if let some i := arrIdx a 0x1001004 0x400 4 then some (.cxePartLayoutHi i) else
  if let some i := arrIdx a 0x1001008 0x400 4 then some (.cxePartIds i) else
  if let some i := arrIdx a 0x1001010 0x400 4 then some (.cxeStarveCtrl i) else
  if let some i := arrIdx a 0x1001040 0x400 4 then some (.cxePagesFree i) else
  if let some i := arrIdx a 0x1001044 0x400 4 then some (.cxePagesRef i) else
  if let some i := arrIdx a 0x1001048 0x400 4 then some (.cxePagesShared i) else
  if let some i := arrIdx a 0x100104C 0x400 4 then some (.cxePagesParked i) else
  if let some i := arrIdx a 0x1001050 0x400 4 then some (.cxePagesLent i) else
  if let some i := arrIdx a 0x1001054 0x400 4 then some (.cxeParked i) else
  if let some i := arrIdx a 0x1001060 0x400 4 then some (.cxeStarveEvents i) else
  if let some i := arrIdx a 0x1001064 0x400 4 then some (.cxeStarveFails i) else
  if let some i := arrIdx a 0x1001068 0x400 4 then some (.cxeHashColl i) else
  if let some (i, j) := arrIdx2 a 0x1001020 0x400 4 0x4 8 then some (.cxePoolFree i j) else
  none

/-- The registers of the SPN block by address. -/
def regAtSpn (a : Nat) : Option Reg :=
  if a = 0x1400000 then some .spnStatus else
  if a = 0x1400010 then some .spnCsRetain else
  if a = 0x1400020 then some .spnLentOut else
  if a = 0x1400024 then some .spnBorrowed else
  if a = 0x1400028 then some .spnMoveAborts else
  if a = 0x1400030 then some .spnXcMissLo else
  if a = 0x1400034 then some .spnXcMissHi else
  if let some i := arrIdx a 0x1400040 0x8 8 then some (.spnLendPeer i) else
  if let some i := arrIdx a 0x1400044 0x8 8 then some (.spnLendPeerGr i) else
  if let some i := arrIdx a 0x1401000 0x400 4 then some (.spnRange i) else
  if let some i := arrIdx a 0x1401004 0x400 4 then some (.spnRangeSize i) else
  if let some i := arrIdx a 0x1401008 0x400 4 then some (.spnT0Pin i) else
  if let some i := arrIdx a 0x140100C 0x400 4 then some (.spnT1Water i) else
  if let some i := arrIdx a 0x1401010 0x400 4 then some (.spnWindow i) else
  if let some i := arrIdx a 0x1401014 0x400 4 then some (.spnStreamLo i) else
  if let some i := arrIdx a 0x1401018 0x400 4 then some (.spnStreamHi i) else
  if let some i := arrIdx a 0x140101C 0x400 4 then some (.spnStreamLen i) else
  if let some i := arrIdx a 0x1401030 0x400 4 then some (.spnLend i) else
  if let some i := arrIdx a 0x1401034 0x400 4 then some (.spnT3Free i) else
  if let some i := arrIdx a 0x1401038 0x400 4 then some (.spnWindowMiss i) else
  if let some i := arrIdx a 0x1401040 0x400 4 then some (.spnCmdAddrLo i) else
  if let some i := arrIdx a 0x1401044 0x400 4 then some (.spnCmdAddrHi i) else
  if let some i := arrIdx a 0x1401048 0x400 4 then some (.spnCmdCount i) else
  if let some i := arrIdx a 0x140104C 0x400 4 then some (.spnCmdOp i) else
  if let some i := arrIdx a 0x1401050 0x400 4 then some (.spnCmdStatus i) else
  if let some i := arrIdx a 0x1401080 0x400 4 then some (.spnPagesT0 i) else
  if let some i := arrIdx a 0x1401084 0x400 4 then some (.spnPagesT1 i) else
  if let some i := arrIdx a 0x1401088 0x400 4 then some (.spnPagesT2 i) else
  if let some i := arrIdx a 0x140108C 0x400 4 then some (.spnPagesT3 i) else
  if let some i := arrIdx a 0x1401090 0x400 4 then some (.spnPagesLost i) else
  if let some i := arrIdx a 0x1401094 0x400 4 then some (.spnPagesCached i) else
  if let some (i, j) := arrIdx2 a 0x1401020 0x400 4 0x4 4 then some (.spnPolicy i j) else
  if let some (i, j) := arrIdx2 a 0x1401060 0x400 4 0x4 4 then some (.spnXlate i j) else
  none

/-- The registers of the MCG block by address. -/
def regAtMcg (a : Nat) : Option Reg :=
  if let some i := arrIdx a 0x1800000 0x10000 24 then some (.mcgStatus i) else
  if let some i := arrIdx a 0x1800004 0x10000 24 then some (.mcgConfig i) else
  if let some i := arrIdx a 0x1800008 0x10000 24 then some (.mcgTherm i) else
  if let some i := arrIdx a 0x1800010 0x10000 24 then some (.mcgScrubCtrl i) else
  if let some i := arrIdx a 0x1800014 0x10000 24 then some (.mcgScrubPass i) else
  if let some i := arrIdx a 0x1800018 0x10000 24 then some (.mcgRemapCtrl i) else
  if let some i := arrIdx a 0x180001C 0x10000 24 then some (.mcgSpares i) else
  if let some i := arrIdx a 0x1800020 0x10000 24 then some (.mcgRetired i) else
  if let some i := arrIdx a 0x1800024 0x10000 24 then some (.mcgUsableMib i) else
  if let some i := arrIdx a 0x1800040 0x10000 24 then some (.mcgUeCnt i) else
  if let some i := arrIdx a 0x1800050 0x10000 24 then some (.mcgTest i) else
  if let some i := arrIdx a 0x1800054 0x10000 24 then some (.mcgTestRow i) else
  if let some (i, j) := arrIdx2 a 0x1800030 0x10000 24 0x4 4 then some (.mcgCeCnt i j) else
  none

/-- The registers of the LNK block by address. -/
def regAtLnk (a : Nat) : Option Reg :=
  if let some i := arrIdx a 0x1C00000 0x1000 16 then some (.lnkStatus i) else
  if let some i := arrIdx a 0x1C00004 0x1000 16 then some (.lnkCtrl i) else
  if let some i := arrIdx a 0x1C00008 0x1000 16 then some (.lnkLaneTest i) else
  if let some i := arrIdx a 0x1C00080 0x1000 16 then some (.lnkFecCorrLo i) else
  if let some i := arrIdx a 0x1C00084 0x1000 16 then some (.lnkFecCorrHi i) else
  if let some i := arrIdx a 0x1C00088 0x1000 16 then some (.lnkFecUncorr i) else
  if let some i := arrIdx a 0x1C0008C 0x1000 16 then some (.lnkCrcFail i) else
  if let some i := arrIdx a 0x1C00090 0x1000 16 then some (.lnkReplay i) else
  if let some i := arrIdx a 0x1C00094 0x1000 16 then some (.lnkRetired i) else
  if let some i := arrIdx a 0x1C00098 0x1000 16 then some (.lnkGcmFail i) else
  if let some i := arrIdx a 0x1C0009C 0x1000 16 then some (.lnkResend i) else
  if let some i := arrIdx a 0x1C000A0 0x1000 16 then some (.lnkDup i) else
  if let some i := arrIdx a 0x1C000A4 0x1000 16 then some (.lnkCredStall i) else
  if let some i := arrIdx a 0x1C000A8 0x1000 16 then some (.lnkProto i) else
  if let some (i, j) := arrIdx2 a 0x1C00010 0x1000 16 0x4 8 then some (.lnkVcCred i j) else
  if let some (i, j) := arrIdx2 a 0x1C00040 0x1000 16 0x4 8 then some (.lnkLaneSer i j) else
  none

/-- The registers of the RDE block by address. -/
def regAtRde (a : Nat) : Option Reg :=
  if a = 0x1E00000 then some .rdeStatus else
  if a = 0x1E00004 then some .rdeGroup else
  if a = 0x1E00008 then some .rdeMaster else
  if a = 0x1E0000C then some .rdeGroupCtrl else
  if a = 0x1E00010 then some .rdeRngCtrl else
  if a = 0x1E00020 then some .rdeSaturated else
  if a = 0x1E00024 then some .rdeEscalated else
  if a = 0x1E00028 then some .rdeStale else
  if a = 0x1E0002C then some .rdeLost else
  if a = 0x1E00030 then some .rdeBlkClosedLo else
  if a = 0x1E00034 then some .rdeBlkClosedHi else
  if a = 0x1E00038 then some .rdeCntDelta else
  if a = 0x1E0003C then some .rdeEvtDrop else
  if a = 0x1E00040 then some .rdeReadyDrop else
  if a = 0x1E00180 then some .rdePaceCnt else
  if let some i := arrIdx a 0x1E00100 0x4 16 then some (.rdePeer i) else
  if let some i := arrIdx a 0x1E00200 0x20 4 then some (.rdeMirAreaLo i) else
  if let some i := arrIdx a 0x1E00204 0x20 4 then some (.rdeMirAreaHi i) else
  if let some i := arrIdx a 0x1E00208 0x20 4 then some (.rdeMirLen i) else
  if let some i := arrIdx a 0x1E0020C 0x20 4 then some (.rdePairPlen i) else
  if let some i := arrIdx a 0x1E00210 0x20 4 then some (.rdePairMlen i) else
  if let some (i, j) := arrIdx2 a 0x1E01000 0x40 64 0x4 16 then some (.rdePlan i j) else
  none

/-- The registers of the HPT block by address. -/
def regAtHpt (a : Nat) : Option Reg :=
  if let some i := arrIdx a 0x2000000 0x10000 4 then some (.hptStatus i) else
  if let some i := arrIdx a 0x2000004 0x10000 4 then some (.hptPfc i) else
  if let some i := arrIdx a 0x2000008 0x10000 4 then some (.hptCc i) else
  if let some i := arrIdx a 0x2000010 0x10000 4 then some (.hptRxDrop i) else
  if let some i := arrIdx a 0x2000014 0x10000 4 then some (.hptIcrcErr i) else
  if let some i := arrIdx a 0x2000018 0x10000 4 then some (.hptAccessErr i) else
  if let some i := arrIdx a 0x200001C 0x10000 4 then some (.hptCnpRx i) else
  if let some i := arrIdx a 0x2000020 0x10000 4 then some (.hptCnpTx i) else
  if let some i := arrIdx a 0x2000024 0x10000 4 then some (.hptPausedUs i) else
  if let some i := arrIdx a 0x2080000 0x40 1024 then some (.qpCtrl i) else
  if let some i := arrIdx a 0x2080004 0x40 1024 then some (.qpPart i) else
  if let some i := arrIdx a 0x2080008 0x40 1024 then some (.qpDest i) else
  if let some i := arrIdx a 0x208000C 0x40 1024 then some (.qpRetry i) else
  if let some i := arrIdx a 0x2080010 0x40 1024 then some (.qpPsn i) else
  if let some i := arrIdx a 0x2080014 0x40 1024 then some (.qpRpsn i) else
  if let some i := arrIdx a 0x2080018 0x40 1024 then some (.qpSport i) else
  if let some i := arrIdx a 0x2080030 0x40 1024 then some (.qpRingLo i) else
  if let some i := arrIdx a 0x2080034 0x40 1024 then some (.qpRingHi i) else
  if let some i := arrIdx a 0x2080038 0x40 1024 then some (.qpRingN i) else
  if let some i := arrIdx a 0x208003C 0x40 1024 then some (.qpRingAck i) else
  if let some (i, j) := arrIdx2 a 0x2080020 0x40 1024 0x4 4 then some (.qpDgid i j) else
  if let some i := arrIdx a 0x20C0000 0x20 256 then some (.mwKey i) else
  if let some i := arrIdx a 0x20C0004 0x20 256 then some (.mwAttr i) else
  if let some i := arrIdx a 0x20C0008 0x20 256 then some (.mwBaseLo i) else
  if let some i := arrIdx a 0x20C000C 0x20 256 then some (.mwBaseHi i) else
  if let some i := arrIdx a 0x20C0010 0x20 256 then some (.mwLen i) else
  if let some i := arrIdx a 0x20C0014 0x20 256 then some (.mwVaLo i) else
  if let some i := arrIdx a 0x20C0018 0x20 256 then some (.mwVaHi i) else
  none

/-- The registers of the LIF block by address. -/
def regAtLif (a : Nat) : Option Reg :=
  if a = 0x2400000 then some .lifCalLo else
  if a = 0x2400004 then some .lifCalHi else
  if a = 0x2400008 then some .lifCalSetLo else
  if a = 0x240000C then some .lifCalSetHi else
  if a = 0x2400010 then some .lifCalStatus else
  if a = 0x2400018 then some .lifPoweredS else
  if a = 0x240001C then some .lifBootCount else
  if a = 0x2400020 then some .lifEnergyJLo else
  if a = 0x2400024 then some .lifEnergyJHi else
  if a = 0x2400030 then some .lifLogHead else
  if a = 0x2400034 then some .lifLogIdx else
  if a = 0x2400038 then some .lifLogStatus else
  if a = 0x2400080 then some .lifOvlStatus else
  if a = 0x2400084 then some .lifOvlCtrl else
  if a = 0x2400090 then some .lifFlashSrcLo else
  if a = 0x2400094 then some .lifFlashSrcHi else
  if a = 0x2400098 then some .lifFlashLen else
  if a = 0x240009C then some .lifFlashCmd else
  if a = 0x24000A0 then some .lifFlashStatus else
  if a = 0x24000A4 then some .lifFwVersion else
  if a = 0x24000A8 then some .lifFwStaged else
  if let some i := arrIdx a 0x2400040 0x4 16 then some (.lifLogData i) else
  none

/-- The registers of the JOB block by address. -/
def regAtJob (a : Nat) : Option Reg :=
  if let some i := arrIdx a 0x2800000 0x10000 4 then some (.jobTableKey i) else
  if let some i := arrIdx a 0x2800004 0x10000 4 then some (.jobCtrl i) else
  if let some (i, j) := arrIdx2 a 0x2800010 0x10000 4 0x4 4 then some (.jobCoreStatus i j) else
  if let some i := arrIdx a 0x2800100 0x10000 4 then some (.jobStashQuota i) else
  if let some (i, j) := arrIdx2 a 0x2800200 0x10000 4 0x10 16 then some (.jobRingCtrl i j) else
  if let some (i, j) := arrIdx2 a 0x2800204 0x10000 4 0x10 16 then some (.jobRingSeq i j) else
  none

/-- The registers of the PWR block by address. -/
def regAtPwr (a : Nat) : Option Reg :=
  if a = 0x100000 then some .pwrState else
  if a = 0x100004 then some .pwrReq else
  if a = 0x100008 then some .pwrIdle else
  if a = 0x10000C then some .pwrAuto else
  if a = 0x100010 then some .pwrDvfs else
  if a = 0x100014 then some .pwrVreqMv else
  if a = 0x100020 then some .pwrCapWatts else
  if a = 0x100024 then some .pwrIssue else
  if a = 0x100028 then some .pwrBrake else
  if a = 0x100030 then some .pwrWake else
  if a = 0x100034 then some .pwrAlarm else
  if a = 0x100038 then some .pwrMemRetain else
  if a = 0x100040 then some .pwrAborts else
  if a = 0x100044 then some .pwrMidnights else
  if a = 0x100048 then some .pwrWakeBad else
  if a = 0x100050 then some .pwrThrUsLo else
  if a = 0x100054 then some .pwrThrUsHi else
  none

/-- The register at an address of the control space; none where no register lies (R466). -/
def regAt (a : Nat) : Option Reg :=
  if 0x0 ≤ a ∧ a < 0x100000 then regAtGlb a else
  if 0x200000 ≤ a ∧ a < 0x300000 then regAtTel a else
  if 0x300000 ≤ a ∧ a < 0x400000 then regAtSec a else
  if 0x400000 ≤ a ∧ a < 0x800000 then regAtErr a else
  if 0x800000 ≤ a ∧ a < 0xC00000 then regAtCore a else
  if 0x1000000 ≤ a ∧ a < 0x1400000 then regAtCxe a else
  if 0x1400000 ≤ a ∧ a < 0x1800000 then regAtSpn a else
  if 0x1800000 ≤ a ∧ a < 0x1C00000 then regAtMcg a else
  if 0x1C00000 ≤ a ∧ a < 0x1E00000 then regAtLnk a else
  if 0x1E00000 ≤ a ∧ a < 0x2000000 then regAtRde a else
  if 0x2000000 ≤ a ∧ a < 0x2400000 then regAtHpt a else
  if 0x2400000 ≤ a ∧ a < 0x2800000 then regAtLif a else
  if 0x2800000 ≤ a ∧ a < 0x2C00000 then regAtJob a else
  if 0x100000 ≤ a ∧ a < 0x200000 then regAtPwr a else
  none

/-! The named fields. -/
abbrev F.glbSerialSerial (n : Nat) : Fld := ⟨.glbSerial n, 0, 32⟩
abbrev F.glbScratchScratch (n : Nat) : Fld := ⟨.glbScratch n, 0, 32⟩
abbrev F.telTempTemp (n : Nat) : Fld := ⟨.telTemp n, 0, 12⟩
abbrev F.telERailLoEnergy (r : Nat) : Fld := ⟨.telERailLo r, 0, 32⟩
abbrev F.telERailHiEnergy (r : Nat) : Fld := ⟨.telERailHi r, 0, 32⟩
abbrev F.telEPartLoEnergy (p : Nat) : Fld := ⟨.telEPartLo p, 0, 32⟩
abbrev F.telEPartHiEnergy (p : Nat) : Fld := ⟨.telEPartHi p, 0, 32⟩
abbrev F.secPartCfgCores (p : Nat) : Fld := ⟨.secPartCfg p, 0, 4⟩
abbrev F.secPartCfgQuarters (p : Nat) : Fld := ⟨.secPartCfg p, 4, 4⟩
abbrev F.secPartCfgProtected (p : Nat) : Fld := ⟨.secPartCfg p, 8, 1⟩
abbrev F.secPartCfgSlotsLog2 (p : Nat) : Fld := ⟨.secPartCfg p, 9, 3⟩
abbrev F.secPartCfgValid (p : Nat) : Fld := ⟨.secPartCfg p, 12, 1⟩
abbrev F.secPartMcgMcgs (p : Nat) : Fld := ⟨.secPartMcg p, 0, 24⟩
abbrev F.secPartEpPorts (p : Nat) : Fld := ⟨.secPartEp p, 0, 16⟩
abbrev F.secPartTsStates (p : Nat) : Fld := ⟨.secPartTs p, 0, 32⟩
abbrev F.secCmdLoBlock (p : Nat) : Fld := ⟨.secCmdLo p, 0, 32⟩
abbrev F.secCmdHiBlock (p : Nat) : Fld := ⟨.secCmdHi p, 0, 32⟩
abbrev F.secCmdOpOp (p : Nat) : Fld := ⟨.secCmdOp p, 0, 4⟩
abbrev F.secCmdStatusBusy (p : Nat) : Fld := ⟨.secCmdStatus p, 0, 1⟩
abbrev F.secCmdStatusStatus (p : Nat) : Fld := ⟨.secCmdStatus p, 4, 4⟩
abbrev F.secCmdDetailDetail (p : Nat) : Fld := ⟨.secCmdDetail p, 0, 32⟩
abbrev F.secAttCtrlGo (p : Nat) : Fld := ⟨.secAttCtrl p, 0, 1⟩
abbrev F.secAttCtrlTenant (p : Nat) : Fld := ⟨.secAttCtrl p, 1, 4⟩
abbrev F.secAttStatusBusy (p : Nat) : Fld := ⟨.secAttStatus p, 0, 1⟩
abbrev F.secAttStatusValid (p : Nat) : Fld := ⟨.secAttStatus p, 1, 1⟩
abbrev F.secAttNonceNonce (p n : Nat) : Fld := ⟨.secAttNonce p n, 0, 32⟩
abbrev F.secQpTsTenant (q : Nat) : Fld := ⟨.secQpTs q, 0, 4⟩
abbrev F.errInsvcBanks (n : Nat) : Fld := ⟨.errInsvc n, 0, 32⟩
abbrev F.errBankStatHeld (b : Nat) : Fld := ⟨.errBankStat b, 0, 3⟩
abbrev F.errBankStatClass (b : Nat) : Fld := ⟨.errBankStat b, 3, 2⟩
abbrev F.errBankStatInService (b : Nat) : Fld := ⟨.errBankStat b, 5, 1⟩
abbrev F.errBankStatDropped (b : Nat) : Fld := ⟨.errBankStat b, 8, 8⟩
abbrev F.errBankAckAck (b : Nat) : Fld := ⟨.errBankAck b, 0, 1⟩
abbrev F.ldgCsCacheUsed (p : Nat) : Fld := ⟨.ldgCsCache p, 0, 16⟩
abbrev F.ldgCsCacheFree (p : Nat) : Fld := ⟨.ldgCsCache p, 16, 16⟩
abbrev F.ldgCsTransitUsed (p : Nat) : Fld := ⟨.ldgCsTransit p, 0, 16⟩
abbrev F.ldgCsTransitFree (p : Nat) : Fld := ⟨.ldgCsTransit p, 16, 16⟩
abbrev F.ldgJobsTakenTaken (p : Nat) : Fld := ⟨.ldgJobsTaken p, 0, 32⟩
abbrev F.ldgJobsEndedEnded (p : Nat) : Fld := ⟨.ldgJobsEnded p, 0, 32⟩
abbrev F.ldgReclaimSpanPages (p : Nat) : Fld := ⟨.ldgReclaimSpan p, 0, 32⟩
abbrev F.ldgReclaimKvPages (p : Nat) : Fld := ⟨.ldgReclaimKv p, 0, 32⟩
abbrev F.ldgLinkSentFlits (e : Nat) : Fld := ⟨.ldgLinkSent e, 0, 32⟩
abbrev F.ldgLinkRecvFlits (e : Nat) : Fld := ⟨.ldgLinkRecv e, 0, 32⟩
abbrev F.ldgLinkRtxCredits (e : Nat) : Fld := ⟨.ldgLinkRtx e, 0, 32⟩
abbrev F.ldgLinkRrxCredits (e : Nat) : Fld := ⟨.ldgLinkRrx e, 0, 32⟩
abbrev F.coreSqStatusStream (c : Nat) : Fld := ⟨.coreSqStatus c, 0, 3⟩
abbrev F.coreSqStatusWaiting (c : Nat) : Fld := ⟨.coreSqStatus c, 3, 1⟩
abbrev F.coreSqStatusMicro (c : Nat) : Fld := ⟨.coreSqStatus c, 4, 8⟩
abbrev F.coreSqStatusPosition (c : Nat) : Fld := ⟨.coreSqStatus c, 12, 16⟩
abbrev F.coreFenceFence (c : Nat) : Fld := ⟨.coreFence c, 0, 1⟩
abbrev F.coreFenceUnfence (c : Nat) : Fld := ⟨.coreFence c, 1, 1⟩
abbrev F.coreFenceFenced (c : Nat) : Fld := ⟨.coreFence c, 2, 1⟩
abbrev F.engStatusState (e : Nat) : Fld := ⟨.engStatus e, 0, 4⟩
abbrev F.engStatusSegIndex (e : Nat) : Fld := ⟨.engStatus e, 4, 8⟩
abbrev F.engStatusPreemptPending (e : Nat) : Fld := ⟨.engStatus e, 12, 1⟩
abbrev F.engStatusFreezeCause (e : Nat) : Fld := ⟨.engStatus e, 13, 3⟩
abbrev F.engStatusIssueRate (e : Nat) : Fld := ⟨.engStatus e, 16, 7⟩
abbrev F.engCtrlPreempt (e : Nat) : Fld := ⟨.engCtrl e, 0, 1⟩
abbrev F.engCtrlGateEn (e : Nat) : Fld := ⟨.engCtrl e, 1, 1⟩
abbrev F.engCtrlCntClear (e : Nat) : Fld := ⟨.engCtrl e, 2, 1⟩
abbrev F.engTestStart (e : Nat) : Fld := ⟨.engTest e, 0, 1⟩
abbrev F.engTestUnfence (e : Nat) : Fld := ⟨.engTest e, 1, 1⟩
abbrev F.engTestResult (e : Nat) : Fld := ⟨.engTest e, 2, 2⟩
abbrev F.engRowsLoRows (e : Nat) : Fld := ⟨.engRowsLo e, 0, 32⟩
abbrev F.engRowsHiRows (e : Nat) : Fld := ⟨.engRowsHi e, 0, 32⟩
abbrev F.engFreezeLoFreeze (e : Nat) : Fld := ⟨.engFreezeLo e, 0, 32⟩
abbrev F.engFreezeHiFreeze (e : Nat) : Fld := ⟨.engFreezeHi e, 0, 32⟩
abbrev F.engThrottleLoThrottle (e : Nat) : Fld := ⟨.engThrottleLo e, 0, 32⟩
abbrev F.engThrottleHiThrottle (e : Nat) : Fld := ⟨.engThrottleHi e, 0, 32⟩
abbrev F.coreRngCtrlFixedEn (c : Nat) : Fld := ⟨.coreRngCtrl c, 0, 1⟩
abbrev F.coreRngCtrlFixedDraw (c : Nat) : Fld := ⟨.coreRngCtrl c, 16, 16⟩
abbrev F.coreCtrValue (c n : Nat) : Fld := ⟨.coreCtr c n, 0, 16⟩
abbrev F.veStatusState (c : Nat) : Fld := ⟨.veStatus c, 0, 2⟩
abbrev F.veStatusMemWait (c : Nat) : Fld := ⟨.veStatus c, 2, 1⟩
abbrev F.veStatusLastFault (c : Nat) : Fld := ⟨.veStatus c, 8, 8⟩
abbrev F.veStatusVl (c : Nat) : Fld := ⟨.veStatus c, 16, 11⟩
abbrev F.veFlagsOvf (c : Nat) : Fld := ⟨.veFlags c, 0, 1⟩
abbrev F.veFlagsInv (c : Nat) : Fld := ⟨.veFlags c, 1, 1⟩
abbrev F.veFlagsNf (c : Nat) : Fld := ⟨.veFlags c, 2, 1⟩
abbrev F.vePcPc (c : Nat) : Fld := ⟨.vePc c, 0, 13⟩
abbrev F.veRetiredLoRetired (c : Nat) : Fld := ⟨.veRetiredLo c, 0, 32⟩
abbrev F.veRetiredHiRetired (c : Nat) : Fld := ⟨.veRetiredHi c, 0, 32⟩
abbrev F.veMemstallLoMemstall (c : Nat) : Fld := ⟨.veMemstallLo c, 0, 32⟩
abbrev F.veMemstallHiMemstall (c : Nat) : Fld := ⟨.veMemstallHi c, 0, 32⟩
abbrev F.cxePartLayoutLoLayoutLo (p : Nat) : Fld := ⟨.cxePartLayoutLo p, 0, 32⟩
abbrev F.cxePartLayoutHiLayoutHi (p : Nat) : Fld := ⟨.cxePartLayoutHi p, 0, 20⟩
abbrev F.cxePartIdsLiveFirst (p : Nat) : Fld := ⟨.cxePartIds p, 0, 12⟩
abbrev F.cxePartIdsLiveCount (p : Nat) : Fld := ⟨.cxePartIds p, 12, 13⟩
abbrev F.cxeStarveCtrlTimeoutUs (p : Nat) : Fld := ⟨.cxeStarveCtrl p, 0, 16⟩
abbrev F.cxeStarveCtrlT2En (p : Nat) : Fld := ⟨.cxeStarveCtrl p, 16, 1⟩
abbrev F.cxePagesFreeFree (p : Nat) : Fld := ⟨.cxePagesFree p, 0, 32⟩
abbrev F.cxePagesRefReferenced (p : Nat) : Fld := ⟨.cxePagesRef p, 0, 32⟩
abbrev F.cxePagesSharedShared (p : Nat) : Fld := ⟨.cxePagesShared p, 0, 32⟩
abbrev F.cxePagesParkedParked (p : Nat) : Fld := ⟨.cxePagesParked p, 0, 32⟩
abbrev F.cxePagesLentLent (p : Nat) : Fld := ⟨.cxePagesLent p, 0, 32⟩
abbrev F.cxeParkedParkedCtx (p : Nat) : Fld := ⟨.cxeParked p, 0, 32⟩
abbrev F.cxeStarveEventsEvents (p : Nat) : Fld := ⟨.cxeStarveEvents p, 0, 32⟩
abbrev F.cxeStarveFailsFails (p : Nat) : Fld := ⟨.cxeStarveFails p, 0, 32⟩
abbrev F.cxeHashCollColl (p : Nat) : Fld := ⟨.cxeHashColl p, 0, 32⟩
abbrev F.cxePoolFreeFreeFrames (p n : Nat) : Fld := ⟨.cxePoolFree p n, 0, 32⟩
abbrev F.spnLendPeerPos (n : Nat) : Fld := ⟨.spnLendPeer n, 0, 12⟩
abbrev F.spnLendPeerValid (n : Nat) : Fld := ⟨.spnLendPeer n, 12, 1⟩
abbrev F.spnLendPeerGrGranules (n : Nat) : Fld := ⟨.spnLendPeerGr n, 0, 32⟩
abbrev F.spnRangeBase (p : Nat) : Fld := ⟨.spnRange p, 0, 24⟩
abbrev F.spnRangeSizeSize (p : Nat) : Fld := ⟨.spnRangeSize p, 0, 23⟩
abbrev F.spnT0PinPinMib (p : Nat) : Fld := ⟨.spnT0Pin p, 0, 10⟩
abbrev F.spnT1WaterLowGib (p : Nat) : Fld := ⟨.spnT1Water p, 0, 16⟩
abbrev F.spnT1WaterHighGib (p : Nat) : Fld := ⟨.spnT1Water p, 16, 16⟩
abbrev F.spnWindowSlabMib (p : Nat) : Fld := ⟨.spnWindow p, 0, 7⟩
abbrev F.spnWindowDepth (p : Nat) : Fld := ⟨.spnWindow p, 8, 4⟩
abbrev F.spnWindowEnable (p : Nat) : Fld := ⟨.spnWindow p, 12, 1⟩
abbrev F.spnStreamLoBaseLo (p : Nat) : Fld := ⟨.spnStreamLo p, 0, 32⟩
abbrev F.spnStreamHiBaseHi (p : Nat) : Fld := ⟨.spnStreamHi p, 0, 20⟩
abbrev F.spnStreamLenLenMib (p : Nat) : Fld := ⟨.spnStreamLen p, 0, 32⟩
abbrev F.spnLendLendEn (p : Nat) : Fld := ⟨.spnLend p, 0, 1⟩
abbrev F.spnLendShare (p : Nat) : Fld := ⟨.spnLend p, 1, 6⟩
abbrev F.spnT3FreeSlots (p : Nat) : Fld := ⟨.spnT3Free p, 0, 32⟩
abbrev F.spnWindowMissMiss (p : Nat) : Fld := ⟨.spnWindowMiss p, 0, 32⟩
abbrev F.spnCmdAddrLoAddrLo (p : Nat) : Fld := ⟨.spnCmdAddrLo p, 0, 32⟩
abbrev F.spnCmdAddrHiAddrHi (p : Nat) : Fld := ⟨.spnCmdAddrHi p, 0, 20⟩
abbrev F.spnCmdCountCount (p : Nat) : Fld := ⟨.spnCmdCount p, 0, 24⟩
abbrev F.spnCmdOpOp (p : Nat) : Fld := ⟨.spnCmdOp p, 0, 4⟩
abbrev F.spnCmdOpClass (p : Nat) : Fld := ⟨.spnCmdOp p, 4, 2⟩
abbrev F.spnCmdStatusBusy (p : Nat) : Fld := ⟨.spnCmdStatus p, 0, 1⟩
abbrev F.spnCmdStatusStatus (p : Nat) : Fld := ⟨.spnCmdStatus p, 4, 4⟩
abbrev F.spnCmdStatusDone (p : Nat) : Fld := ⟨.spnCmdStatus p, 8, 24⟩
abbrev F.spnPagesT0T0 (p : Nat) : Fld := ⟨.spnPagesT0 p, 0, 32⟩
abbrev F.spnPagesT1T1 (p : Nat) : Fld := ⟨.spnPagesT1 p, 0, 32⟩
abbrev F.spnPagesT2T2 (p : Nat) : Fld := ⟨.spnPagesT2 p, 0, 32⟩
abbrev F.spnPagesT3T3 (p : Nat) : Fld := ⟨.spnPagesT3 p, 0, 32⟩
abbrev F.spnPagesLostLost (p : Nat) : Fld := ⟨.spnPagesLost p, 0, 32⟩
abbrev F.spnPagesCachedCached (p : Nat) : Fld := ⟨.spnPagesCached p, 0, 32⟩
abbrev F.spnPolicyT1Ok (p n : Nat) : Fld := ⟨.spnPolicy p n, 0, 1⟩
abbrev F.spnPolicyT2Ok (p n : Nat) : Fld := ⟨.spnPolicy p n, 1, 1⟩
abbrev F.spnPolicyT3Ok (p n : Nat) : Fld := ⟨.spnPolicy p n, 2, 1⟩
abbrev F.spnPolicyInstall (p n : Nat) : Fld := ⟨.spnPolicy p n, 3, 1⟩
abbrev F.spnPolicyPin (p n : Nat) : Fld := ⟨.spnPolicy p n, 4, 3⟩
abbrev F.spnPolicyWaferT1 (p n : Nat) : Fld := ⟨.spnPolicy p n, 7, 1⟩
abbrev F.spnPolicyT2Backed (p n : Nat) : Fld := ⟨.spnPolicy p n, 8, 1⟩
abbrev F.spnPolicyKeep (p n : Nat) : Fld := ⟨.spnPolicy p n, 9, 2⟩
abbrev F.spnPolicyLayout (p n : Nat) : Fld := ⟨.spnPolicy p n, 12, 2⟩
abbrev F.spnXlateEntry (p n : Nat) : Fld := ⟨.spnXlate p n, 0, 32⟩
abbrev F.mcgStatusReady (g : Nat) : Fld := ⟨.mcgStatus g, 0, 1⟩
abbrev F.mcgStatusTrainFail (g : Nat) : Fld := ⟨.mcgStatus g, 1, 1⟩
abbrev F.mcgStatusDegraded (g : Nat) : Fld := ⟨.mcgStatus g, 2, 1⟩
abbrev F.mcgStatusRemapBusy (g : Nat) : Fld := ⟨.mcgStatus g, 3, 1⟩
abbrev F.mcgStatusStep (g : Nat) : Fld := ⟨.mcgStatus g, 4, 3⟩
abbrev F.mcgStatusInitBusy (g : Nat) : Fld := ⟨.mcgStatus g, 7, 1⟩
abbrev F.mcgConfigRate (g : Nat) : Fld := ⟨.mcgConfig g, 0, 2⟩
abbrev F.mcgConfigRanks (g : Nat) : Fld := ⟨.mcgConfig g, 2, 1⟩
abbrev F.mcgConfigRankGib (g : Nat) : Fld := ⟨.mcgConfig g, 3, 1⟩
abbrev F.mcgConfigPprFitted (g : Nat) : Fld := ⟨.mcgConfig g, 4, 1⟩
abbrev F.mcgThermRateCode (g : Nat) : Fld := ⟨.mcgTherm g, 0, 20⟩
abbrev F.mcgThermLimit (g : Nat) : Fld := ⟨.mcgTherm g, 20, 7⟩
abbrev F.mcgScrubCtrlEnable (g : Nat) : Fld := ⟨.mcgScrubCtrl g, 0, 1⟩
abbrev F.mcgScrubCtrlPeriodH (g : Nat) : Fld := ⟨.mcgScrubCtrl g, 8, 8⟩
abbrev F.mcgScrubPassPasses (g : Nat) : Fld := ⟨.mcgScrubPass g, 0, 32⟩
abbrev F.mcgRemapCtrlCeThresh (g : Nat) : Fld := ⟨.mcgRemapCtrl g, 0, 4⟩
abbrev F.mcgRemapCtrlCeWindowH (g : Nat) : Fld := ⟨.mcgRemapCtrl g, 8, 8⟩
abbrev F.mcgSparesFree (g : Nat) : Fld := ⟨.mcgSpares g, 0, 9⟩
abbrev F.mcgRetiredBlocks (g : Nat) : Fld := ⟨.mcgRetired g, 0, 32⟩
abbrev F.mcgUsableMibMib (g : Nat) : Fld := ⟨.mcgUsableMib g, 0, 32⟩
abbrev F.mcgUeCntUe (g : Nat) : Fld := ⟨.mcgUeCnt g, 0, 32⟩
abbrev F.mcgTestChannel (g : Nat) : Fld := ⟨.mcgTest g, 0, 2⟩
abbrev F.mcgTestStart (g : Nat) : Fld := ⟨.mcgTest g, 2, 1⟩
abbrev F.mcgTestStop (g : Nat) : Fld := ⟨.mcgTest g, 3, 1⟩
abbrev F.mcgTestBusy (g : Nat) : Fld := ⟨.mcgTest g, 4, 1⟩
abbrev F.mcgTestStatus (g : Nat) : Fld := ⟨.mcgTest g, 5, 3⟩
abbrev F.mcgTestRowRow (g : Nat) : Fld := ⟨.mcgTestRow g, 0, 32⟩
abbrev F.mcgCeCntCe (g n : Nat) : Fld := ⟨.mcgCeCnt g n, 0, 32⟩
abbrev F.lnkStatusState (e : Nat) : Fld := ⟨.lnkStatus e, 0, 3⟩
abbrev F.lnkStatusWidth (e : Nat) : Fld := ⟨.lnkStatus e, 3, 2⟩
abbrev F.lnkStatusLanesOk (e : Nat) : Fld := ⟨.lnkStatus e, 5, 8⟩
abbrev F.lnkStatusEnc (e : Nat) : Fld := ⟨.lnkStatus e, 13, 1⟩
abbrev F.lnkStatusPair (e : Nat) : Fld := ⟨.lnkStatus e, 14, 1⟩
abbrev F.lnkCtrlRetrain (e : Nat) : Fld := ⟨.lnkCtrl e, 0, 1⟩
abbrev F.lnkCtrlDisable (e : Nat) : Fld := ⟨.lnkCtrl e, 1, 1⟩
abbrev F.lnkLaneTestLanes (e : Nat) : Fld := ⟨.lnkLaneTest e, 0, 8⟩
abbrev F.lnkLaneTestBusy (e : Nat) : Fld := ⟨.lnkLaneTest e, 8, 1⟩
abbrev F.lnkLaneTestPassed (e : Nat) : Fld := ⟨.lnkLaneTest e, 9, 8⟩
abbrev F.lnkFecCorrLoCorr (e : Nat) : Fld := ⟨.lnkFecCorrLo e, 0, 32⟩
abbrev F.lnkFecCorrHiCorr (e : Nat) : Fld := ⟨.lnkFecCorrHi e, 0, 32⟩
abbrev F.lnkFecUncorrUncorr (e : Nat) : Fld := ⟨.lnkFecUncorr e, 0, 32⟩
abbrev F.lnkCrcFailCrc (e : Nat) : Fld := ⟨.lnkCrcFail e, 0, 32⟩
abbrev F.lnkReplayReplay (e : Nat) : Fld := ⟨.lnkReplay e, 0, 32⟩
abbrev F.lnkRetiredRetired (e : Nat) : Fld := ⟨.lnkRetired e, 0, 32⟩
abbrev F.lnkGcmFailGcm (e : Nat) : Fld := ⟨.lnkGcmFail e, 0, 32⟩
abbrev F.lnkResendResend (e : Nat) : Fld := ⟨.lnkResend e, 0, 32⟩
abbrev F.lnkDupDup (e : Nat) : Fld := ⟨.lnkDup e, 0, 32⟩
abbrev F.lnkCredStallStall (e : Nat) : Fld := ⟨.lnkCredStall e, 0, 32⟩
abbrev F.lnkProtoProto (e : Nat) : Fld := ⟨.lnkProto e, 0, 32⟩
abbrev F.lnkVcCredAlloc (e v : Nat) : Fld := ⟨.lnkVcCred e v, 0, 11⟩
abbrev F.lnkVcCredHeld (e v : Nat) : Fld := ⟨.lnkVcCred e v, 11, 11⟩
abbrev F.lnkLaneSerSer (e l : Nat) : Fld := ⟨.lnkLaneSer e l, 0, 32⟩
abbrev F.rdePeerPeer (n : Nat) : Fld := ⟨.rdePeer n, 0, 12⟩
abbrev F.rdePeerAlive (n : Nat) : Fld := ⟨.rdePeer n, 12, 1⟩
abbrev F.rdePeerPair (n : Nat) : Fld := ⟨.rdePeer n, 13, 1⟩
abbrev F.rdeMirAreaLoAreaLo (p : Nat) : Fld := ⟨.rdeMirAreaLo p, 0, 32⟩
abbrev F.rdeMirAreaHiAreaHi (p : Nat) : Fld := ⟨.rdeMirAreaHi p, 0, 20⟩
abbrev F.rdeMirLenMirrorLen (p : Nat) : Fld := ⟨.rdeMirLen p, 0, 24⟩
abbrev F.rdePairPlenPairPlen (p : Nat) : Fld := ⟨.rdePairPlen p, 0, 24⟩
abbrev F.rdePairMlenPairMlen (p : Nat) : Fld := ⟨.rdePairMlen p, 0, 24⟩
abbrev F.rdePlanPlan (n w : Nat) : Fld := ⟨.rdePlan n w, 0, 32⟩
abbrev F.hptStatusLinkUp (h : Nat) : Fld := ⟨.hptStatus h, 0, 1⟩
abbrev F.hptStatusMode (h : Nat) : Fld := ⟨.hptStatus h, 1, 2⟩
abbrev F.hptStatusCr (h : Nat) : Fld := ⟨.hptStatus h, 3, 1⟩
abbrev F.hptPfcPcp (h : Nat) : Fld := ⟨.hptPfc h, 0, 3⟩
abbrev F.hptPfcEcnEn (h : Nat) : Fld := ⟨.hptPfc h, 3, 1⟩
abbrev F.hptPfcXoffKib (h : Nat) : Fld := ⟨.hptPfc h, 4, 10⟩
abbrev F.hptPfcXonKib (h : Nat) : Fld := ⟨.hptPfc h, 14, 10⟩
abbrev F.hptCcCutShift (h : Nat) : Fld := ⟨.hptCc h, 0, 3⟩
abbrev F.hptCcIncShift (h : Nat) : Fld := ⟨.hptCc h, 3, 3⟩
abbrev F.hptCcTCutUs (h : Nat) : Fld := ⟨.hptCc h, 6, 8⟩
abbrev F.hptCcTIncUs (h : Nat) : Fld := ⟨.hptCc h, 14, 8⟩
abbrev F.hptCcCnpUs (h : Nat) : Fld := ⟨.hptCc h, 22, 8⟩
abbrev F.hptRxDropDrop (h : Nat) : Fld := ⟨.hptRxDrop h, 0, 32⟩
abbrev F.hptIcrcErrIcrc (h : Nat) : Fld := ⟨.hptIcrcErr h, 0, 32⟩
abbrev F.hptAccessErrAccess (h : Nat) : Fld := ⟨.hptAccessErr h, 0, 32⟩
abbrev F.hptCnpRxCnpRx (h : Nat) : Fld := ⟨.hptCnpRx h, 0, 32⟩
abbrev F.hptCnpTxCnpTx (h : Nat) : Fld := ⟨.hptCnpTx h, 0, 32⟩
abbrev F.hptPausedUsPaused (h : Nat) : Fld := ⟨.hptPausedUs h, 0, 32⟩
abbrev F.qpCtrlState (q : Nat) : Fld := ⟨.qpCtrl q, 0, 3⟩
abbrev F.qpCtrlErr (q : Nat) : Fld := ⟨.qpCtrl q, 3, 8⟩
abbrev F.qpPartPartition (q : Nat) : Fld := ⟨.qpPart q, 0, 2⟩
abbrev F.qpPartPort (q : Nat) : Fld := ⟨.qpPart q, 2, 2⟩
abbrev F.qpPartMgmt (q : Nat) : Fld := ⟨.qpPart q, 4, 1⟩
abbrev F.qpDestDestQpn (q : Nat) : Fld := ⟨.qpDest q, 0, 24⟩
abbrev F.qpDestPmtu (q : Nat) : Fld := ⟨.qpDest q, 24, 3⟩
abbrev F.qpDestAckTimeout (q : Nat) : Fld := ⟨.qpDest q, 27, 5⟩
abbrev F.qpRetryRetryCnt (q : Nat) : Fld := ⟨.qpRetry q, 0, 3⟩
abbrev F.qpRetryRnrRetry (q : Nat) : Fld := ⟨.qpRetry q, 3, 3⟩
abbrev F.qpRetryMinRnr (q : Nat) : Fld := ⟨.qpRetry q, 6, 5⟩
abbrev F.qpRetryDscp (q : Nat) : Fld := ⟨.qpRetry q, 11, 6⟩
abbrev F.qpPsnSqPsn (q : Nat) : Fld := ⟨.qpPsn q, 0, 24⟩
abbrev F.qpRpsnRqPsn (q : Nat) : Fld := ⟨.qpRpsn q, 0, 24⟩
abbrev F.qpSportUdpSport (q : Nat) : Fld := ⟨.qpSport q, 0, 16⟩
abbrev F.qpSportGidIdx (q : Nat) : Fld := ⟨.qpSport q, 16, 2⟩
abbrev F.qpRingLoRing (q : Nat) : Fld := ⟨.qpRingLo q, 0, 32⟩
abbrev F.qpRingHiRing (q : Nat) : Fld := ⟨.qpRingHi q, 0, 32⟩
abbrev F.qpRingNSlotsLog2 (q : Nat) : Fld := ⟨.qpRingN q, 0, 4⟩
abbrev F.qpRingAckConsumed (q : Nat) : Fld := ⟨.qpRingAck q, 0, 32⟩
abbrev F.qpDgidDgid (q w : Nat) : Fld := ⟨.qpDgid q w, 0, 32⟩
abbrev F.mwKeyKey (w : Nat) : Fld := ⟨.mwKey w, 0, 32⟩
abbrev F.mwAttrKind (w : Nat) : Fld := ⟨.mwAttr w, 0, 2⟩
abbrev F.mwAttrPartition (w : Nat) : Fld := ⟨.mwAttr w, 2, 2⟩
abbrev F.mwAttrDevice (w : Nat) : Fld := ⟨.mwAttr w, 4, 1⟩
abbrev F.mwAttrRd (w : Nat) : Fld := ⟨.mwAttr w, 5, 1⟩
abbrev F.mwAttrWr (w : Nat) : Fld := ⟨.mwAttr w, 6, 1⟩
abbrev F.mwBaseLoBase (w : Nat) : Fld := ⟨.mwBaseLo w, 0, 32⟩
abbrev F.mwBaseHiBase (w : Nat) : Fld := ⟨.mwBaseHi w, 0, 32⟩
abbrev F.mwLenLen (w : Nat) : Fld := ⟨.mwLen w, 0, 32⟩
abbrev F.mwVaLoVaBase (w : Nat) : Fld := ⟨.mwVaLo w, 0, 32⟩
abbrev F.mwVaHiVaBase (w : Nat) : Fld := ⟨.mwVaHi w, 0, 32⟩
abbrev F.lifLogDataData (n : Nat) : Fld := ⟨.lifLogData n, 0, 32⟩
abbrev F.jobTableKeyKey (p : Nat) : Fld := ⟨.jobTableKey p, 0, 32⟩
abbrev F.jobCtrlCancel (p : Nat) : Fld := ⟨.jobCtrl p, 0, 4⟩
abbrev F.jobCtrlSuspend (p : Nat) : Fld := ⟨.jobCtrl p, 4, 4⟩
abbrev F.jobCoreStatusState (p c : Nat) : Fld := ⟨.jobCoreStatus p c, 0, 2⟩
abbrev F.jobCoreStatusRing (p c : Nat) : Fld := ⟨.jobCoreStatus p c, 2, 4⟩
abbrev F.jobCoreStatusLastStatus (p c : Nat) : Fld := ⟨.jobCoreStatus p c, 8, 8⟩
abbrev F.jobStashQuotaT0Mib (p : Nat) : Fld := ⟨.jobStashQuota p, 0, 10⟩
abbrev F.jobStashQuotaT1Gib (p : Nat) : Fld := ⟨.jobStashQuota p, 16, 16⟩
abbrev F.jobRingCtrlEnable (p r : Nat) : Fld := ⟨.jobRingCtrl p r, 0, 1⟩
abbrev F.jobRingCtrlReset (p r : Nat) : Fld := ⟨.jobRingCtrl p r, 1, 1⟩
abbrev F.jobRingSeqNextSeq (p r : Nat) : Fld := ⟨.jobRingSeq p r, 0, 32⟩
abbrev F.glbIdcodeOne : Fld := ⟨.glbIdcode, 0, 1⟩
abbrev F.glbIdcodeMfr : Fld := ⟨.glbIdcode, 1, 11⟩
abbrev F.glbIdcodePart : Fld := ⟨.glbIdcode, 12, 16⟩
abbrev F.glbIdcodeVersion : Fld := ⟨.glbIdcode, 28, 4⟩
abbrev F.glbRevStepping : Fld := ⟨.glbRev, 0, 8⟩
abbrev F.glbRevArch : Fld := ⟨.glbRev, 8, 8⟩
abbrev F.glbMePresentMePresent : Fld := ⟨.glbMePresent, 0, 8⟩
abbrev F.glbMePresentGrade : Fld := ⟨.glbMePresent, 8, 2⟩
abbrev F.glbPosPosCold : Fld := ⟨.glbPos, 0, 12⟩
abbrev F.glbPosPins : Fld := ⟨.glbPos, 12, 6⟩
abbrev F.glbPosPinMode : Fld := ⟨.glbPos, 18, 1⟩
abbrev F.glbBootReady : Fld := ⟨.glbBoot, 0, 1⟩
abbrev F.glbBootStage : Fld := ⟨.glbBoot, 1, 4⟩
abbrev F.glbBootFail : Fld := ⟨.glbBoot, 8, 4⟩
abbrev F.glbBootFwSlot : Fld := ⟨.glbBoot, 12, 1⟩
abbrev F.glbBootCfgSlot : Fld := ⟨.glbBoot, 13, 1⟩
abbrev F.glbBootFwFallback : Fld := ⟨.glbBoot, 14, 1⟩
abbrev F.glbBootCfgFallback : Fld := ⟨.glbBoot, 15, 1⟩
abbrev F.glbBootOverlay : Fld := ⟨.glbBoot, 16, 2⟩
abbrev F.glbBootIgnRecords : Fld := ⟨.glbBoot, 18, 8⟩
abbrev F.glbDropAddrAddr : Fld := ⟨.glbDropAddr, 0, 26⟩
abbrev F.glbDropCntDrops : Fld := ⟨.glbDropCnt, 0, 32⟩
abbrev F.glbFclkLoCount : Fld := ⟨.glbFclkLo, 0, 32⟩
abbrev F.glbFclkHiCount : Fld := ⟨.glbFclkHi, 0, 32⟩
abbrev F.pwrStateState : Fld := ⟨.pwrState, 0, 3⟩
abbrev F.pwrStateMemPartial : Fld := ⟨.pwrState, 3, 1⟩
abbrev F.pwrStateCoreDusk : Fld := ⟨.pwrState, 4, 4⟩
abbrev F.pwrStateEngDusk : Fld := ⟨.pwrState, 8, 8⟩
abbrev F.pwrStateLastRefuse : Fld := ⟨.pwrState, 16, 4⟩
abbrev F.pwrStateLastWake : Fld := ⟨.pwrState, 20, 3⟩
abbrev F.pwrReqMidnight : Fld := ⟨.pwrReq, 0, 1⟩
abbrev F.pwrReqEntryMode : Fld := ⟨.pwrReq, 1, 1⟩
abbrev F.pwrIdleDuskUs : Fld := ⟨.pwrIdle, 0, 16⟩
abbrev F.pwrIdleDuskRamp : Fld := ⟨.pwrIdle, 16, 1⟩
abbrev F.pwrAutoMidnightS : Fld := ⟨.pwrAuto, 0, 16⟩
abbrev F.pwrDvfsClkPt : Fld := ⟨.pwrDvfs, 0, 2⟩
abbrev F.pwrDvfsVPt : Fld := ⟨.pwrDvfs, 2, 2⟩
abbrev F.pwrDvfsVConf : Fld := ⟨.pwrDvfs, 4, 2⟩
abbrev F.pwrDvfsVBusy : Fld := ⟨.pwrDvfs, 6, 1⟩
abbrev F.pwrDvfsRefused : Fld := ⟨.pwrDvfs, 7, 1⟩
abbrev F.pwrVreqMvMv : Fld := ⟨.pwrVreqMv, 0, 10⟩
abbrev F.pwrCapWattsWatts : Fld := ⟨.pwrCapWatts, 0, 11⟩
abbrev F.pwrIssueRate : Fld := ⟨.pwrIssue, 0, 7⟩
abbrev F.pwrIssueCapN : Fld := ⟨.pwrIssue, 7, 7⟩
abbrev F.pwrIssueThermN : Fld := ⟨.pwrIssue, 14, 7⟩
abbrev F.pwrIssueDroop : Fld := ⟨.pwrIssue, 21, 1⟩
abbrev F.pwrIssueBrake : Fld := ⟨.pwrIssue, 22, 1⟩
abbrev F.pwrIssueRamp : Fld := ⟨.pwrIssue, 23, 1⟩
abbrev F.pwrIssueCapUnmet : Fld := ⟨.pwrIssue, 24, 1⟩
abbrev F.pwrBrakeFloor : Fld := ⟨.pwrBrake, 0, 7⟩
abbrev F.pwrBrakeDroopMv : Fld := ⟨.pwrBrake, 8, 8⟩
abbrev F.pwrWakeFrameEn : Fld := ⟨.pwrWake, 0, 1⟩
abbrev F.pwrWakeAlarmEn : Fld := ⟨.pwrWake, 1, 1⟩
abbrev F.pwrWakeListen : Fld := ⟨.pwrWake, 2, 2⟩
abbrev F.pwrAlarmAlarmUtc : Fld := ⟨.pwrAlarm, 0, 32⟩
abbrev F.pwrMemRetainMcg : Fld := ⟨.pwrMemRetain, 0, 24⟩
abbrev F.pwrAbortsAborts : Fld := ⟨.pwrAborts, 0, 32⟩
abbrev F.pwrMidnightsEntries : Fld := ⟨.pwrMidnights, 0, 32⟩
abbrev F.pwrWakeBadBad : Fld := ⟨.pwrWakeBad, 0, 32⟩
abbrev F.pwrThrUsLoThrUs : Fld := ⟨.pwrThrUsLo, 0, 32⟩
abbrev F.pwrThrUsHiThrUs : Fld := ⟨.pwrThrUsHi, 0, 32⟩
abbrev F.telTempMaxTemp : Fld := ⟨.telTempMax, 0, 12⟩
abbrev F.telTempMaxSensor : Fld := ⟨.telTempMax, 12, 7⟩
abbrev F.telTempMaxWarn : Fld := ⟨.telTempMax, 19, 1⟩
abbrev F.telTempMaxThrottle : Fld := ⟨.telTempMax, 20, 1⟩
abbrev F.telThermCtrlWarnC : Fld := ⟨.telThermCtrl, 0, 8⟩
abbrev F.telThermCtrlThrC : Fld := ⟨.telThermCtrl, 8, 8⟩
abbrev F.telPowerWatts : Fld := ⟨.telPower, 0, 16⟩
abbrev F.telEDevLoEnergy : Fld := ⟨.telEDevLo, 0, 32⟩
abbrev F.telEDevHiEnergy : Fld := ⟨.telEDevHi, 0, 32⟩
abbrev F.secStatusUpdateStaged : Fld := ⟨.secStatus, 0, 1⟩
abbrev F.secStatusDebug : Fld := ⟨.secStatus, 1, 1⟩
abbrev F.secStatusResetting : Fld := ⟨.secStatus, 2, 4⟩
abbrev F.secStatusScrubbing : Fld := ⟨.secStatus, 6, 4⟩
abbrev F.secDebugEnable : Fld := ⟨.secDebug, 0, 1⟩
abbrev F.errStatusHalted : Fld := ⟨.errStatus, 0, 1⟩
abbrev F.errStatusVoid : Fld := ⟨.errStatus, 1, 1⟩
abbrev F.errHaltSeqSeq : Fld := ⟨.errHaltSeq, 0, 32⟩
abbrev F.errPresetReset : Fld := ⟨.errPreset, 0, 4⟩
abbrev F.errPresetResetting : Fld := ⟨.errPreset, 4, 4⟩
abbrev F.csRetireBank : Fld := ⟨.csRetire, 0, 9⟩
abbrev F.csRetireBusy : Fld := ⟨.csRetire, 9, 1⟩
abbrev F.csRetireSpares : Fld := ⟨.csRetire, 10, 4⟩
abbrev F.ldgAuditMask : Fld := ⟨.ldgAudit, 0, 8⟩
abbrev F.ldgAuditRelease : Fld := ⟨.ldgAudit, 8, 1⟩
abbrev F.ldgAuditStatusBusy : Fld := ⟨.ldgAuditStatus, 0, 1⟩
abbrev F.ldgAuditStatusStatus : Fld := ⟨.ldgAuditStatus, 1, 3⟩
abbrev F.ldgAuditStatusLedger : Fld := ⟨.ldgAuditStatus, 4, 3⟩
abbrev F.ldgAuditStatusSkipped : Fld := ⟨.ldgAuditStatus, 8, 4⟩
abbrev F.ldgReclaimGrGranules : Fld := ⟨.ldgReclaimGr, 0, 32⟩
abbrev F.cxeStatusLive : Fld := ⟨.cxeStatus, 0, 13⟩
abbrev F.cxeStatusStalled : Fld := ⟨.cxeStatus, 16, 12⟩
abbrev F.spnStatusT1Short : Fld := ⟨.spnStatus, 0, 4⟩
abbrev F.spnStatusT3Down : Fld := ⟨.spnStatus, 4, 4⟩
abbrev F.spnStatusLenders : Fld := ⟨.spnStatus, 8, 4⟩
abbrev F.spnStatusBorrowers : Fld := ⟨.spnStatus, 12, 5⟩
abbrev F.spnCsRetainGroups : Fld := ⟨.spnCsRetain, 0, 32⟩
abbrev F.spnLentOutLent : Fld := ⟨.spnLentOut, 0, 32⟩
abbrev F.spnBorrowedBorrowed : Fld := ⟨.spnBorrowed, 0, 32⟩
abbrev F.spnMoveAbortsAborts : Fld := ⟨.spnMoveAborts, 0, 32⟩
abbrev F.spnXcMissLoMiss : Fld := ⟨.spnXcMissLo, 0, 32⟩
abbrev F.spnXcMissHiMiss : Fld := ⟨.spnXcMissHi, 0, 32⟩
abbrev F.rdeStatusRunning : Fld := ⟨.rdeStatus, 0, 9⟩
abbrev F.rdeStatusMaster : Fld := ⟨.rdeStatus, 9, 1⟩
abbrev F.rdeStatusPairState : Fld := ⟨.rdeStatus, 10, 2⟩
abbrev F.rdeStatusStandby : Fld := ⟨.rdeStatus, 12, 1⟩
abbrev F.rdeGroupPosition : Fld := ⟨.rdeGroup, 0, 12⟩
abbrev F.rdeGroupSize : Fld := ⟨.rdeGroup, 12, 13⟩
abbrev F.rdeMasterMaster : Fld := ⟨.rdeMaster, 0, 12⟩
abbrev F.rdeMasterValid : Fld := ⟨.rdeMaster, 12, 1⟩
abbrev F.rdeMasterNamed : Fld := ⟨.rdeMaster, 16, 12⟩
abbrev F.rdeGroupCtrlReassignMs : Fld := ⟨.rdeGroupCtrl, 0, 16⟩
abbrev F.rdeGroupCtrlMirrorEn : Fld := ⟨.rdeGroupCtrl, 16, 1⟩
abbrev F.rdeRngCtrlFixedEn : Fld := ⟨.rdeRngCtrl, 0, 1⟩
abbrev F.rdeRngCtrlFixedDraw : Fld := ⟨.rdeRngCtrl, 16, 16⟩
abbrev F.rdeSaturatedSat : Fld := ⟨.rdeSaturated, 0, 32⟩
abbrev F.rdeEscalatedEsc : Fld := ⟨.rdeEscalated, 0, 32⟩
abbrev F.rdeStaleStale : Fld := ⟨.rdeStale, 0, 32⟩
abbrev F.rdeLostLost : Fld := ⟨.rdeLost, 0, 32⟩
abbrev F.rdeBlkClosedLoClosed : Fld := ⟨.rdeBlkClosedLo, 0, 32⟩
abbrev F.rdeBlkClosedHiClosed : Fld := ⟨.rdeBlkClosedHi, 0, 32⟩
abbrev F.rdeCntDeltaDelta : Fld := ⟨.rdeCntDelta, 0, 32⟩
abbrev F.rdeEvtDropDrop : Fld := ⟨.rdeEvtDrop, 0, 32⟩
abbrev F.rdeReadyDropDrop : Fld := ⟨.rdeReadyDrop, 0, 32⟩
abbrev F.rdePaceCntPace : Fld := ⟨.rdePaceCnt, 0, 32⟩
abbrev F.lifCalLoUtc : Fld := ⟨.lifCalLo, 0, 32⟩
abbrev F.lifCalHiUtc : Fld := ⟨.lifCalHi, 0, 32⟩
abbrev F.lifCalSetLoSet : Fld := ⟨.lifCalSetLo, 0, 32⟩
abbrev F.lifCalSetHiSet : Fld := ⟨.lifCalSetHi, 0, 32⟩
abbrev F.lifCalStatusValid : Fld := ⟨.lifCalStatus, 0, 1⟩
abbrev F.lifPoweredSSeconds : Fld := ⟨.lifPoweredS, 0, 32⟩
abbrev F.lifBootCountBoots : Fld := ⟨.lifBootCount, 0, 32⟩
abbrev F.lifEnergyJLoJoules : Fld := ⟨.lifEnergyJLo, 0, 32⟩
abbrev F.lifEnergyJHiJoules : Fld := ⟨.lifEnergyJHi, 0, 32⟩
abbrev F.lifLogHeadSeq : Fld := ⟨.lifLogHead, 0, 32⟩
abbrev F.lifLogIdxSeq : Fld := ⟨.lifLogIdx, 0, 32⟩
abbrev F.lifLogStatusBusy : Fld := ⟨.lifLogStatus, 0, 1⟩
abbrev F.lifLogStatusGone : Fld := ⟨.lifLogStatus, 1, 1⟩
abbrev F.lifOvlStatusEntries : Fld := ⟨.lifOvlStatus, 0, 14⟩
abbrev F.lifOvlStatusFull : Fld := ⟨.lifOvlStatus, 14, 1⟩
abbrev F.lifOvlStatusPending : Fld := ⟨.lifOvlStatus, 15, 1⟩
abbrev F.lifOvlCtrlFreeze : Fld := ⟨.lifOvlCtrl, 0, 1⟩
abbrev F.lifOvlCtrlClear : Fld := ⟨.lifOvlCtrl, 1, 1⟩
abbrev F.lifFlashSrcLoSrc : Fld := ⟨.lifFlashSrcLo, 0, 32⟩
abbrev F.lifFlashSrcHiSrc : Fld := ⟨.lifFlashSrcHi, 0, 32⟩
abbrev F.lifFlashLenLen : Fld := ⟨.lifFlashLen, 0, 23⟩
abbrev F.lifFlashCmdCmd : Fld := ⟨.lifFlashCmd, 0, 4⟩
abbrev F.lifFlashStatusBusy : Fld := ⟨.lifFlashStatus, 0, 1⟩
abbrev F.lifFlashStatusStatus : Fld := ⟨.lifFlashStatus, 4, 4⟩
abbrev F.lifFlashStatusStaged : Fld := ⟨.lifFlashStatus, 8, 2⟩
abbrev F.lifFwVersionRunning : Fld := ⟨.lifFwVersion, 0, 32⟩
abbrev F.lifFwStagedStaged : Fld := ⟨.lifFwStaged, 0, 32⟩

end Sys2Proof.Machine
end

