-- ==== Sys2Proof/Machine/State.lean ====
section
/-! DEFINITION. Everything the spec gives the machine, as plain data, and the machine right after power is applied with
PORST_N low (`State.reset`). Registers of the control space live in `regs` (R477) under their own names; what no register
shows (queues, buffers, keys, tables, memories) has a field of its own. -/
namespace Sys2Proof.Machine

/-! ### Memory (chapters 8 and 9) -/

/-- Where a span page lives (Table 8.4, home). -/
inductive Home | unmapped | t0 | t1 | t2 | t3 | lost
deriving DecidableEq, Repr

/-- One span page: its translation entry (Table 8.4) and the STU's working state for its cached copy. -/
structure Page where
  home : Home
  packed : Bool
  cached : Bool
  dirty : Bool
  moving : Bool
  backed : Bool
  layout : Nat
  /-- layout that the home copy was packed with; the class's may have changed since (R253) -/
  form : Nat
  cls : Nat
  lender : Nat
  location : Nat
  cacheSlot : Nat
  granules : Nat
  waferMap : BitVec 32
  /-- stripes valid in the cached copy (R243) -/
  valid : BitVec 32
  /-- dirty stripes of the cached copy (R246) -/
  dirtyStripes : BitVec 32
  /-- order of the last access, for eviction and demotion (R246, R247) -/
  last : Nat
  /-- the cached copy belongs to the slab window (R255) -/
  window : Bool
  /-- the slot of the T3 copy that a backed T2 page has, or is being given (R264) -/
  backSlot : Option Nat
  /-- the tier a move in progress, or one that waits for room, takes the page to (R245, R248, R260) -/
  moveTo : Option Home
  /-- a write has cancelled the move in progress (R245) -/
  moveHit : Bool
deriving DecidableEq, Repr

/-- An unmapped page. -/
def Page.empty : Page :=
  { home := .unmapped, packed := false, cached := false, dirty := false, moving := false, backed := false, layout := 0,
    form := 0, cls := 0, lender := 0, location := 0, cacheSlot := 0, granules := 0, waferMap := 0, valid := 0, dirtyStripes := 0,
    last := 0, window := false, backSlot := none, moveTo := none, moveHit := false }

/-- A page held here for a borrower (R258, R259): its stored form, by granules. -/
structure LentPage where
  borrower : Nat
  granules : Nat
  packed : Bool
  bytes : List Byte
deriving DecidableEq, Repr

/-- A reclaim this lender has sent and not yet ended (R260, R261). -/
structure ReclaimOut where
  borrower : Nat
  first : Nat
  count : Nat
deriving DecidableEq, Repr

/-- A stripe fill that an access waits for (R243): the page, the stripe, where it comes from. -/
structure Fill where
  page : Nat
  stripe : Nat
  /-- a FETCH or an RDMA READ has gone out, and its answer has arrived -/
  answered : Bool
  /-- PSN of the RDMA READ, for a fill from T3 -/
  psn : Nat
  /-- the stripe is filled into a cache slot, and not through transit -/
  install : Bool
  /-- an access waits for it; a prefetch and the slab window ask for others (R254, R255) -/
  demand : Bool
deriving DecidableEq, Repr

/-- One direction of the lending exchange with one peer (R343, R344). -/
structure LendPair where
  txSeq : Nat
  rxSeq : Nat
  /-- sequence numbers received beyond a gap -/
  seen : List Nat
  /-- parts of a PLACE or TAKEN that still wait for others: index, last, payload (R344) -/
  parts : List (Nat × Bool × List Byte)
  /-- granules the peer offers to this device -/
  offered : Nat
  /-- granules last offered to the peer -/
  offeredOut : Nat
  /-- pages sent with PLACE and not yet answered, oldest first, with the layout that each was packed with -/
  placing : List (Nat × Nat)
deriving DecidableEq, Repr

def LendPair.empty : LendPair :=
  { txSeq := 1, rxSeq := 0, seen := [], parts := [], offered := 0, offeredOut := 0, placing := [] }

/-- A PREFETCH that still waits for fills (R254): page at hand, pages left with it, pages done. The other mapping commands end in the
act that starts them. -/
structure SpnRun where
  page : Nat
  left : Nat
  done : Nat
deriving DecidableEq, Repr

/-- The translation cache of the device (R242): tags of the translation entries and of the level-1 entries that it holds, by partition
and by page or 256 MiB number, the latest used first. The entries themselves are those of the tables. -/
structure Xlat where
  entries : List (Nat × Nat)
  tops : List (Nat × Nat)
deriving DecidableEq, Repr

/-- The stream (R255, R256). -/
structure StreamSt where
  /-- values in force of SPN_WINDOW, SPN_STREAM_LO, _HI and _LEN (R257) -/
  window : Word
  lo : Word
  hi : Word
  len : Word
  current : Option Nat
  down : Bool
deriving DecidableEq, Repr

/-- A row of a package: channel, rank, bank, row. -/
structure RowId where
  ch : Nat
  rank : Nat
  bank : Nat
  row : Nat
deriving DecidableEq, Repr

/-- A corrected read remembered for R287: row, column sector, powered second. -/
structure CeNote where
  row : RowId
  sector : Nat
  time : Nat
deriving DecidableEq, Repr

/-- A redirection of R288: the failed row and the spare number of its channel. -/
structure Remap where
  row : RowId
  spare : Nat
deriving DecidableEq, Repr

/-- A check sector that the check cache of an MCG holds (R279): its check row and column sector; a check word in it is newer than the one
in the package. The words themselves are those of the data sectors (R278, R282). -/
structure CheckLine where
  row : RowId
  sector : Nat
  dirty : Bool
deriving DecidableEq, Repr

/-- The on-die and mirrored state of one MCG that its registers do not show (chapter 9). -/
structure Mcg where
  /-- marked check groups: all numbers from here up to `groups` but those in the intervals `initDone`, first and count (R271) -/
  initNext : Nat
  initDone : List (Nat × Nat)
  groups : Nat
  remaps : List Remap
  /-- blocks withdrawn against this MCG, by number in the linear T1 of its partition, and the rows whose blocks are still being
  vacated, with those blocks (R290) -/
  retired : List Nat
  retiring : List (RowId × List Nat)
  /-- the check cache, the latest used sector first (R279) -/
  checks : List CheckLine
  ceNotes : List CeNote
  failed : List RowId
  scrubPos : Nat
  /-- consecutive readings that call for a cooler step (R275) -/
  cooler : Nat
  /-- ranks in power-down (R372) and in self-refresh (R374) -/
  powerDown : Bool
  selfRefresh : Bool
  /-- the last refresh of each (rank, bank), in fclk (R274) -/
  refreshed : List (Nat × Nat)
  /-- the timing correction that the oscillators last called for, per channel (R272) -/
  oscillator : List Nat
  /-- every rank is being written with zeros before ready (R464 step 7, R381) -/
  reinit : Bool
  /-- channel under test (R463) -/
  test : Option Nat
  fitted : Bool
deriving DecidableEq, Repr

def Mcg.empty : Mcg :=
  { initNext := 0, initDone := [], groups := 0, remaps := [], retired := [], retiring := [], checks := [], ceNotes := [], failed := [], scrubPos := 0,
    cooler := 0, powerDown := false, selfRefresh := false, refreshed := [], oscillator := [], reinit := false, test := none,
    fitted := false }

/-- What decoding a stored word of T0 or T1 meets (R283, R285). -/
inductive Upset | corrected | uncorrectable | misdirected
deriving DecidableEq, Repr

/-- Symbols of a stored codeword that differ from what was written, with the value added to each: 0 to 127 data, 128 to 131 check, 132 to
138 address, 139 poison (R281, R282). -/
abbrev Errs := List (Nat × Nat)

/-! ### Errors (chapter 15) -/

/-- An error record (Table 15.3). -/
structure ErrRec where
  seq : Nat
  calendar : Nat
  stamp : Nat
  cls : Nat
  source : Nat
  unit : Nat
  cause : Nat
  second : Bool
  preempted : Bool
  partition : Option Nat
  boot : Bool
  tenant : Nat
  overflow : Nat
  jobTag : Nat
  address : Nat
  detail : Nat
  descTag : Nat
deriving DecidableEq, Repr

/-- The error banks, the audit and the central-store banks. -/
structure ErrSt where
  banks : Tab (List ErrRec)
  seq : Nat
  /-- full 64-bit seq of the record that caused the halt -/
  haltSeq : Nat
  /-- snapshot that an audit froze: values by register (R457) -/
  snapshot : Option (List (Reg × Word))
  /-- physical bank that fills each logical position which is not its own (R285, R461) -/
  csMap : Tab Nat
  csSpares : List Nat
  /-- corrected words remembered per physical bank, with their powered second (R462) -/
  csCe : List (Nat × Nat × Nat)
deriving DecidableEq, Repr

/-! ### Links (chapters 10 and 11) -/

/-- What a port's receiver has assembled and nothing has yet acted on. -/
inductive InFrame
  | coll (type : Nat) (f : Frame)
  | lend (type : Nat) (m : LendMsg)
deriving DecidableEq, Repr

/-- A frame waiting to be sent: virtual channel, bytes, whether it is to be encrypted (R331, R341). -/
structure TxFrame where
  vc : Nat
  bytes : List Byte
  enc : Bool
deriving DecidableEq, Repr

/-- A sent flit kept for replay (R335), as its payload fields. -/
structure TxFlit where
  kind : Nat
  vc : Nat
  first : Bool
  last : Bool
  bytes : Nat
  seq : Nat
  enc : Bool
  payload : List Byte
deriving DecidableEq, Repr

/-- The key exchange of one port (R418). -/
structure KeyxSt where
  ek : List Byte
  dk : List Byte
  ct : List Byte
  shared : List Byte
  exchOurs : List Byte
  exchPeer : List Byte
  cert : List Byte
  done : Bool
deriving DecidableEq, Repr

def KeyxSt.empty : KeyxSt :=
  { ek := [], dk := [], ct := [], shared := [], exchOurs := [], exchPeer := [], cert := [], done := false }

/-- One Efoladel port beyond its registers. -/
structure Ep where
  /-- the peer's allocations (EXCHANGE) and whether credits are granted -/
  peerAlloc : List Nat
  /-- credits owed to the peer per VC: freed slots not yet returned (R334) -/
  owed : List Nat
  /-- slots of each VC that hold flits not yet moved to the central store -/
  occupied : List Nat
  /-- per VC: flits sent, accepted, credits returned to this end and by it (ledger 0, split by VC) -/
  sent : List Nat
  recv : List Nat
  rtx : List Nat
  rrx : List Nat
  txSeq : Nat
  rxSeq : Nat
  txq : List TxFrame
  /-- payloads of LINK flits that wait to be sent -/
  linkq : List (List Byte)
  replay : List TxFlit
  /-- frames sent whose last flit, by its number, is not acknowledged (R339) -/
  inflight : List (Nat × TxFrame)
  /-- the receiver waits for `rxSeq` after a loss; NAKs sent for it (R335, R336) -/
  nakWait : Bool
  nakCount : Nat
  /-- times the peer has sent NAK for the oldest flit that it has not accepted (R336) -/
  nakSeen : Nat
  unacked : Nat
  /-- payload of the frame being received and whether it is encrypted (R331) -/
  rx : List Byte
  rxVc : Nat
  rxEnc : Bool
  rxFlits : Nat
  gcmFails : Nat
  /-- parts of the link message being received (R340) -/
  lparts : List Byte
  inbox : List InFrame
  linbox : List (Nat × LinkMsg)
  /-- lanes that failed and wait for a full training (R338) -/
  retiredLanes : BitVec 8
  /-- the group and the failed lanes of a WIDTH that waits for its WIDTH_ACK (R340) -/
  widthTo : Option (BitVec 8 × BitVec 8)
  /-- the WIDTH came from the peer: this end re-stripes once its WIDTH_ACK has been acknowledged -/
  widthAsked : Bool
  /-- training: lanes that passed steps 1 to 3, the peer's EXCHANGE has come, VERIFY messages accepted (R337) -/
  trainLanes : BitVec 8
  exchanged : Bool
  verified : Nat
  /-- position ID of the peer, from EXCHANGE or the frames heard -/
  peerPos : Option Nat
  peerPort : Nat
  peerFlags : Nat
  /-- link keys per direction and the frame counters per VC (R341) -/
  keyTx : Option (List Byte)
  keyRx : Option (List Byte)
  ctrTx : List Nat
  ctrRx : List Nat
  keyx : KeyxSt
  /-- the port was up at Midnight entry (Table 12.6, step 6) -/
  upAtEntry : Bool
  /-- its training failed at cold start: out of service until the next one (LINK_TRAIN, R453) -/
  outOfService : Bool
deriving DecidableEq, Repr

def Ep.empty : Ep :=
  { peerAlloc := [], owed := [], occupied := [], sent := [], recv := [], rtx := [], rrx := [], txSeq := 0, rxSeq := 0,
    txq := [], linkq := [], replay := [], inflight := [], nakWait := false, nakCount := 0, nakSeen := 0, unacked := 0, rx := [], rxVc := 0,
    rxEnc := false, rxFlits := 0, gcmFails := 0, lparts := [], inbox := [], linbox := [], retiredLanes := 0,
    widthTo := none, widthAsked := false, trainLanes := 0, exchanged := false, verified := 0, peerPos := none, peerPort := 0, peerFlags := 0, keyTx := none, keyRx := none,
    ctrTx := [], ctrRx := [], keyx := KeyxSt.empty, upAtEntry := false, outOfService := false }

/-- A local contribution to a block, or a partial block closed in an earlier phase (R305, R308, R311): its true values (none where
it is non-finite), its s_local (none where it is all zero), the largest s_local it holds, its flags and its count. -/
structure Contribution where
  vals : Option (List Rat)
  own : Option Nat
  agreed : Nat
  saturated : Bool
  escalated : Bool
  count : Nat
deriving DecidableEq, Repr

/-- A queue pair's state beyond its registers (R352 to R361). -/
structure Qp where
  /-- next PSN expected and next to send -/
  epsn : Nat
  npsn : Nat
  retries : Nat
  rnr : Nat
  /-- an RNR wait is running (R353) -/
  rnrWait : Bool
  /-- rate in bit/s; the last cut, ticks and whether a CNP has come since the last tick (R361); the last CNP sent (R360) -/
  rate : Nat
  lastCut : Option Nat
  ticks : Nat
  cnpSeen : Bool
  lastCnp : Option Nat
  /-- free slots of the receive ring and the next sequence number (R357) -/
  freeSlots : Nat
  ringSeq : Nat
deriving DecidableEq, Repr

def Qp.empty : Qp :=
  { epsn := 0, npsn := 0, retries := 0, rnr := 0, rnrWait := false, rate := 0, lastCut := none, ticks := 0,
    cnpSeen := false, lastCnp := none, freeSlots := 0, ringSeq := 1 }

/-- What an outstanding RDMA request belongs to. -/
inductive ReqOwner
  | xfer (c : Nat) | completion (c : Nat) | t3 (p : Nat) (page : Nat) | event
deriving DecidableEq, Repr

/-- An RDMA request the device has issued and not seen acknowledged (R353). -/
structure Request where
  q : Nat
  psn : Nat
  last : Nat
  isRead : Bool
  owner : ReqOwner
  /-- for a READ: where the response goes -/
  dst : Nat
  len : Nat
  /-- host side of the request: virtual address, key, bytes written, immediate -/
  va : Nat
  rkey : Nat
  data : List Byte
  imm : Option Word
deriving DecidableEq, Repr

/-- What the headers of a RoCE packet carry beside its operation: from the queue pair's registers the remote queue pair, the destination
GID, the local GID index, the UDP source port and the DSCP, and from the port's whether it is marked ECT(0) (R349, R351, R360). -/
structure RoceHead where
  dest : Nat
  dgid : Nat
  gidIdx : Nat
  sport : Nat
  dscp : Nat
  ect : Bool
deriving DecidableEq, Repr

/-- A RoCE v2 packet or message of a queue pair (Table 11.8). -/
inductive Roce
  | rdmaWrite (q : Nat) (psn : Nat) (va : Nat) (rkey : Nat) (data : List Byte) (imm : Option Word)
  | rdmaRead (q : Nat) (psn : Nat) (va : Nat) (rkey : Nat) (len : Nat)
  | readResp (q : Nat) (psn : Nat) (data : List Byte)
  | ack (q : Nat) (psn : Nat)
  | nak (q : Nat) (psn : Nat) (k : NakKind)
  | cnp (q : Nat)
deriving DecidableEq, Repr

/-- A message the device has put on a wire, oldest first (the model's own record of the pins). -/
inductive Out
  | flit (ep : Nat) (bytes : List Byte)
  | roce (head : RoceHead) (packet : Roce)
  | pfc (h : Nat) (prio : Nat) (time : Nat)
  | arpReply (h : Nat) (m : ArpMsg)
  | arpAsk (h : Nat) (ip : Nat)
  | neighbour (h : Nat) (m : ArpMsg)
  | echo (h : Nat) (m : EchoMsg)
  | smbus (bytes : List Byte)
  | tdo (bits : List Bool)
deriving DecidableEq, Repr

/-- A frame that waits for its priority to be unpaused (R359) or its next hop to be resolved (R350). -/
structure HostTx where
  prio : Nat
  hop : Option Nat
  msg : Out
deriving DecidableEq, Repr

/-- A request that waits in a port's receive buffer (R354, R359): its queue pair, its first PSN, its bytes, whether it is a READ. -/
structure Waiting where
  q : Nat
  psn : Nat
  bytes : Nat
  isRead : Bool
deriving DecidableEq, Repr

/-- One host port beyond its registers. -/
structure Hp where
  /-- neighbour cache: IPv6 or IPv4-mapped address, MAC address, whether the image gave the entry -/
  neigh : List (Nat × BitVec 48 × Bool)
  resolving : List Nat
  /-- echo requests answered in the second named (R350) -/
  echoes : Nat
  echoSecond : Nat
  /-- priorities paused; those whose episode has its record; fclk at which the RoCE priority was paused -/
  paused : BitVec 8
  stormed : BitVec 8
  pausedAt : Nat
  /-- requests that wait in the receive buffer -/
  held : List Waiting
  xoffSent : Bool
  txq : List HostTx
deriving DecidableEq, Repr

def Hp.empty : Hp :=
  { neigh := [], resolving := [], echoes := 0, echoSecond := 0, paused := 0, stormed := 0, pausedAt := 0, held := [], xoffSent := false,
    txq := [] }

/-! ### Cores (chapters 2 to 6) -/

/-- A decoded descriptor (Table 5.4): where it stands in the image, its header and its 48 body bytes. -/
structure Desc where
  offset : Nat
  opcode : Nat
  unit : Nat
  waitEn : Bool
  sigEn : Bool
  bwdStart : Bool
  layerStart : Bool
  stopOnStatus : Bool
  stashOnly : Bool
  recomputeOnly : Bool
  tag : Nat
  waitCtr : Nat
  sigCtr : Nat
  waitVal : Nat
  layer : Nat
  body : List Byte
deriving DecidableEq, Repr

/-- A descriptor in a unit queue (R152), with the micro-step and attempt it was dispatched in (R149) and whether it is
skipped (R161, R167). -/
structure QItem where
  d : Desc
  micro : Nat
  attempt : Nat
  skipped : Bool
  /-- index of the first segment still to commit, the input exponent offset and the replays so far (R68, R103) -/
  resume : Nat
  ePass : Int
  replays : Nat
  /-- this run may not overflow again, whatever the limit (R103) -/
  last : Bool
  /-- it stands in the update stream -/
  upd : Bool
  /-- how many descriptors of the job were dispatched before it -/
  no : Nat
deriving DecidableEq, Repr

/-- What the RDE keeps for one running COLL (R299 to R311). -/
structure Coll where
  core : Nat
  /-- the running job: its key in `jobs` -/
  key : Nat
  part : Nat
  /-- coll_job of the record, and the attempt it runs in -/
  job : Nat
  attempt : Nat
  bucket : Nat
  /-- 0 reduce-scatter, 1 all-gather, 2 all-reduce -/
  op : Nat
  fmt : Nat
  plan : Nat
  buf : Nat
  out : Nat
  blocks : Nat
  weight : Nat
  headroom : Nat
  expAddr : Nat
  /-- contributions that a closed block must carry (R312) -/
  group : Nat
  /-- the descriptor, or none for the scalar all-reduce of a vote (R126), with the block it contributes and ends with -/
  item : Option QItem
  scalar : List Half
  /-- phases: the dimensions of the reduce-scatter, then those of the all-gather, highest first -/
  phase : Nat
  opened : Bool
  /-- blocks processed in the phase, and frames that came too early for it -/
  done : List Nat
  held : List (Nat × Frame × Nat)
  /-- partial blocks closed in the phase before, and in this one (R311) -/
  parts : Tab Contribution
  next : Tab Contribution
  /-- blocks accepted (R339): phase and direction, block -/
  seen : List (Nat × Bool × Nat)
  /-- READY received, by dimension and direction; READY sent and not yet answered (R300, R301) -/
  readyRx : List (Nat × Bool)
  readyTx : List (Nat × Bool)
  /-- REDUCE frames that wait for their READY -/
  waiting : List Frame
deriving DecidableEq, Repr

/-- A frame that arrived before its COLL: a READY (R300), or a GATHER whose blocks wait for it. -/
structure EarlyFrame where
  type : Nat
  port : Nat
  frame : Frame
deriving DecidableEq, Repr

/-- The barrier of one training job as this device sees it (R317): who has arrived, with attempt and step, since the last RELEASE. -/
structure Barrier where
  job : Nat
  arrived : List (Nat × Nat × Nat)
  selfArrived : Bool
  sentUp : Bool
deriving DecidableEq, Repr

/-- The RDE and the fabric group (chapter 10). -/
structure Rde where
  colls : List Coll
  early : List EarlyFrame
  /-- the generator of each running job, by its key (R296) -/
  gens : Tab Dword
  /-- positions that are live; lost or departed ones that a LOST has gone out or come in for since they were last heard (R313, R315) -/
  live : List Nat
  lostSeen : List Nat
  barriers : List Barrier
  /-- spares in use and the position each has taken; positions lost and not filled (R318, R321) -/
  assigned : List (Nat × Nat)
  unfilled : List Nat
  /-- ABORT frames acted on: job, attempt, field (R314) -/
  aborts : List (Nat × Nat × Nat)
  /-- positions that this device itself has declared lost, and not heard since (R323) -/
  declared : List Nat
  /-- the group step G that the master last named for a job, and the attempt (R317 to R319) -/
  groupStep : Tab Nat
  groupAtt : Tab Nat
  evtSeq : Nat
  /-- committed step that the primary's last HEARTBEAT carried; of the stream that comes in, the step that its frames carry and the parts
  received, as first and end of 64-byte units (R322) -/
  pairStep : Nat
  pairOf : Nat
  pairGot : List (Nat × Nat)
deriving DecidableEq, Repr

/-- A base entry (R149). -/
structure BaseEntry where
  addr : Nat
  strideMicro : Nat
  strideAttempt : Nat
deriving DecidableEq, Repr

/-- A layer entry, a binding entry (R150), a bucket entry (Table 10.5). -/
structure LayerEntry where
  stash : Nat
  input : Nat
  recompute : Nat
  mark : Bool
deriving DecidableEq, Repr

structure Binding where
  addr : Nat
  bytes : Nat
  layer : Nat
  dw : Bool
  grad : Nat
deriving DecidableEq, Repr

structure Bucket where
  id : Nat
  gradient : Bool
  headroom : Nat
  slot : Nat
  expAddr : Nat
deriving DecidableEq, Repr

/-- The decoded job image: streams per logical core and its tables (Table 5.3). -/
structure JobImage where
  main : List (List Desc)
  update : List (List Desc)
  bases : List BaseEntry
  layers : List LayerEntry
  bindings : List Binding
  scaled : List (Nat × Nat)
  buckets : List Bucket
  kernelAt : Nat
  kernelLen : Nat
  id : Nat
  measure : List Byte
deriving DecidableEq, Repr

def JobImage.empty : JobImage :=
  { main := [], update := [], bases := [], layers := [], bindings := [], scaled := [], buckets := [], kernelAt := 0,
    kernelLen := 0, id := 0, measure := [] }

/-- A job record (Table 5.1), with the defaults of its coded fields resolved. -/
structure JobRec where
  tag : Nat
  kind : Nat
  coreMask : Nat
  tenant : Nat
  imageAddr : Nat
  imageLen : Nat
  ctrTimeout : Nat
  seed : Nat
  compAddr : Nat
  compRkey : Nat
  compQp : Nat
  collJob : Nat
  nfAddr : Nat
  nfCap : Nat
  saveAddr : Nat
  trainState : Nat
  stepReport : Nat
  steps : Nat
  window : Nat
  groupSize : Nat
  optClass : Nat
  discardLimit : Nat
  replayStep : Nat
  replayLimit : Nat
  headroom : Nat
  clipEn : Bool
  hyper : List Half
deriving DecidableEq, Repr

def JobRec.empty : JobRec :=
  { tag := 0, kind := 0, coreMask := 0, tenant := 0, imageAddr := 0, imageLen := 0, ctrTimeout := 0, seed := 0,
    compAddr := 0, compRkey := 0, compQp := 0, collJob := 0, nfAddr := 0, nfCap := 0, saveAddr := 0, trainState := 0,
    stepReport := 0, steps := 0, window := 1, groupSize := 1, optClass := 0, discardLimit := 3, replayStep := 4,
    replayLimit := 3, headroom := 1, clipEn := false, hyper := [] }

/-- Where a training job stands between its phases (Table 4.1). -/
inductive TrainPhase | window | barrier | released | micro | update | voting | voted | done
deriving DecidableEq, Repr

/-- The training state of a job (chapter 4). -/
structure Train where
  phase : TrainPhase
  /-- values read in phase 1 (Table 4.5, R122) -/
  commitWord : Nat
  paramA : Nat
  paramB : Nat
  momA : Nat
  momB : Nat
  elayers : List Int
  imageId : Nat
  discards : Nat
  micro : Nat
  microRun : Nat
  attempt : Nat
  commits : Nat
  poisoned : Bool
  nfLayer : Nat
  nfMicro : Nat
  nfDesc : Nat
  nfTiles : Nat
  nfLayers : List Nat
  replays : Nat
  /-- vote result of this attempt (R126) -/
  vote : Option Bool
  clip : Half
  lossVal : Half
  lossExp : Half
  startStamp : Nat
  waitStamp : Nat
  /-- layers marked recompute in this micro-step, its switch layer; lowest switch layer and count of the window (R114, R115) -/
  recompute : List Nat
  switchLayer : Nat
  switchCount : Nat
  switched : Bool
  /-- observations of this step by scaled tensor; probe step; history partial (R134 to R137) -/
  observed : List (Option Int)
  probe : Bool
  partialHist : Bool
  /-- status the job ends with after phase 8 (R170, R180) -/
  endAfter : Option Nat
  suspendAfter : Bool
  fault : Bool
  /-- phase 5 has begun on this device (R139) -/
  optimizing : Bool
  /-- an all-gather of this attempt did not complete (R128) -/
  gatherLost : Bool
  /-- gradient tiles of this window: destinations written, and tile record addresses with their layer (R117, Table 4.11) -/
  dwSeen : List Nat
  gtiles : List (Nat × Nat)
  /-- the moments have gone out to the mirror holder, and the parts of the peer's mirror that have come, as first and end of 64-byte
  units (R320) -/
  mirrorSent : Bool
  mirrorGot : List (Nat × Nat)
  /-- buckets whose reductions have started in this attempt (R301) -/
  collsDone : List Nat
  /-- parts of the alternate parameter slot that an interrupted all-gather has left without their shards (R128, R317) -/
  lacks : List (Nat × Nat)
deriving DecidableEq, Repr

def Train.empty : Train :=
  { phase := .window, commitWord := 0, paramA := 0, paramB := 0, momA := 0, momB := 0, elayers := [], imageId := 0,
    discards := 0, micro := 0, microRun := 0, attempt := 0, commits := 0, poisoned := false, nfLayer := 0xFFFF,
    nfMicro := 0xFFFF, nfDesc := 0, nfTiles := 0, nfLayers := [], replays := 0, vote := none,
    clip := 0x3F80, lossVal := 0, lossExp := 0, startStamp := 0, waitStamp := 0, recompute := [],
    switchLayer := 0xFFFF, switchCount := 0, switched := false,
    observed := [], probe := false, partialHist := false, endAfter := none, suspendAfter := false, fault := false, optimizing := false,
    gatherLost := false, dwSeen := [], gtiles := [], mirrorSent := false, mirrorGot := [], collsDone := [], lacks := [] }

/-- The scale history area of a partition (Table 4.9): per tensor 16 entries, none where an entry is 0x8000. -/
structure History where
  imageId : Nat
  tag : Nat
  count : Nat
  records : List (List (Option Int))
  /-- the 32 bytes of the check, as stored -/
  check : List Byte
deriving DecidableEq, Repr

/-- What one admitted layer keeps in the stash (R113): bytes still in T0, sectors that its spilled stripes take in T1. -/
structure StashLayer where
  layer : Nat
  t0 : Nat
  sectors : Nat
deriving DecidableEq, Repr

/-- The activation stash of a partition, oldest layer first (R113 to R115). -/
structure Stash where
  layers : List StashLayer
deriving DecidableEq, Repr

/-- A running job (R143 to R172). -/
structure Job where
  part : Nat
  ring : Nat
  seq : Nat
  record : JobRec
  image : JobImage
  /-- physical cores, lowest first: logical core l runs on the l-th (R148) -/
  cores : List Nat
  /-- status the job ends with, once it ends (Table 5.12), and the failing descriptor -/
  ending : Option Nat
  failTag : Nat
  failDetail : Nat
  nfOver : Bool
  saved : Bool
  nfTiles : Nat
  nfListed : Nat
  startStamp : Nat
  issued : Nat
  train : Train
  suspend : Bool
  /-- units whose generator this step has seeded (R87) -/
  seeded : List Nat
  /-- the training fields of the attempt before, after an ABORT (R317) -/
  last : Train
deriving DecidableEq, Repr

/-- What a sequencer is doing with its stream (R152, R166). -/
inductive Stream | none | main | update
deriving DecidableEq, Repr

/-- One core's sequencer beyond CORE_SQ_STATUS and its counters. -/
structure Sq where
  /-- lowest physical core of the job that runs here: its key in `jobs` -/
  job : Option Nat
  stream : Stream
  pos : Nat
  ended : Bool
  /-- the six unit queues of R152 -/
  eng0 : List QItem
  eng1 : List QItem
  ve : List QItem
  xfer : List QItem
  cxe : List QItem
  coll : List QItem
  /-- the tenant slot of the last job (R407) -/
  lastTenant : Option (Nat × Nat)
  /-- descriptors of the job dispatched when the FENCE at hand was reached -/
  fenceFrom : Option Nat
  /-- the shared fence of the first bwd_start is passed in this micro-step (R161) -/
  bwdPassed : Bool
  /-- descriptors are skipped after a failed vote (R167) -/
  skipping : Bool
  dusk : Bool
  /-- a core fence waits for the end of the job that runs here (R460, Table 15.6) -/
  fencing : Bool
deriving DecidableEq, Repr

def Sq.empty : Sq :=
  { job := none, stream := .none, pos := 0, ended := false, eng0 := [], eng1 := [], ve := [], xfer := [], cxe := [],
    coll := [], lastTenant := none, fenceFrom := none, bwdPassed := false, skipping := false, dusk := false, fencing := false }

/-- What a suspend puts into a save area (R168): the area's bytes stand for it, whose form is the device's own. -/
structure SaveInfo where
  device : List Byte
  job : Job
  sqs : List Sq
  counters : List (List Nat)
deriving DecidableEq, Repr

/-- Eclk of a run of a pass so far, as its report counts them (R72): advancing eclk of load and fill, feeder freezes, eclk in which the
PASS's wait held the first row, drain freezes, withheld eclk. -/
structure Spent where
  load : Nat
  fill : Nat
  feed : Nat
  held : Nat
  drain : Nat
  throttle : Nat
deriving DecidableEq, Repr

def Spent.none : Spent := { load := 0, fill := 0, feed := 0, held := 0, drain := 0, throttle := 0 }

/-- A pass whose rows are in the array or the drain buffer (R61, R62): the job's key, its LOAD and PASS, and what they are worked
with. -/
structure EngRun where
  key : Nat
  l : QItem
  p : QItem
  acc : Bool
  final : Bool
  kExt : Nat
  nExt : Nat
  vecs : List (List Nat)
  plan : List Byte
  /-- lowest segment whose rows have not all entered, lowest segment not committed -/
  next : Nat
  done : Nat
  /-- the outputs of the rows of segments `done` to `next` − 1, in the array and in the row slots of the drain buffer: carried sums in
  BF16, each with the input-origin tag of a value that is not finite (R97) -/
  staged : List (List (List (Half × Bool)))
  /-- rows committed that were empty (R55); a row was committed poisoned (R63) -/
  empty : Nat
  ue : Bool
  /-- the segment from which none opens, once a pre-emption request has come (R67) -/
  limit : Option Nat
  /-- the job has dropped the pass: it is neither resumed nor signalled when it ends -/
  dead : Bool
  spent : Spent
deriving DecidableEq, Repr

/-- A matrix engine beyond its registers (Table 2.1). -/
structure Eng where
  /-- stationary registers, cell row by cell row: the elements each cell holds, as stored codes -/
  station : List (List (List Nat))
  scales : List (List Nat)
  /-- the transpose buffer: the lines of the block that streams next, one for each k (R45) -/
  tbuf : List (List Byte)
  /-- the LOAD the stationary registers come from, until the first row of its pass enters, and its operand extents along K and N -/
  loaded : Option QItem
  kExt : Nat
  nExt : Nat
  /-- what the loaded operand's run has spent (R72) -/
  spent : Spent
  /-- the pass whose rows are streaming or draining (R61); the next load may stand beside its tail (R44) -/
  run : Option EngRun
  /-- segment at which an overflow ended the pass that now waits for its replay (R103) -/
  replayAt : Option Nat
  /-- the PASS of a LOAD that was abandoned has yet to be dispatched, and leaves then without its signal (R65) -/
  dropNext : Bool
  /-- the 1 KiB vectors that the load read, as stored: scale, bias, c (BF16) and frequency; its plan entry (R57, R223) -/
  vecs : List (List Nat)
  plan : List Byte
  ramp : Nat
  unfencing : Bool
  dusk : Bool
  rampDone : Bool
deriving DecidableEq, Repr

def Eng.empty : Eng :=
  { station := [], scales := [], tbuf := [], loaded := none, kExt := 0, nExt := 0, spent := Spent.none, run := none, replayAt := none,
    dropNext := false, vecs := [], plan := [], ramp := 0, unfencing := false, dusk := false, rampDone := true }

/-- A vector engine (R173 to R199). -/
structure Ve where
  v : Tab (List Half)
  s : Tab Half
  a : Tab Addr48
  layer : Nat
  /-- NR, NW, NU, NT, NG: value and exponent (R173) -/
  nr : Half × Half
  nw : Half × Half
  nu : Half × Half
  nt : Half × Half
  ng : Half × Half
  stall : Nat
  /-- the 64 KiB instruction store (R175) -/
  store : List Byte
  storeAt : Nat
  running : Bool
  kernel : Option QItem
  /-- packed address of the loss pair, as the argument block gave it (Table 6.2) -/
  lossAt : Nat
  /-- hyper-parameters latched in phase 1: lr b1 b2 eps wd mu g_scale, and the clip factor (R193, R197) -/
  hyper : List Half
  t : Nat
  clip : Half
  dusk : Bool
deriving DecidableEq, Repr

def Ve.empty : Ve :=
  { v := [], s := [], a := [], layer := 0xFFFF, nr := (0, 0), nw := (0, 0), nu := (0, 0), nt := (0, 0), ng := (0, 0),
    stall := 0, store := [], storeAt := 0, running := false, kernel := none, lossAt := 0xFFFFFFFF, hyper := [], t := 0,
    clip := 0x3F80, dusk := false }

/-- One layer's accumulation area entry (R196). -/
structure LayerAcc where
  rg : Half × Half
  w : Half × Half
  u : Half × Half
  stalled : Nat
deriving DecidableEq, Repr

/-! ### Context engine (chapter 7) -/

/-- A page of the CXE (Tables 7.3 and 7.4): its class and token slots written, the tree node it belongs to, and where its contents
are: region 0 a frame, 1 to 3 a slot of park T1 to T3. -/
structure CxPage where
  cls : Nat
  written : BitVec 16
  node : Bool
  region : Nat
  location : Nat
  stamp : Nat
deriving DecidableEq, Repr

/-- A context, live or parked (Table 7.2), with its page list (R205): per layer, the page IDs of its blocks. -/
structure Ctx where
  cls : Nat
  tenant : Nat
  causal : Bool
  windowEn : Bool
  padEn : Bool
  chained : Bool
  tokens : Nat
  window : Nat
  padStart : Nat
  parentHash : Nat
  parentNode : Option Nat
  /-- token keys of every position (the record shows those of the last, partial block) -/
  pending : List Nat
  pages : List (List Nat)
  /-- first list block of the directory, and the list blocks of each layer, by number in the list pool -/
  dirAt : Nat
  lists : List (List Nat)
  stamp : Nat
  stalled : Bool
  /-- marked with a memory fault (R210) -/
  fault : Bool
deriving DecidableEq, Repr

/-- A class of the layout block (Table 7.1). -/
structure CxClass where
  pageCode : Nat
  fmt : Nat
  layers : Nat
  share : Bool
  causal : Bool
  windowEn : Bool
  padEn : Bool
  window : Nat
  frames : Nat
  frameBase : Nat
  salt : List Byte
deriving DecidableEq, Repr

/-- A node of a prefix tree (R212): its tree (class and tenant slot), keys, hash, parent (none for the root) and one page per layer. -/
structure CxNode where
  cls : Nat
  tenant : Nat
  keys : List Nat
  hash : Nat
  parent : Option Nat
  pages : List Nat
  stamp : Nat
deriving DecidableEq, Repr

/-- A reservation that waits for frames (R230): its core, its partition and job's tenant slot, its descriptor, the live IDs that it
holds back. Stalled reservations stand oldest first. -/
structure Stalled where
  core : Nat
  part : Nat
  item : QItem
  ids : List Nat
deriving DecidableEq, Repr

/-- The CXE's tables of one partition: the layout block as read (R200), contexts, pages and nodes. -/
structure CxPart where
  valid : Bool
  classes : List CxClass
  pageTable : Nat
  pageFirst : Nat
  pageCount : Nat
  nodeStore : Nat
  nodeCount : Nat
  listBlocks : Nat
  listPool : Nat
  parkDir : Nat
  parkFirst : Nat
  parkCount : Nat
  /-- base and slots of park T1, T2 and T3 -/
  regions : List (Nat × Nat)
  live : Tab Ctx
  parked : Tab Ctx
  pages : Tab CxPage
  nodes : Tab CxNode
deriving DecidableEq, Repr

def CxPart.empty : CxPart :=
  { valid := false, classes := [], pageTable := 0, pageFirst := 0, pageCount := 0, nodeStore := 0, nodeCount := 0, listBlocks := 0,
    listPool := 0, parkDir := 0, parkFirst := 0, parkCount := 0, regions := [], live := [], parked := [], pages := [], nodes := [] }

/-! ### Security, flash and power (chapters 12 to 14, 17) -/

/-- What SEC holds that no register shows (R408 to R418). -/
structure Sec where
  partDk : Tab (List Byte)
  partEk : Tab (List Byte)
  /-- content keys by (partition·16 + slot)·4 + key slot: key_id and key -/
  content : Tab (List Byte × List Byte)
  memKeys : Tab (List Byte)
  /-- nonces of the last four reports by partition·16 + slot, newest first (R412) -/
  nonces : Tab (List (List Byte))
  reportSeq : Nat
  reports : Tab (List Byte)
  mBoot : List Byte
  mSec : List Byte
  mSeq : List Byte
  mConfig : List Byte
  mOverlay : List Byte
  mStaged : List Byte
  overlayApplied : Bool
deriving DecidableEq, Repr

def Sec.empty : Sec :=
  { partDk := [], partEk := [], content := [], memKeys := [], nonces := [], reportSeq := 0, reports := [],
    mBoot := [], mSec := [], mSeq := [], mConfig := [], mOverlay := [], mStaged := [], overlayApplied := false }

/-- What the fuses hold (R4, R76, R408, R409). -/
structure Fuses where
  mePresent : BitVec 8
  grade : Nat
  serial : List Byte
  vendorHash : List Byte
  deviceSeed : List Byte
  /-- the vendor's signature of the identity certificate (Table 13.2) -/
  certSig : List Byte
deriving DecidableEq, Repr

/-- A flash slot's state word as R424 counts it. -/
inductive SlotState | erased | staged | committed
deriving DecidableEq, Repr

structure FwSlot where
  state : SlotState
  generation : Nat
  image : Option FwImage
deriving DecidableEq, Repr

structure CfgSlot where
  state : SlotState
  generation : Nat
  image : Option CfgImage
deriving DecidableEq, Repr

/-- The retained overlay (Table 14.7). -/
structure Overlay where
  entries : List (Nat × Word)
  seq : Nat
  imageHash : List Byte
  checkOk : Bool
deriving DecidableEq, Repr

def Overlay.empty : Overlay := { entries := [], seq := 0, imageHash := [], checkOk := true }

/-- The life counters (R444). -/
structure Life where
  boots : Nat
  energyUj : Nat
  trips : Nat
  warnings : Nat
  tripLastHour : Bool
  fallbackBoots : Nat
  /-- µs with a thermal limit below 64 since the last record of kind 0 (Table 14.10) -/
  throttleUs : Nat
  /-- ns that each matrix engine has been busy since then (Table 14.10) -/
  busyNs : List Nat
  /-- counts that stood at the last records: corrected sectors by MCH, rows remapped and blocks retired by MCG -/
  ceBase : List Nat
  rowBase : List Nat
deriving DecidableEq, Repr

def Life.empty : Life :=
  { boots := 0, energyUj := 0, trips := 0, warnings := 0, tripLastHour := false, fallbackBoots := 0, throttleUs := 0, busyNs := [], ceBase := [], rowBase := [] }

/-- One MCG's mirrored state (R439). -/
structure McgSnap where
  remaps : List Remap
  retired : List Nat
  degraded : Bool
deriving DecidableEq, Repr

/-- The newest valid snapshot of each section of the mirror (R439), and when it was written (in powered seconds). -/
structure Mirror where
  overlay : Option Overlay
  histories : Tab History
  mcgs : Tab McgSnap
  erases : List Nat
  life : Option (Life × Nat)
  stamps : List (Section × Nat)
  seq : Nat
deriving DecidableEq, Repr

/-- The boot flash (Table 14.1). -/
structure Flash where
  /-- the boot header: the setup record of R422, and the vendor's public key -/
  setup : List Byte
  vendorKey : List Byte
  fwA : FwSlot
  fwB : FwSlot
  cfgA : CfgSlot
  cfgB : CfgSlot
  log : Tab (List Byte)
  mirror : Mirror
  erases : Tab Nat
deriving DecidableEq, Repr

/-- What state the whole device is in, beyond PWR_STATE (Table 12.3, R427, R397). -/
inductive Mode
  | off | reset | warmReset | bootFailed | running | midnight | tripped
deriving DecidableEq, Repr

/-- What a partition-scoped window shows of power and temperature: values as of the last 10 ms boundary (R420). -/
structure Coarse where
  /-- boundaries passed -/
  at10 : Nat
  /-- TEL_E_PARTp and the power of each partition in watts -/
  energy : List Nat
  power : List Nat
  temps : List Nat
  tempMax : Word
  issue : Word
deriving DecidableEq, Repr

def Coarse.empty : Coarse := { at10 := 0, energy := [], power := [], temps := [], tempMax := 0, issue := 0 }

/-- The always-on controller, the pins and the telemetry the registers do not show. -/
structure Aoc where
  mode : Mode
  life : Life
  overlay : Overlay
  overlayKept : Bool
  overlayDirty : Bool
  logNext : Nat
  pgHigh : Bool
  brakeLow : Bool
  thermTripLow : Bool
  /-- WARM_N is low -/
  warmLow : Bool
  alertMask : Byte
  alerts : Byte
  alertReleased : Bool
  tripSincePorst : Bool
  /-- control steps with the 10 ms average above the cap at limit 1 (R387) -/
  overCap : Nat
  /-- LO/HI latches: queue pair, HI register, held half (R468) -/
  latches : List (Nat × Reg × Word)
  coarse : Coarse
  /-- trained values of the LPDDR5X channels, by channel (R273) -/
  trained : Tab Nat
deriving DecidableEq, Repr

def Aoc.empty : Aoc :=
  { mode := .reset, life := Life.empty, overlay := Overlay.empty, overlayKept := false, overlayDirty := false, logNext := 0,
    pgHigh := true, brakeLow := false, thermTripLow := false, warmLow := false, alertMask := 0x3F, alerts := 0, alertReleased := false,
    tripSincePorst := false, overCap := 0,
    latches := [], coarse := Coarse.empty, trained := [] }

/-- The test access port (R499). -/
inductive TapInstr | extest | idcode | sample | clamp | highz | bypass
deriving DecidableEq, Repr

/-- The boundary register: cells that hold 1 (10,830 cells, nearest TDO first); what EXTEST, CLAMP and HIGHZ do to the pins. -/
structure Tap where
  instr : TapInstr
  cells : List Bool
  driving : Bool
  floating : Bool
deriving DecidableEq, Repr

/-! ### The machine -/

/-- The counters that time alone moves. -/
structure Clock where
  /-- the model's own: how many free values have been taken (the argument of the bodyless constants of `Config`) -/
  freeIdx : Nat
  /-- the 64-bit fclk counter (R476) -/
  fclk : Nat
  /-- UTC seconds and whether software has set them since VDD_AON came up (R443) -/
  calendar : Nat
  calValid : Bool
  /-- powered seconds (R444) -/
  powered : Nat
deriving DecidableEq, Repr

/-- Everything the spec gives the block, the queue of waiting commands, and the model's own wire record. -/
structure State where
  pending : List Instr
  clock : Clock
  /-- the model's own: messages put on the wires, oldest first -/
  tx : List Out
  regs : List (Reg × Word)
  /-- span memory: canonical list of nonzero bytes by span address -/
  mem : Tab Byte
  /-- 32-byte words of span memory that read as poisoned, rising -/
  poison : List Nat
  /-- errors that words of the central store hold, by 32-byte word of the span (R285) -/
  upsets : Tab Errs
  /-- errors that sectors of T1 hold, by page × 1024 + sector of the home copy as it is stored (R281) -/
  flips : Tab Errs
  pages : Tab Page
  fills : List Fill
  accessNo : Nat
  lentPages : Tab LentPage
  reclaims : List ReclaimOut
  lendPairs : Tab LendPair
  streams : Tab StreamSt
  /-- mapping commands that run -/
  spnRuns : Tab SpnRun
  xlat : Xlat
  mapped : Tab Nat
  /-- granules at the bottom of a lending pool that a reclaim has given back to the partition (R258) -/
  poolCut : Tab Nat
  mcgs : Tab Mcg
  err : ErrSt
  eps : Tab Ep
  hps : Tab Hp
  qps : Tab Qp
  requests : List Request
  rde : Rde
  jobs : Tab Job
  sqs : Tab Sq
  engs : Tab Eng
  ves : Tab Ve
  /-- job-table rings: bytes of ring r of partition p at p·2^20 + r·2^16 + offset -/
  rings : Tab Byte
  layerAcc : Tab LayerAcc
  stashes : Tab Stash
  histories : Tab History
  /-- the model's own: what the bytes of each save area that this device has written stand for -/
  saves : List (List Byte × SaveInfo)
  gens : Tab Dword
  cx : Tab CxPart
  /-- reservations under page starvation, oldest first (R230, R231) -/
  stalled : List Stalled
  sec : Sec
  fuses : Fuses
  flash : Flash
  cfg : Option CfgImage
  fw : Option FwImage
  aoc : Aoc
  tap : Tap
deriving DecidableEq, Repr

/-- Why a run of the model stops with a fault: no row of this hardware ends in one. -/
inductive Fault
  /-- raised by nothing: every stop of the spec is a next state of the block (safe) -/
  | none
deriving DecidableEq, Repr

/-- Why a command is refused. -/
inductive Refusal
  /-- raised by `exec` for a command of the table whose meaning is not modelled (safe) -/
  | notModelled (mnemonic : String)
deriving DecidableEq, Repr

/-- Right after power is applied, PORST_N low: every register at its reset column (R472), every store empty, flash erased
(R424), the fuses of an SPA8800 with eight engines (log entries 1 and 2). -/
def State.reset : State where
  pending := []
  clock := { freeIdx := 0, fclk := 0, calendar := 0, calValid := false, powered := 0 }
  tx := []
  regs := []
  mem := []
  poison := []
  upsets := []
  flips := []
  pages := []
  fills := []
  accessNo := 0
  lentPages := []
  reclaims := []
  lendPairs := []
  streams := []
  spnRuns := []
  xlat := { entries := [], tops := [] }
  mapped := []
  poolCut := []
  mcgs := []
  err := { banks := [], seq := 0, haltSeq := 0, snapshot := none, csMap := [], csSpares := [], csCe := [] }
  eps := []
  hps := []
  qps := []
  requests := []
  rde := { colls := [], early := [], gens := [], live := [], lostSeen := [], barriers := [], assigned := [], unfilled := [], aborts := [],
           declared := [], groupStep := [], groupAtt := [], evtSeq := 1, pairStep := 0, pairOf := 0, pairGot := [] }
  jobs := []
  sqs := []
  engs := []
  ves := []
  rings := []
  layerAcc := []
  stashes := []
  histories := []
  saves := []
  gens := []
  cx := []
  stalled := []
  sec := Sec.empty
  fuses := { mePresent := 0xFF, grade := 0, serial := [], vendorHash := [], deviceSeed := [], certSig := [] }
  flash := { setup := [], vendorKey := [], fwA := { state := .erased, generation := 0, image := none },
             fwB := { state := .erased, generation := 0, image := none },
             cfgA := { state := .erased, generation := 0, image := none },
             cfgB := { state := .erased, generation := 0, image := none }, log := [],
             mirror := { overlay := none, histories := [], mcgs := [], erases := [], life := none, stamps := [], seq := 0 },
             erases := [] }
  cfg := none
  fw := none
  aoc := Aoc.empty
  tap := { instr := .idcode, cells := [], driving := false, floating := false }

end Sys2Proof.Machine
end

