-- ==== Sys2Proof/Machine/Ops.lean ====
section
/-! DEFINITION. The named operations every meaning is written in: sparse stores, bytes, registers and their fields, free
values and time, the SMBus alert, and the writing of error records (R450 to R454). -/
namespace Sys2Proof.Machine

/-- What a command answers. -/
abbrev Res := Host.Outcome State Fault Refusal

/-! ### Sparse stores -/

/-- The value under key `i`; `d` where none is listed. -/
def tabGet {α : Type} (d : α) : Tab α → Nat → α
  | [], _ => d
  | (k, v) :: t, i => if i = k then v else tabGet d t i

/-- The listed value under key `i`. -/
def tabFind {α : Type} : Tab α → Nat → Option α
  | [], _ => none
  | (k, v) :: t, i => if i = k then some v else tabFind t i

/-- `t` with `v` under key `i`, keys kept rising. -/
def tabPut {α : Type} : Tab α → Nat → α → Tab α
  | [], i, v => [(i, v)]
  | (k, w) :: t, i, v =>
    if i < k then (i, v) :: (k, w) :: t else if i = k then (i, v) :: t else (k, w) :: tabPut t i v

/-- `t` with nothing under key `i`. -/
def tabDel {α : Type} (t : Tab α) (i : Nat) : Tab α := t.filter fun p => p.1 != i

/-- Byte memory: an unlisted address reads 0 (R254, R271, Table 14.2 step 6), and no listed byte is 0. -/
def memGet (m : Tab Byte) (a : Nat) : Byte := tabGet 0 m a

/-- `m` with byte `b` at `a`, in canonical form. -/
def memPut (m : Tab Byte) (a : Nat) (b : Byte) : Tab Byte :=
  if b = 0 then tabDel m a else tabPut m a b

/-- The canonical form: keys strictly rising, no byte 0. -/
def Memory.wf : Tab Byte → Bool
  | [] => true
  | [(_, b)] => b != 0
  | (k, b) :: (k', b') :: t => b != 0 && decide (k < k') && Memory.wf ((k', b') :: t)

/-- `n` bytes from `a`. -/
def memBytes (m : Tab Byte) : Nat → Nat → List Byte
  | _, 0 => []
  | a, n + 1 => memGet m a :: memBytes m (a + 1) n

/-- `m` with the bytes `bs` from `a` on. -/
def memPutAll (m : Tab Byte) (a : Nat) : List Byte → Tab Byte
  | [] => m
  | b :: bs => memPutAll (memPut m a b) (a + 1) bs

/-! ### Bytes and bits -/

/-- The value of little-endian bytes (R9). -/
def leNat : List Byte → Nat
  | [] => 0
  | b :: bs => b.toNat + 256 * leNat bs

/-- `n` little-endian bytes of `v`. -/
def leBytes : Nat → Nat → List Byte
  | 0, _ => []
  | n + 1, v => BitVec.ofNat 8 v :: leBytes n (v / 256)

/-- Bytes `o` to `o + n − 1` of a structure, as a number. -/
def leAt (bs : List Byte) (o n : Nat) : Nat := leNat ((bs.drop o).take n)

/-- `bs` cut or filled with zeros to `n` bytes. -/
def padTo (n : Nat) (bs : List Byte) : List Byte := bs.take n ++ List.replicate (n - bs.length) 0

/-- Bits `lo` to `lo + w − 1` of a number. -/
def bitsAt (v lo w : Nat) : Nat := v / 2 ^ lo % 2 ^ w

/-- Bit `i` of a number. -/
def bitAt (v i : Nat) : Bool := v / 2 ^ i % 2 == 1

/-- The signed value of the low `w` bits of a number. -/
def signedOf (w v : Nat) : Int := if v % 2 ^ w < 2 ^ (w - 1) then (v % 2 ^ w : Nat) else (v % 2 ^ w : Nat) - 2 ^ w

/-- An integer as a `w`-bit number. -/
def unsignedOf (w : Nat) (i : Int) : Nat := (i % (2 ^ w : Nat)).toNat

def boolNat (b : Bool) : Nat := if b then 1 else 0

/-- ⌈a / b⌉. -/
def ceilDiv (a b : Nat) : Nat := (a + b - 1) / b

/-- Element `i` of a list, replaced; the list is filled with `d` up to it. -/
def listPut {α : Type} (d : α) : List α → Nat → α → List α
  | [], 0, v => [v]
  | [], i + 1, v => d :: listPut d [] i v
  | _ :: t, 0, v => v :: t
  | x :: t, i + 1, v => x :: listPut d t i v

/-- Element `i` of a list of numbers, or 0. -/
def natAt (l : List Nat) (i : Nat) : Nat := l.getD i 0

/-! ### Registers -/

/-- The stored word of a register: its reset column where nothing has been stored. -/
def regGet : List (Reg × Word) → Reg → Word
  | [], r => r.resetWord
  | (k, w) :: t, r => if r = k then w else regGet t r

/-- `l` with word `w` stored for register `r`. -/
def regPut : List (Reg × Word) → Reg → Word → List (Reg × Word)
  | [], r, w => [(r, w)]
  | (k, v) :: t, r, w => if r = k then (k, w) :: t else (k, v) :: regPut t r w

/-- The stored word of a register. -/
def State.reg (s : State) (r : Reg) : Word := regGet s.regs r

def State.setReg (s : State) (r : Reg) (w : Word) : State := { s with regs := regPut s.regs r w }

/-- Bits `lo` to `lo + n − 1` of a word. -/
def wordField (w : Word) (lo n : Nat) : Nat := w.toNat / 2 ^ lo % 2 ^ n

/-- `w` with `v` in bits `lo` to `lo + n − 1`. -/
def wordSetField (w : Word) (lo n v : Nat) : Word :=
  BitVec.ofNat 32 (w.toNat % 2 ^ lo + v % 2 ^ n * 2 ^ lo + w.toNat / 2 ^ (lo + n) * 2 ^ (lo + n))

/-- The value of a register field. -/
def State.fld (s : State) (f : Fld) : Nat := wordField (s.reg f.reg) f.lo f.width

/-- `s` with `v` in a register field. -/
def State.setFld (s : State) (f : Fld) (v : Nat) : State :=
  s.setReg f.reg (wordSetField (s.reg f.reg) f.lo f.width v)

/-- A field of one bit is set. -/
def State.on (s : State) (f : Fld) : Bool := s.fld f != 0

/-- `n` added to a counter field that wraps. -/
def State.bump (s : State) (f : Fld) (n : Nat := 1) : State := s.setFld f (s.fld f + n)

/-- `n` added to a 64-bit counter held as a LO/HI pair (R73). -/
def State.bump64 (s : State) (lo hi : Reg) (n : Nat) : State :=
  let v := (s.reg lo).toNat + (s.reg hi).toNat * 2 ^ 32 + n
  (s.setReg lo (BitVec.ofNat 32 v)).setReg hi (BitVec.ofNat 32 (v / 2 ^ 32))

/-- The value of a LO/HI pair. -/
def State.pair (s : State) (lo hi : Reg) : Nat := (s.reg lo).toNat + (s.reg hi).toNat * 2 ^ 32

/-! ### Units -/

def State.job (s : State) (k : Nat) : Option Job := tabFind s.jobs k
def State.setJob (s : State) (k : Nat) (j : Job) : State := { s with jobs := tabPut s.jobs k j }
def State.sq (s : State) (c : Nat) : Sq := tabGet Sq.empty s.sqs c
def State.setSq (s : State) (c : Nat) (q : Sq) : State := { s with sqs := tabPut s.sqs c q }
def State.eng (s : State) (e : Nat) : Eng := tabGet Eng.empty s.engs e
def State.setEng (s : State) (e : Nat) (x : Eng) : State := { s with engs := tabPut s.engs e x }
def State.ve (s : State) (c : Nat) : Ve := tabGet Ve.empty s.ves c
def State.setVe (s : State) (c : Nat) (x : Ve) : State := { s with ves := tabPut s.ves c x }
def State.ep (s : State) (e : Nat) : Ep := tabGet Ep.empty s.eps e
def State.setEp (s : State) (e : Nat) (x : Ep) : State := { s with eps := tabPut s.eps e x }
def State.hp (s : State) (h : Nat) : Hp := tabGet Hp.empty s.hps h
def State.setHp (s : State) (h : Nat) (x : Hp) : State := { s with hps := tabPut s.hps h x }
def State.qp (s : State) (q : Nat) : Qp := tabGet Qp.empty s.qps q
def State.setQp (s : State) (q : Nat) (x : Qp) : State := { s with qps := tabPut s.qps q x }
def State.mcg (s : State) (g : Nat) : Mcg := tabGet Mcg.empty s.mcgs g
def State.setMcg (s : State) (g : Nat) (x : Mcg) : State := { s with mcgs := tabPut s.mcgs g x }
def State.page (s : State) (n : Nat) : Page := tabGet Page.empty s.pages n
def State.setPage (s : State) (n : Nat) (x : Page) : State := { s with pages := tabPut s.pages n x }
def State.cxp (s : State) (p : Nat) : CxPart := tabGet CxPart.empty s.cx p
def State.setCxp (s : State) (p : Nat) (x : CxPart) : State := { s with cx := tabPut s.cx p x }

/-- A message put on a wire. -/
def State.send (s : State) (o : Out) : State := { s with tx := s.tx ++ [o] }

/-! ### Frames to hosts (R347, R350, R359) -/

def State.hostCfg (s : State) (h : Nat) : Option HostCfg := s.cfg.bind fun c => c.hosts[h]?

/-- An IPv4 address in IPv4-mapped form. -/
def mapped4 (ip : Nat) : Nat := 0xFFFF * 2 ^ 32 + ip

/-- A queue pair's destination GID: word 0 first, each word lowest byte first (log entry 15). -/
def State.dgid (s : State) (q : Nat) : Nat :=
  (List.range 4).foldl (fun v w => (List.range 4).foldl (fun u i => u * 256 + (s.reg (.qpDgid q w)).toNat / 2 ^ (8 * i) % 256) v) 0

/-- The next hop toward an address: the address itself on the port's own links, else the default gateway (R349). -/
def hostHop (c : HostCfg) (g : Nat) : Nat :=
  let near (n a b p : Nat) : Bool := a / 2 ^ (n - min n p) == b / 2 ^ (n - min n p)
  if g / 2 ^ 32 = 0xFFFF then
    if near 32 (g % 2 ^ 32) c.ipv4 c.prefix4 then g else mapped4 c.gw4
  else if g / 2 ^ 118 = 0x3FA || near 128 g c.ipv6 c.prefix6 then g else c.gw6

/-- A frame may leave: its priority is not paused, its next hop is known. -/
def Hp.mayGo (x : Hp) (m : HostTx) : Bool :=
  !x.paused.toNat.testBit m.prio && (match m.hop with | none => true | some a => x.neigh.any fun n => n.1 == a)

/-- Frames that may leave do, in order. -/
def flushHost (h : Nat) (s : State) : State :=
  let x := s.hp h
  let s := s.setHp h { x with txq := x.txq.filter fun m => !x.mayGo m }
  (x.txq.filter x.mayGo).foldl (fun t m => t.send m.msg) s

/-- A frame toward a host: lost where the link is down, held while it may not leave. -/
def State.sendHost (s : State) (h prio : Nat) (hop : Option Nat) (o : Out) : State :=
  if !s.on (F.hptStatusLinkUp h) then s
  else
    let x := s.hp h
    flushHost h (s.setHp h { x with txq := x.txq ++ [{ prio := prio, hop := hop, msg := o }] })

/-- A request for the MAC address of a next hop, while it is unknown (R350). -/
def askHop (h a : Nat) (s : State) : State :=
  let x := s.hp h
  if (x.neigh.any fun n => n.1 == a) || x.resolving.contains a then s
  else (s.setHp h { x with resolving := x.resolving ++ [a] }).sendHost h 0 none (.arpAsk h a)

/-- The header fields of a queue pair's packets (R349, R351, R360). -/
def State.roceHead (s : State) (q : Nat) : RoceHead :=
  { dest := s.fld (F.qpDestDestQpn q), dgid := s.dgid q, gidIdx := s.fld (F.qpSportGidIdx q), sport := s.fld (F.qpSportUdpSport q)
    dscp := s.fld (F.qpRetryDscp q), ect := s.on (F.hptPfcEcnEn (s.fld (F.qpPartPort q))) }

/-- A RoCE packet of a queue pair, at the RoCE priority. -/
def State.sendQp (s : State) (q : Nat) (r : Roce) : State :=
  let h := s.fld (F.qpPartPort q)
  match s.hostCfg h with
  | some c => let a := hostHop c (s.dgid q); (askHop h a s).sendHost h (s.fld (F.hptPfcPcp h)) (some a) (.roce (s.roceHead q) r)
  | none => s

/-! ### The device's identity (R408, R409) -/

/-- The device identity key pair: public, private (R408). -/
def State.idKeys (s : State) : List Byte × List Byte := Config.dsaKey s.fuses.deviceSeed

/-- The device identity certificate of Table 13.2, signed by the vendor at manufacture. -/
def State.certificate (s : State) : List Byte :=
  leBytes 4 0x53504943 ++ leBytes 2 1 ++ leBytes 1 s.fuses.grade ++ leBytes 1 1 ++ padTo 16 s.fuses.serial ++ padTo 1312 s.idKeys.1
  ++ padTo 2420 s.fuses.certSig

/-! ### Free values and time -/

/-- `s` with the next free value still to take. -/
def State.spend (s : State) : State := { s with clock := { s.clock with freeIdx := s.clock.freeIdx + 1 } }

/-- A free choice below `n` (0 where `n` is 0). -/
def State.pick (s : State) (n : Nat) : Nat := Config.pick s.clock.freeIdx % n

/-- Whether fclk advances: in Noon, in Dusk and in the halt state (R476). -/
def State.fclkRuns (s : State) : Bool := s.aoc.mode == .running

/-- Free time passes before the act: fclk cycles while fclk runs, calendar and powered seconds while VDD_AON is up. -/
def State.elapse (s : State) : State :=
  { s with clock := { s.clock with
      freeIdx := s.clock.freeIdx + 1
      fclk := if s.fclkRuns then (s.clock.fclk + Config.elapsed s.clock.freeIdx) % 2 ^ 64 else s.clock.fclk
      calendar := if s.aoc.mode == .off then s.clock.calendar else (s.clock.calendar + Config.seconds s.clock.freeIdx) % 2 ^ 64
      powered := if s.aoc.mode == .off then s.clock.powered else s.clock.powered + Config.seconds s.clock.freeIdx } }

/-- What no act changes: the queue of waiting commands, which only `step` moves, and the fuses (R4, R76, R408). -/
def State.keep (s t : State) : State := { t with pending := s.pending, fuses := s.fuses }

/-- The answer of an act that takes place: free time passes, then `f`. -/
def go (s : State) (f : State → State) : Res := .next (s.keep (f s.elapse))

/-- The stamp of a record: the calendar, 0 while it is not valid (R443). -/
def State.utc (s : State) : Nat := if s.clock.calValid then s.clock.calendar else 0

/-- The device runs its blocks: past the reset and start-up of Table 14.2, not in Midnight, not halted (R454). -/
def State.live (s : State) : Bool := s.aoc.mode == .running && !s.on F.errStatusHalted && s.on F.glbBootReady

/-- The device is up, halted or not. -/
def State.up (s : State) : Bool := s.aoc.mode == .running

/-! ### SMBus alert (R489, R490) -/

/-- Sets bit `i` of SMB_ALERT. A cause that recurs while its bit is set asserts nothing again. -/
def State.alert (s : State) (i : Nat) : State :=
  let a := s.aoc
  if a.alerts.toNat.testBit i then s
  else { s with aoc := { a with
    alerts := BitVec.ofNat 8 (a.alerts.toNat ||| 2 ^ i)
    alertReleased := if a.alertMask.toNat.testBit i then false else a.alertReleased } }

/-- The AOC serves SMBus in every state but Off and reset (R488). -/
def State.smbServed (s : State) : Bool := !(s.aoc.mode == .off || s.aoc.mode == .reset || s.aoc.mode == .warmReset)

/-- ALERT_N is low (R490); it is released while the device is held in reset (R487). -/
def State.alertLow (s : State) : Bool :=
  s.smbServed && !s.aoc.alertReleased && (s.aoc.alerts.toNat &&& s.aoc.alertMask.toNat) != 0

/-! ### Error records (R450 to R454) -/

/-- What a block says of an error: its bank, unit, cause and class (Tables 15.2 and 15.4), and what the cause gives. -/
structure ErrArgs where
  bank : Nat
  unit : Nat
  cause : Nat
  cls : Nat
  part : Option Nat := none
  tenant : Nat := 0
  jobTag : Nat := 0
  address : Nat := 0
  detail : Nat := 0
  descTag : Nat := 0
deriving DecidableEq, Repr

/-- A record is in service when it heads its bank, but never a fatal record of start-up (R453). -/
def ErrRec.inService (r : ErrRec) : Bool := !(r.cls == 3 && r.boot)

/-- The record in service of a bank. -/
def bankHead (l : List ErrRec) : Option ErrRec :=
  match l with
  | [] => none
  | r :: _ => if r.inService then some r else none

def State.bank (s : State) (b : Nat) : List ErrRec := tabGet [] s.err.banks b
def State.setBank (s : State) (b : Nat) (l : List ErrRec) : State :=
  { s with err := { s.err with banks := tabPut s.err.banks b l } }

/-- A queue pair enters ERROR. The codes of its cause are not given (log entry 14). -/
def enterError (q : Nat) (s : State) : State :=
  ((s.setFld (F.qpCtrlState q) 4).setFld (F.qpCtrlErr q) (Config.value s.clock.freeIdx)).spend

/-- Every queue pair but the management ones enters ERROR (R454). -/
def qpsToError (s : State) (qs : List Nat) : State :=
  qs.foldl (fun t q => if t.on (F.qpPartMgmt q) || t.fld (F.qpCtrlState q) == 4 then t else enterError q t) s

/-- The queue pairs that the image assigns. -/
def State.qpList (s : State) : List Nat := match s.cfg with | some c => c.qps.map (·.q) | none => []

/-- The device enters the halt state (R454): status and record number, queue pairs, the SMBus alert. -/
def State.halt (s : State) (seq : Nat) : State :=
  if s.on F.errStatusHalted then s
  else
    let s := (s.setFld F.errStatusHalted 1).setReg .errHaltSeq (BitVec.ofNat 32 seq)
    let s := { s with err := { s.err with haltSeq := seq } }
    (qpsToError s s.qpList).alert 3

/-- Some bank holds a fatal record in service. -/
def State.fatalInService (s : State) : Bool :=
  s.err.banks.any fun p => match bankHead p.2 with | some r => r.cls == 3 | none => false

/-- The fatal causes of device scope (Table 15.4): CLOCK_FAULT, SEC_FAULT, LEDGER_BREAK of LDG and RDE. -/
def deviceScope (bank cause : Nat) : Bool :=
  (bank == 1 && cause == 3) || (bank == 3 && cause == 1) || ((bank == 4 || bank == 8) && cause == 1)

/-- The record an error would write (Table 15.3). -/
def newRecord (s : State) (e : ErrArgs) : ErrRec :=
  { seq := s.err.seq + 1, calendar := s.utc, stamp := s.clock.fclk, cls := e.cls, source := e.bank, unit := e.unit,
    cause := e.cause, second := false, preempted := false, partition := e.part, boot := !s.on F.glbBootReady,
    tenant := e.tenant, overflow := 0, jobTag := e.jobTag, address := e.address, detail := e.detail, descTag := e.descTag }

/-- A bank with one more error (R452): the bank, how many records it dropped, whether the record was written. -/
def bankAdd (l : List ErrRec) (r : ErrRec) : List ErrRec × Nat × Bool :=
  match bankHead l with
  | some h =>
    if r.cls ≤ h.cls then
      ({ h with overflow := min (h.overflow + 1) (2 ^ 32 - 1), second := true } :: l.tail, 0, false)
    else
      let m := l.map fun x => { x with preempted := true }
      ((r :: m).take 4, l.length + 1 - 4, true)
  | none => ((r :: l).take 4, l.length + 1 - 4, true)

/-- A block writes an error record (R452, R453). -/
def errRecord (e : ErrArgs) (s : State) : State :=
  let r := newRecord s e
  let already := s.fatalInService
  let (l, dropped, written) := bankAdd (s.bank e.bank) r
  let seq := if written then r.seq else ((s.bank e.bank).head?.map (·.seq)).getD r.seq
  let s := s.setBank e.bank l
  let s := if dropped = 0 then s else s.setFld (F.errBankStatDropped e.bank) (min 255 (s.fld (F.errBankStatDropped e.bank) + dropped))
  let s := if written then { s with err := { s.err with seq := s.err.seq + 1 } } else s
  if e.cls == 3 && !r.boot then
    let s := s.setFld F.errStatusVoid 1
    if deviceScope e.bank e.cause || already then s.halt seq else s
  else s

/-- A write dropped and logged (R434). -/
def dropLogged (addr : Nat) (s : State) : State :=
  errRecord { bank := 0, unit := 0, cause := 1, cls := 0, address := addr }
    ((s.setFld F.glbDropAddrAddr addr).bump F.glbDropCntDrops)

/-! ### Partitions (R400, Table 13.1) -/

/-- The partition's fields as SEC_PART_* hold them. -/
def State.partValid (s : State) (p : Nat) : Bool := s.on (F.secPartCfgValid p)
def State.partCores (s : State) (p : Nat) : Nat := s.fld (F.secPartCfgCores p)
def State.partMcgs (s : State) (p : Nat) : Nat := s.fld (F.secPartMcgMcgs p)
def State.partEps (s : State) (p : Nat) : Nat := s.fld (F.secPartEpPorts p)
def State.partQuarters (s : State) (p : Nat) : Nat := s.fld (F.secPartCfgQuarters p)
def State.guarded (s : State) (p : Nat) : Bool := s.on (F.secPartCfgProtected p)

/-- How many of the low `n` bits of a mask are set. -/
def popCount (mask n : Nat) : Nat := ((List.range n).filter fun i => mask.testBit i).length

/-- The partition that owns a core, an MCG, an Efoladel port. -/
def State.partOfCore (s : State) (c : Nat) : Option Nat :=
  (List.range 4).find? fun p => s.partValid p && (s.partCores p).testBit c
def State.partOfMcg (s : State) (g : Nat) : Option Nat :=
  (List.range 4).find? fun p => s.partValid p && (s.partMcgs p).testBit g
def State.partOfEp (s : State) (e : Nat) : Option Nat :=
  (List.range 4).find? fun p => s.partValid p && (s.partEps p).testBit e

/-- The partition's span range in bytes: base and length (R233). -/
def State.range (s : State) (p : Nat) : Nat × Nat :=
  (s.fld (F.spnRangeBase p) * 2 ^ 28, s.fld (F.spnRangeSizeSize p) * 2 ^ 28)

/-- The slice of a tenant slot: base and length (R404). -/
def State.slice (s : State) (p ts : Nat) : Nat × Nat :=
  let (b, l) := s.range p
  let n := 2 ^ s.fld (F.secPartCfgSlotsLog2 p)
  (b + ts * (l / n), l / n)

/-- Every byte of an access lies in a range. -/
def inRange (r : Nat × Nat) (a n : Nat) : Bool := decide (r.1 ≤ a) && decide (a + n ≤ r.1 + r.2)

/-- The tenant-slot state (R405): 0 EMPTY, 1 RESIDENT, 2 SCRUBBING. -/
def State.tsState (s : State) (p ts : Nat) : Nat := bitsAt (s.reg (.secPartTs p)).toNat (2 * ts) 2
def State.setTsState (s : State) (p ts v : Nat) : State :=
  s.setReg (.secPartTs p) (wordSetField (s.reg (.secPartTs p)) (2 * ts) 2 v)

/-- PARTp is in steps 1 to 6 of a partial reset. -/
def State.resetting (s : State) (p : Nat) : Bool := (s.fld F.secStatusResetting).testBit p

/-- A job runs on core `c`. -/
def State.coreJob (s : State) (c : Nat) : Option Nat := (s.sq c).job

/-- A job runs in partition `p`. -/
def State.partBusy (s : State) (p : Nat) : Bool := s.jobs.any fun j => j.2.part == p
/-- A training job runs in partition `p`. -/
def State.partTraining (s : State) (p : Nat) : Bool := s.jobs.any fun j => j.2.part == p && j.2.record.kind == 1
/-- A job runs on the device. -/
def State.busy (s : State) : Bool := !s.jobs.isEmpty

/-! ### Engines and Dusk (R76, R369, R370) -/

/-- The engine is not fused off (R76). -/
def State.present (s : State) (e : Nat) : Bool := (s.fld F.glbMePresentMePresent).testBit e

/-- The engines that are present. -/
def State.engines (s : State) : List Nat := (List.range 8).filter s.present

/-- An engine domain is in Dusk; one that is fused off counts as being there (PWR_STATE). -/
def State.engDusk (s : State) (e : Nat) : Bool := !s.present e || (s.eng e).dusk

/-- A core control domain, SQc with VEc, is in Dusk. -/
def State.controlDusk (s : State) (c : Nat) : Bool := (s.sq c).dusk && (s.ve c).dusk

/-- COREc is in Dusk: its control domain and its present engines. -/
def State.coreDusk (s : State) (c : Nat) : Bool := s.controlDusk c && s.engDusk (2 * c) && s.engDusk (2 * c + 1)

/-- The device state that PWR_STATE reports while the device is up: 0 Noon, 1 Dusk. -/
def State.powerState (s : State) : Nat := if (List.range 4).all s.coreDusk then 1 else 0

end Sys2Proof.Machine
end

