-- ==== Sys2Proof/Machine/Overlay.lean ====
section
/-! DEFINITION. The retained overlay (R435 to R438): which registers it remembers, and how an accepted write enters it. -/
namespace Sys2Proof.Machine

/-- The retained registers of Table 14.6. -/
def Reg.retained : Reg → Bool
  | .pwrCapWatts | .pwrIdle | .pwrAuto | .pwrDvfs | .pwrBrake | .pwrWake | .pwrAlarm | .pwrMemRetain | .telThermCtrl
  | .spnCsRetain | .spnT1Water _ | .spnWindow _ | .spnStreamLo _ | .spnStreamHi _ | .spnStreamLen _ | .spnPolicy _ _
  | .spnLend _ | .spnLendPeer _ | .jobStashQuota _ | .jobRingCtrl _ _ | .cxeStarveCtrl _ | .engCtrl _ | .mcgScrubCtrl _
  | .mcgRemapCtrl _ | .rdeGroupCtrl | .hptPfc _ | .hptCc _ => true
  | _ => false

/-- The bits of a register that software may write in a class other than S. -/
def Reg.rwMask (r : Reg) : Word :=
  r.fields.foldl (fun v f => if f.acc = .rw ∧ f.cls ≠ .s then wordSetField v f.lo f.width (2 ^ f.width - 1) else v) 0

/-- The value the overlay keeps for a register: its RW fields. -/
def State.retainedValue (s : State) (r : Reg) : Word :=
  let w := s.reg r
  r.fields.foldl (fun v f => if f.acc = .rw then wordSetField v f.lo f.width (wordField w f.lo f.width) else v) 0

/-- Most entries the overlay holds (R436). -/
def overlayMax : Nat := 8176

/-- An accepted write to a retained register enters the overlay (R435, R436). -/
def overlayNote (r : Reg) (s : State) : State :=
  if !r.retained || s.on F.lifOvlCtrlFreeze then s
  else
    let o := s.aoc.overlay
    let a := r.addr
    let known := (tabFind o.entries a).isSome
    if !known && decide (overlayMax ≤ o.entries.length) then
      errRecord { bank := 0, unit := 0, cause := 2, cls := 0, address := a } (s.setFld F.lifOvlStatusFull 1)
    else
      let o := { o with entries := tabPut o.entries a (s.retainedValue r), seq := o.seq + 1 }
      let s := { s with aoc := { s.aoc with overlay := o, overlayDirty := true } }
      (s.setFld F.lifOvlStatusEntries o.entries.length).setFld F.lifOvlStatusPending 1

/-- A software write of one RW field that takes effect: the field and the overlay. -/
def State.accept (s : State) (f : Fld) (v : Nat) : State := overlayNote f.reg (s.setFld f v)

/-- OVERLAY_CLEAR: the overlay is emptied and takes the hash of the running image; no register changes (R438). -/
def overlayClear (s : State) : State :=
  let o := s.aoc.overlay
  let s := { s with aoc := { s.aoc with overlay := { Overlay.empty with seq := o.seq + 1, imageHash := s.sec.mConfig }
                                        overlayDirty := true } }
  (s.setReg .lifOvlStatus (wordSetField 0 15 1 1))

/-- Writes reach the control space: the device runs, and a halted device takes only the writes of R471. -/
def State.writable (s : State) : Bool := s.up && !s.on F.errStatusHalted

/-- A row that is a register write acts while writes are taken; a halted device drops and logs it (R471). -/
def onWrite (r : Reg) (f : State → State) (s : State) : State :=
  if s.writable then f s else if s.up then dropLogged r.addr s else s

def execOverlayClear (s : State) : Res := go s (onWrite .lifOvlCtrl overlayClear)

end Sys2Proof.Machine
end

