-- ==== Sys2Proof/Machine/Power.lean ====
section
/-! DEFINITION. Issue-rate limits, the cap and thermal controllers, energy telemetry, operating points (R383 to R398). -/
namespace Sys2Proof.Machine

/-! ### Issue rate (R386, Table 12.8) -/

/-- The brake floor: 1 to 64, 0 read as 1. -/
def State.brakeFloor (s : State) : Nat := min 64 (max 1 (s.fld F.pwrBrakeFloor))

/-- Eclk in MHz at the clock point in force (Table 12.7). -/
def State.eclkMhz (s : State) : Nat := natAt [700, 600, 450, 300] (s.fld F.pwrDvfsClkPt)

/-- The smallest limit that applies to every engine alike. -/
def State.deviceLimit (s : State) : Nat :=
  min (min (s.fld F.pwrIssueCapN) (s.fld F.pwrIssueThermN))
    (min (if s.on F.pwrIssueDroop then 32 else 64) (if s.on F.pwrIssueBrake then s.brakeFloor else 64))

/-- The smallest limit in force for engine `e`: a running ramp is its own limit. -/
def State.engineLimit (s : State) (e : Nat) : Nat :=
  let r := (s.eng e).ramp
  if r = 0 then s.deviceLimit else min s.deviceLimit r

/-- PWR_ISSUE and every engine's issue_rate show the limits in force. -/
def refreshIssue (s : State) : State :=
  let s := s.setFld F.pwrIssueRate s.deviceLimit
  let s := s.setFld F.pwrIssueRamp (boolNat (s.engines.any fun e => (s.eng e).ramp != 0))
  s.engines.foldl (fun t e => t.setFld (F.engStatusIssueRate e) (t.engineLimit e)) s

/-- Where a start ramp begins for an engine that issues at `rate` (R390): 0 when it would begin at 64, where it ends. -/
def rampFrom (rate : Nat) : Nat := let v := max 8 (ceilDiv rate 8 * 8); if v ≥ 64 then 0 else v

/-- A start ramp of engine `e` begins from the rate it issues at. -/
def startRamp (e rate : Nat) (s : State) : State :=
  refreshIssue (s.setEng e { s.eng e with ramp := rampFrom rate })

/-- A device-wide limit is released: every engine's ramp begins at the rate the limit held it to (R388, R389). -/
def releaseLimit (f : Fld) (s : State) : State :=
  let s := s.engines.foldl (fun t e => t.setEng e { t.eng e with ramp := rampFrom (s.engineLimit e) }) s
  refreshIssue (s.setFld f 0)

/-- The device paces its collective frames: the cap or the thermal limit holds N below 64 (R392). -/
def State.paced (s : State) : Bool := s.fld F.pwrIssueCapN < 64 || s.fld F.pwrIssueThermN < 64

/-- DROOP_TRIP: any detector limits every engine to 32 (R388). -/
def droopTrip (_c : Fin 4) (s : State) : State := if s.up then refreshIssue (s.setFld F.pwrIssueDroop 1) else s

/-- DROOP_RELEASE: 4,096 eclk after the last trip the limit is released through the start ramp. -/
def droopRelease (s : State) : State := if s.up && s.on F.pwrIssueDroop then releaseLimit F.pwrIssueDroop s else s

/-- PWR_BRAKE_N falls (R389): the level is remembered in every state. -/
def pwrBrakeAssert (s : State) : State :=
  let s := { s with aoc := { s.aoc with brakeLow := true } }
  if s.up then refreshIssue (s.setFld F.pwrIssueBrake 1) else s

/-- PWR_BRAKE_N rises: a ramp begins from the floor. -/
def pwrBrakeRelease (s : State) : State :=
  let s := { s with aoc := { s.aoc with brakeLow := false } }
  if s.up && s.on F.pwrIssueBrake then releaseLimit F.pwrIssueBrake s else s

/-- RAMP_STEP: 512 eclk on, a running ramp rises by 8 and ends at 64 (R390). -/
def rampStep (e : Nat) (s : State) : State :=
  let x := s.eng e
  if s.up && x.ramp != 0 then
    refreshIssue (s.setEng e { x with ramp := if x.ramp + 8 ≥ 64 then 0 else x.ramp + 8 })
  else s

/-! ### Coarsened telemetry (R420) -/

/-- The words and counts that a partition's own window shows only at 10 ms boundaries of the fclk counter are taken over when time
has passed one. -/
def coarsen (s : State) : State :=
  let c := s.aoc.coarse
  let k := s.clock.fclk / 14000000
  if k ≤ c.at10 then s
  else
    let e := (List.range 4).map fun p => s.pair (.telEPartLo p) (.telEPartHi p)
    { s with aoc := { s.aoc with coarse := {
        at10 := k, energy := e, power := (List.range 4).map fun p => (natAt e p - natAt c.energy p) / (k - c.at10) / 10000
        temps := (List.range 80).map fun n => s.fld (F.telTempTemp n), tempMax := s.reg .telTempMax, issue := s.reg .pwrIssue } } }

/-! ### The power cap (R387, R392) -/

/-- The cap in watts: a value outside 350 to 1,600 is read as the nearer limit. -/
def State.cap (s : State) : Nat := min 1600 (max 350 (s.fld F.pwrCapWattsWatts))

/-- The cap controller's next limit. -/
def capNext (n cap avg1 : Nat) : Nat :=
  if cap * 1000 < avg1 then max 1 (n - 4) else if avg1 < cap * 980 then min 64 (n + 1) else n

/-- CAP_STEP: 100 µs of the controller; cap_unmet stands while the power stays above the cap (log entry 133). -/
def capStep (p : PowerSample) (s : State) : State :=
  if !s.up then s
  else
    let s := if s.paced then s.bump64 .pwrThrUsLo .pwrThrUsHi 100 else s
    let n := s.fld F.pwrIssueCapN
    let above := n == 1 && decide (s.cap * 1000 < p.avg10)
    let k := if above then s.aoc.overCap + 1 else 0
    let s := { s with aoc := { s.aoc with overCap := min k 1001 } }
    let s := if k = 1000 then
        errRecord { bank := 1, unit := 0, cause := 1, cls := 1 } (s.setFld F.pwrIssueCapUnmet 1)
      else if above then s else s.setFld F.pwrIssueCapUnmet 0
    refreshIssue (s.setFld F.pwrIssueCapN (capNext n s.cap p.avg1))

/-! ### Thermal control (R395, R396, Table 12.9) -/

/-- The hottest of the readings (quarter degrees, signed 12 bits) with its sensor: the lowest sensor on a tie. -/
def hottest (temps : List Nat) : Nat × Nat :=
  (temps.zipIdx.foldl (fun (b : Option (Nat × Nat)) x => match b with
    | none => some x
    | some y => if signedOf 12 y.1 < signedOf 12 x.1 then some x else b) none).getD (0, 0)

/-- The throttle threshold in degrees: a value above 105 is read as 105. -/
def State.throttleC (s : State) : Nat := min 105 (s.fld F.telThermCtrlThrC)

/-- The thermal limit changes: PWR_ISSUE, and throttle while it is below 64. -/
def setTherm (n : Nat) (s : State) : State :=
  refreshIssue ((s.setFld F.pwrIssueThermN n).setFld F.telTempMaxThrottle (boolNat (n < 64)))

/-- THERMAL_SAMPLE: the sensors are read, and the hottest one drives warning and throttle. -/
def thermalSample (temps : List Nat) (s : State) : State :=
  if !s.up then s
  else
    let s := (temps.take 80).zipIdx.foldl (fun t x => t.setFld (F.telTempTemp x.2) x.1) s
    let (t, sensor) := hottest (temps.take 80)
    let s := (s.setFld F.telTempMaxTemp t).setFld F.telTempMaxSensor sensor
    let q := signedOf 12 t
    let warn := s.fld F.telThermCtrlWarnC
    let s :=
      if !s.on F.telTempMaxWarn && decide ((warn * 4 : Nat) ≤ q) then
        let s := { s with aoc := { s.aoc with life := { s.aoc.life with warnings := s.aoc.life.warnings + 1 } } }
        errRecord { bank := 2, unit := sensor, cause := 1, cls := 0 } ((s.setFld F.telTempMaxWarn 1).alert 0)
      else if s.on F.telTempMaxWarn && decide (q < ((warn * 4 : Nat) : Int) - 8) then s.setFld F.telTempMaxWarn 0
      else s
    let s := if s.fld F.pwrIssueThermN < 64 then
        { s with aoc := { s.aoc with life := { s.aoc.life with throttleUs := s.aoc.life.throttleUs + 100 } } } else s
    if (s.throttleC * 4 : Nat) ≤ q then setTherm (max 1 (s.fld F.pwrIssueThermN - 4)) s else s

/-- THERMAL_RELEASE: 1 ms below thr_c − 2 °C raises the limit by 1. -/
def thermalRelease (s : State) : State :=
  if s.up && decide (signedOf 12 (s.fld F.telTempMaxTemp) < ((s.throttleC * 4 : Nat) : Int) - 8) then
    setTherm (min 64 (s.fld F.pwrIssueThermN + 1)) s
  else s

/-! ### Energy (R398) -/

/-- Each configured partition's exact share of a rail's energy, as numerators over the second component. -/
def railShares (cores : List Nat) (r : RailEnergy) : List Nat × Nat :=
  let tagSum (x : SharedEnergy) : Nat := x.tags.sum
  let blocks := r.shared.filter fun x => tagSum x != 0
  let den := blocks.foldl (fun d x => d * tagSum x) (max 1 cores.sum)
  let covered := r.owned.sum + (blocks.map (·.uj)).sum
  let rest := r.total - covered
  (cores.zipIdx.map fun (n, p) =>
    natAt r.owned p * den + blocks.foldl (fun a x => a + x.uj * natAt x.tags p * (den / tagSum x)) 0
      + rest * n * (den / max 1 cores.sum), den)

/-- Largest remainders: `left` microjoules go one at a time to the largest fractional parts, the lower partition first. -/
def giveLeft : Nat → List (Nat × Nat) → List (Nat × Nat)
  | 0, l => l
  | k + 1, l =>
    let best := l.foldl (fun m x => max m x.2) 0
    let i := l.findIdx fun x => x.2 == best
    giveLeft k (l.zipIdx.map fun (x, j) => if j = i then (x.1 + 1, 0) else x)

/-- What each partition is charged of one rail: floors, then the microjoules left over. -/
def railCharge (cores : List Nat) (r : RailEnergy) : List Nat :=
  let (ns, den) := railShares cores r
  let floors := ns.map fun n => (n / den, n % den)
  (giveLeft (r.total - (floors.map (·.1)).sum) floors).map (·.1)

/-- The configured partitions with the cores each owns. -/
def State.coreShares (s : State) : List (Nat × Nat) :=
  ((List.range 4).filter s.partValid).map fun p => (p, popCount (s.partCores p) 4)

/-- ENERGY_MEASURE: 1 ms of every rail goes to its counter, the device, the life total and the partitions. -/
def energyMeasure (m : EnergySample) (s : State) : State :=
  if !s.up then s
  else
    let ps := s.coreShares
    let one (t : State) (x : RailEnergy × Nat) : State :=
      let t := t.bump64 (.telERailLo x.2) (.telERailHi x.2) x.1.total
      let t := t.bump64 .telEDevLo .telEDevHi x.1.total
      let t := { t with aoc := { t.aoc with life := { t.aoc.life with energyUj := t.aoc.life.energyUj + x.1.total } } }
      -- what a rail record says of partition p stands at the p-th place of its lists
      let sel (l : List Nat) : List Nat := ps.map fun p => natAt l p.1
      let r := { x.1 with owned := sel x.1.owned, shared := x.1.shared.map fun b => { b with tags := sel b.tags } }
      (ps.zip (railCharge (ps.map (·.2)) r)).foldl (fun u y => u.bump64 (.telEPartLo y.1.1) (.telEPartHi y.1.1) y.2) t
    let s := ((m.rails.take 9).zipIdx).foldl one s
    s.setFld F.telPowerWatts m.watts

/-! ### Operating points (R383 to R385, Table 12.7) -/

/-- The voltage request of a point in millivolts. -/
def pointMv (p : Nat) : Nat := match p with | 0 => 720 | 1 => 660 | 2 => 600 | _ => 550

/-- The request goes to the board: PWR_VREQ_MV and, where it changes, bit 1 of the alert (R385). -/
def requestVoltage (p : Nat) (s : State) : State :=
  if s.fld F.pwrVreqMvMv = pointMv p then s else (s.setFld F.pwrVreqMvMv (pointMv p)).alert 1

/-- CLK_PT_WRITE: taken when v_conf supports the clock and no raise is in progress. Point numbers rise as voltages fall. A write
of the value the field holds is accepted (R433). -/
def clkPtWrite (v : Nat) (s : State) : State :=
  if v != s.fld F.pwrDvfsClkPt && (s.on F.pwrDvfsVBusy || v < s.fld F.pwrDvfsVConf) then s.setFld F.pwrDvfsRefused 1
  else s.accept F.pwrDvfsClkPt v

/-- V_PT_WRITE: taken unless it names a lower voltage than the clock needs; a lower request is confirmed at once. -/
def vPtWrite (v : Nat) (s : State) : State :=
  if v != s.fld F.pwrDvfsVPt && s.fld F.pwrDvfsClkPt < v then s.setFld F.pwrDvfsRefused 1
  else
    let s := requestVoltage v (s.accept F.pwrDvfsVPt v)
    if s.fld F.pwrDvfsVConf ≤ v then (s.setFld F.pwrDvfsVConf v).setFld F.pwrDvfsVBusy 0
    else s.setFld F.pwrDvfsVBusy 1

/-- VOLTAGE_CONFIRM: the sense has read the request for 10 µs. -/
def voltageConfirm (s : State) : State :=
  if s.up && s.on F.pwrDvfsVBusy then
    (s.setFld F.pwrDvfsVConf (s.fld F.pwrDvfsVPt)).setFld F.pwrDvfsVBusy 0
  else s

/-- DVFS_TIMEOUT: 1 ms without confirmation. -/
def dvfsTimeout (s : State) : State :=
  if s.up && s.on F.pwrDvfsVBusy then
    let v := s.fld F.pwrDvfsVConf
    errRecord { bank := 1, unit := 0, cause := 2, cls := 1 }
      (requestVoltage v ((s.setFld F.pwrDvfsVBusy 0).setFld F.pwrDvfsVPt v))
  else s

/-! ### The rows -/

def execDroopTrip (c : Fin 4) (s : State) : Res := go s fun t => droopTrip c (coarsen t)
def execDroopRelease (s : State) : Res := go s fun t => droopRelease (coarsen t)
def execPwrBrakeAssert (s : State) : Res := go s fun t => pwrBrakeAssert (coarsen t)
def execPwrBrakeRelease (s : State) : Res := go s fun t => pwrBrakeRelease (coarsen t)
def execRampStep (e : Fin 8) (s : State) : Res := go s fun t => rampStep e (coarsen t)
def execCapStep (p : PowerSample) (s : State) : Res := go s fun t => capStep p (coarsen t)
def execThermalSample (temps : List Nat) (s : State) : Res := go s fun t => thermalSample temps (coarsen t)
def execThermalRelease (s : State) : Res := go s fun t => thermalRelease (coarsen t)
def execEnergyMeasure (m : EnergySample) (s : State) : Res := go s fun t => energyMeasure m (coarsen t)
def execClkPtWrite (v : Fin 4) (s : State) : Res := go s (onWrite .pwrDvfs (clkPtWrite v))
def execVPtWrite (v : Fin 4) (s : State) : Res := go s (onWrite .pwrDvfs (vPtWrite v))
def execVoltageConfirm (s : State) : Res := go s voltageConfirm
def execDvfsTimeout (s : State) : Res := go s dvfsTimeout

end Sys2Proof.Machine
end

