-- ==== Sys2Proof/Machine/Numbers.lean ====
section
/-! DEFINITION. Formats, exact values, the two rounding modes, the draws, and the enclosures of the approximated functions
(chapter 3, R187, R195). A finite value is an exact rational; nothing is rounded but at a named site. -/
namespace Sys2Proof.Machine

/-! ### Exact values -/

/-- A value a format or a computation holds. A non-finite value carries its origin (R97): `inp` where an operand was not finite. -/
inductive Num
  | nan (inp : Bool)
  | inf (neg inp : Bool)
  /-- a finite value; `nz` marks a zero with a minus sign -/
  | fin (q : Rat) (nz : Bool)
deriving DecidableEq, Repr

def Num.zero : Num := .fin 0 false
def Num.one : Num := .fin 1 false

/-- 2^e. -/
def pow2 (e : Int) : Rat := if 0 ≤ e then ((2 ^ e.toNat : Nat) : Rat) else 1 / ((2 ^ (-e).toNat : Nat) : Rat)

def Num.finite : Num → Bool
  | .fin _ _ => true
  | _ => false

def Num.isNan : Num → Bool
  | .nan _ => true
  | _ => false

/-- The sign bit. -/
def Num.isNeg : Num → Bool
  | .nan _ => false
  | .inf n _ => n
  | .fin q nz => decide (q < 0) || (decide (q = 0) && nz)

/-- The value of a finite number, 0 otherwise. -/
def Num.val : Num → Rat
  | .fin q _ => q
  | _ => 0

/-- Origin of a non-finite operand. -/
def Num.tag : Num → Bool
  | .nan i => i
  | .inf _ i => i
  | .fin _ _ => false

def Num.neg : Num → Num
  | .nan i => .nan i
  | .inf n i => .inf (!n) i
  | .fin q nz => .fin (-q) (decide (q = 0) && !nz)

/-- A magnitude compared with a number of the same kind. -/
def Num.isZero : Num → Bool
  | .fin q _ => decide (q = 0)
  | _ => false

/-- IEEE 754 addition, exact. -/
def Num.add (a b : Num) : Num :=
  match a, b with
  | .nan i, _ => .nan (i || b.tag)
  | _, .nan i => .nan (i || a.tag)
  | .inf n i, .inf m j => if n = m then .inf n (i || j) else .nan (i || j)
  | .inf n i, .fin _ _ => .inf n i
  | .fin _ _, .inf m j => .inf m j
  | .fin p x, .fin q y => .fin (p + q) (decide (p + q = 0) && x && y)

def Num.sub (a b : Num) : Num := a.add b.neg

/-- IEEE 754 multiplication, exact: Inf · 0 is NaN. -/
def Num.mul (a b : Num) : Num :=
  match a, b with
  | .nan i, _ => .nan (i || b.tag)
  | _, .nan i => .nan (i || a.tag)
  | .fin p _, .fin q _ => .fin (p * q) (decide (p * q = 0) && (a.isNeg != b.isNeg))
  | _, _ => if a.isZero || b.isZero then .nan (a.tag || b.tag) else .inf (a.isNeg != b.isNeg) (a.tag || b.tag)

/-- IEEE 754 division, exact. -/
def Num.div (a b : Num) : Num :=
  match a, b with
  | .nan i, _ => .nan (i || b.tag)
  | _, .nan i => .nan (i || a.tag)
  | .inf _ i, .inf _ j => .nan (i || j)
  | .inf _ i, .fin _ _ => .inf (a.isNeg != b.isNeg) i
  | .fin _ _, .inf _ _ => .fin 0 (a.isNeg != b.isNeg)
  | .fin p _, .fin q _ =>
    if q = 0 then (if p = 0 then .nan false else .inf (a.isNeg != b.isNeg) false)
    else .fin (p / q) (decide (p = 0) && (a.isNeg != b.isNeg))

/-- A value times a power of two. -/
def Num.scale (a : Num) (e : Int) : Num := a.mul (.fin (pow2 e) false)

/-- Exact order of two numbers that are not NaN; −0 equals +0. -/
def Num.lt (a b : Num) : Bool :=
  match a, b with
  | .inf true _, .inf true _ => false
  | .inf true _, _ => true
  | _, .inf true _ => false
  | .inf false _, _ => false
  | _, .inf false _ => true
  | .fin p _, .fin q _ => decide (p < q)
  | _, _ => false

def Num.eq (a b : Num) : Bool :=
  match a, b with
  | .inf n _, .inf m _ => n == m
  | .fin p _, .fin q _ => decide (p = q)
  | _, _ => false

/-- Exact sum of a list. -/
def numSum (l : List Num) : Num := match l with | [] => .zero | x :: t => t.foldl Num.add x

/-! ### Formats (Tables 3.1, 3.2, 5.6) -/

/-- Exponent bits, mantissa bits and bias of a format code; MXINT8 is a scaled integer. -/
def fmtShape (c : Nat) : Nat × Nat × Nat :=
  match c with
  | 0 => (8, 7, 127) | 1 => (5, 10, 15) | 2 => (4, 3, 7) | 3 => (5, 2, 15) | 4 => (4, 3, 7) | 5 => (5, 2, 15)
  | 6 => (2, 3, 1) | 7 => (3, 2, 3) | 8 => (2, 1, 1) | _ => (0, 6, 0)

/-- A format that carries E8M0 block scales. -/
def fmtMx (c : Nat) : Bool := decide (4 ≤ c) && decide (c ≤ 9)

/-- Operand class of a format (Table 2.2): elements per cell. -/
def fmtPerCell (c : Nat) : Nat := if c ≤ 1 then 1 else if c = 8 then 4 else 2

/-- Bits one stored element takes (R37). -/
def fmtBits (c : Nat) : Nat := if c ≤ 1 then 16 else if c = 8 then 4 else 8

/-- emax (Table 3.2). -/
def fmtEmax (c : Nat) : Int :=
  match c with | 0 => 127 | 1 => 15 | 2 => 8 | 3 => 15 | 4 => 8 | 5 => 15 | 6 => 2 | 7 => 4 | 8 => 2 | _ => 0

/-- The exponent of the smallest normal value; MXINT8 has one spacing everywhere. -/
def fmtEmin (c : Nat) : Int := if c = 9 then 1 else 1 - ((fmtShape c).2.2 : Int)

/-- The spacing of the smallest values, as a power of two: u = 2^(max(e, emin) − mantissa bits). -/
def fmtMant (c : Nat) : Int := if c = 9 then 7 else (fmtShape c).2.1

/-- Largest finite magnitude. -/
def fmtMax (c : Nat) : Rat :=
  match c with
  | 0 => 255 * pow2 120 | 1 => 65504 | 2 => 448 | 3 => 57344 | 4 => 448 | 5 => 57344 | 6 => 15 / 2 | 7 => 28 | 8 => 6
  | _ => 127 / 64

/-- The value of a stored element, block scale apart (Table 3.5, R81). -/
def decodeElem (c v : Nat) : Num :=
  if c = 9 then .fin ((signedOf 8 v : Int) / 64) false
  else
    let (ew, mw, bias) := fmtShape c
    let e := bitsAt v mw ew
    let m := v % 2 ^ mw
    let neg := bitAt v (ew + mw)
    let special := e = 2 ^ ew - 1
    let sgn (q : Rat) : Num := if neg then .fin (-q) (decide (q = 0)) else .fin q false
    if (c = 0 ∨ c = 1 ∨ c = 3 ∨ c = 5) ∧ special then (if m = 0 then .inf neg true else .nan true)
    else if (c = 2 ∨ c = 4) ∧ special ∧ m = 7 then .nan true
    else if e = 0 then sgn (m * pow2 (1 - bias - mw))
    else sgn ((2 ^ mw + m : Nat) * pow2 ((e : Int) - bias - mw))

/-- A BF16 register or word. -/
def bf (v : Half) : Num := decodeElem 0 v.toNat

/-- The value of an E8M0 scale (R80). -/
def e8m0 (v : Nat) : Num := if v = 255 then .nan true else .fin (pow2 ((v : Int) - 127)) false

/-! ### Rounding (R84) -/

inductive Rm | rne | sr (r : Nat)
deriving DecidableEq, Repr

/-- ⌊log2 x⌋ of a positive rational. -/
def ilog2 (x : Rat) : Int :=
  let k : Int := (Nat.log2 x.num.natAbs : Int) - (Nat.log2 x.den : Int)
  if pow2 k ≤ x then k else k - 1

/-- A positive magnitude to be rounded: its binade, and ⌊x · 2^k⌋ with whether that is exact. -/
structure Mag where
  lg : Int
  part : Int → Nat × Bool

/-- The magnitude of a positive rational. -/
def magOf (x : Rat) : Mag :=
  { lg := ilog2 x, part := fun k => let y := x * pow2 k; (y.floor.toNat, decide (y.den = 1)) }

/-- The magnitude of the square root of a positive rational. -/
def magSqrt (x : Rat) : Mag :=
  { lg := (ilog2 x) / 2,
    part := fun k =>
      let y := x * pow2 (2 * k)
      let n := y.floor.toNat
      let r := Nat.sqrt n
      (r, decide (y.den = 1) && r * r == n) }

/-- A magnitude rounded once at spacing 2^max(e, emin)−mant: the result in units of 2^u, and u. -/
def roundMag (mant emin : Int) (x : Mag) (rm : Rm) : Nat × Int :=
  let u := max x.lg emin - mant
  let (t, exact) := x.part (16 - u)
  let lo := t / 65536
  let q := t % 65536
  let up := match rm with
    | .rne => decide (32768 < q) || (q == 32768 && (!exact || lo % 2 == 1))
    | .sr r => decide (r < q)
  (if up then lo + 1 else lo, u)

/-- The bits of a magnitude `s · 2^u` of a format, which holds it exactly. -/
def encodeMag (c : Nat) (neg : Bool) (s : Nat) (u : Int) : Nat :=
  if c = 9 then unsignedOf 8 (if neg then -(s : Int) else s)
  else
    let (ew, mw, bias) := fmtShape c
    let sign := boolNat neg * 2 ^ (ew + mw)
    if s = 0 then sign
    else
      let e : Int := Nat.log2 s + u
      if e < fmtEmin c then sign + s
      else
        -- the significand with its leading bit at place mw
        let m := ((s : Rat) * pow2 (u - e + mw)).floor.toNat
        sign + (e + bias).toNat * 2 ^ mw + (m - 2 ^ mw)

/-- Canonical NaN (Table 3.5). -/
def nanBits (c : Nat) : Nat := match c with | 0 => 0x7FC0 | 1 => 0x7E00 | _ => 0x7F
/-- Infinity; E4M3 has none and writes NaN. -/
def infBits (c : Nat) (neg : Bool) : Nat :=
  match c with
  | 0 => 0x7F80 + boolNat neg * 0x8000 | 1 => 0x7C00 + boolNat neg * 0x8000 | 3 => 0x7C + boolNat neg * 0x80 | _ => 0x7F

/-- A magnitude with its sign, rounded into a format: the bits, or none beyond the largest finite value. -/
def roundMagTo (c : Nat) (neg : Bool) (x : Mag) (rm : Rm) : Option Nat :=
  let (s, u) := roundMag (fmtMant c) (fmtEmin c) x rm
  if fmtMax c < s * pow2 u then none else some (encodeMag c neg s u)

/-- A finite value rounded into a format. -/
def roundFin (c : Nat) (q : Rat) (nz : Bool) (rm : Rm) : Option Nat :=
  if q = 0 then some (encodeMag c nz 0 0) else roundMagTo c (decide (q < 0)) (magOf (if q < 0 then -q else q)) rm

/-- A conversion to BF16, FP16, E4M3 or E5M2 with its overflow mark (R98, Table 3.7). -/
def convert (c : Nat) (x : Num) (rm : Rm) : Nat × Bool :=
  match x with
  | .nan _ => (nanBits c, false)
  | .inf neg inp => (infBits c neg, !inp)
  | .fin q nz => match roundFin c q nz rm with
    | some b => (b, false)
    | none => (infBits c (decide (q < 0)), true)

/-- The value a rounding to BF16 leaves: an overflow is an infinity of compute origin. -/
def toBf (x : Num) (rm : Rm) : Num :=
  match x with
  | .fin q nz => match roundFin 0 q nz rm with
    | some b => decodeElem 0 b
    | none => .inf (decide (q < 0)) false
  | y => y

/-- The function stage's internal rounding: 24-bit significand, RNE, an exponent range wider than BF16 (Table 3.3). -/
def internal (x : Num) : Num :=
  match x with
  | .fin q nz =>
    if q = 0 then .fin 0 nz
    else
      let (s, u) := roundMag 23 (-100000) (magOf (if q < 0 then -q else q)) .rne
      .fin ((if q < 0 then -1 else 1) * (s * pow2 u)) false
  | y => y

/-- The block scale of R99 for a largest magnitude, none when it overflows. -/
def mxScale (c : Nat) (amax : Rat) : Option Nat :=
  if amax = 0 then some 127
  else
    let e := ilog2 amax - fmtEmax c
    if 127 < e then none else some (max e (-127) + 127).toNat

/-- An MX block (R99, R100): scale byte, element bits, overflow. Elements round with their own modes. -/
def mxBlock (c : Nat) (xs : List (Num × Rm)) : Nat × List Nat × Bool :=
  let dead (o : Bool) : Nat × List Nat × Bool := (255, xs.map fun _ => 0, o)
  if xs.any fun x => !x.1.finite then dead (xs.any fun x => match x.1 with | .inf _ inp => !inp | _ => false)
  else
    let amax := xs.foldl (fun m x => let v := x.1.val; let a := if v < 0 then -v else v; if m < a then a else m) 0
    match mxScale c amax with
    | none => dead true
    | some s =>
      -- below 2^−127 times the smallest subnormal the block is written as zeros, each with its sign, and scale 0x00
      if amax ≠ 0 ∧ amax < pow2 (fmtEmin c - fmtMant c - 127) then (0, xs.map fun x => encodeMag c x.1.isNeg 0 0, false) else
      let el (x : Num × Rm) : Nat :=
        match x.1 with
        | .fin q nz =>
          let y := q * pow2 (127 - (s : Int))
          match roundFin c y nz x.2 with
          | some b => b
          | none =>
            -- clamped at the largest magnitude, sign kept
            let m := roundMag (fmtMant c) (fmtEmin c) (magOf (fmtMax c)) .rne
            encodeMag c (decide (y < 0)) m.1 m.2
        | _ => 0
      (s, xs.map el, false)

/-- A sum kept as an 8-bit significand in [1, 2) and a signed 16-bit exponent, rounded once by SR (R58, R195): the pair, and
whether it went beyond the exponent range. -/
def pairOf (x : Num) (r : Nat) : Half × Half × Bool :=
  match x with
  | .nan _ => (0x7FC0, 0, false)
  | .inf neg _ => (if neg then 0xFF80 else 0x7F80, 0, false)
  | .fin q _ =>
    if q = 0 then (0, 0, false)
    else
      let (s, u) := roundMag 7 (-100000000) (magOf (if q < 0 then -q else q)) (.sr r)
      let e : Int := Nat.log2 s + u
      if 32767 < e then (0x7F80, 0, true)
      else if e < -32768 then (0, 0, false)
      else (BitVec.ofNat 16 (encodeMag 0 (decide (q < 0)) s (u - e)), BitVec.ofInt 16 e, false)

/-- The value of such a pair. -/
def pairVal (s e : Half) : Num := (bf s).scale e.toInt

/-! ### Generators and draws (R86 to R90) -/

def mix (z : Dword) : Dword :=
  let z := (z ^^^ (z >>> 30)) * 0xBF58476D1CE4E5B9
  let z := (z ^^^ (z >>> 27)) * 0x94D049BB133111EB
  z ^^^ (z >>> 31)

/-- The state a generator is seeded with (R87). -/
def seedUnit (seed pos unit step : Nat) : Dword :=
  let s := mix (BitVec.ofNat 64 seed + 0x9E3779B97F4A7C15 * BitVec.ofNat 64 (pos + 1))
  let s := mix (s ^^^ (BitVec.ofNat 64 unit <<< 56) ^^^ BitVec.ofNat 64 step)
  if s = 0 then 1 else s

/-- One cycle of a generator. -/
def genStep (s : Dword) : Dword :=
  let s := s ^^^ (s <<< 13)
  let s := s ^^^ (s >>> 7)
  s ^^^ (s <<< 17)

/-- `n` cycles of a generator. -/
def genRun : Nat → Dword → Dword
  | 0, s => s
  | n + 1, s => genRun n (genStep s)

/-- The draw of a site (R87). -/
def genDraw (s : Dword) (site : Nat) : Nat := (mix (s ^^^ BitVec.ofNat 64 site)).toNat % 65536

/-- A unit's draws during one act: the forced draw of R90 if one is set, the state at the start of the act, and the index from which
the free cycle counts of its sites are taken. -/
structure Draws where
  forced : Option Nat
  state : Dword
  idx : Nat
deriving DecidableEq, Repr

/-- The draw at a site in the `k`-th round of the act: the cycle it falls in is free. -/
def Draws.at (d : Draws) (k site : Nat) : Nat :=
  match d.forced with
  | some f => f
  | none => genDraw (genRun (Config.elapsed (d.idx + k)) d.state) site

/-- The draws of a core's unit: 0 to 7 the engines, 8 to 11 the vector engines. -/
def State.draws (s : State) (unit : Nat) : Draws :=
  let c := if unit < 8 then unit / 2 else unit - 8
  { forced := if s.on (F.coreRngCtrlFixedEn c) then some (s.fld (F.coreRngCtrlFixedDraw c)) else none
    state := tabGet 1 s.gens unit, idx := s.clock.freeIdx }

/-- The cycles of an act have passed for a unit's generator, and `n` free values are used up. -/
def State.drawn (s : State) (unit n : Nat) : State :=
  let g := genRun (Config.elapsed s.clock.freeIdx) (tabGet 1 s.gens unit)
  { s with gens := tabPut s.gens unit g, clock := { s.clock with freeIdx := s.clock.freeIdx + n + 1 } }

/-- A generator is seeded as its unit starts the first descriptor of a step (R87). -/
def State.seedGen (s : State) (unit seed step : Nat) : State :=
  { s with gens := tabPut s.gens unit (seedUnit seed (s.fld F.rdeGroupPosition) unit step) }

/-! ### Approximated functions (R55 to R57, R120, R187)

Each is enclosed by rationals; the device's internal value is a free point of the interval its bound allows. The enclosures are
wider than the exact value by less than 2^−60 of it, so that the interval covers the bound's. -/

/-- An interval. -/
structure Iv where
  lo : Rat
  hi : Rat
deriving DecidableEq, Repr

/-- A free point of an interval. -/
def Iv.point (v : Iv) (idx : Nat) : Rat := v.lo + (v.hi - v.lo) * ((Config.within idx % (2 ^ 64 + 1) : Nat) / (2 ^ 64 : Nat))

/-- The interval widened by a fraction of its ends' magnitude, and by an absolute amount. -/
def Iv.rel (v : Iv) (r : Rat) : Iv :=
  let m (x : Rat) : Rat := if x < 0 then -x else x
  { lo := v.lo - m v.lo * r, hi := v.hi + m v.hi * r }
def Iv.abs (v : Iv) (d : Rat) : Iv := { lo := v.lo - d, hi := v.hi + d }

/-- ln 2, log2 e and π in units of 2^−96, rounded down. -/
def ln2Fix : Nat := 54916777467707473351141471128
def log2eFix : Nat := 114302077158074026402637675936
def piFix : Nat := 248902613312231085230521944622
def fixOne : Nat := 2 ^ 96

/-- Σ z^k/k! over the first 40 terms, in units of 2^−96 (z likewise): each term rounded down. -/
def expSeries (z : Nat) : Nat :=
  ((List.range 40).foldl (fun (a : Nat × Nat) k => let t := a.2 * z / fixOne / (k + 1); (a.1 + t, t)) (fixOne, fixOne)).1

/-- 2^t for t in [0, 1), in units of 2^−96. -/
def exp2Fix (t : Nat) : Nat := expSeries (t * ln2Fix / fixOne)

/-- 2^x enclosed, for −300 < x < 300. -/
def exp2Iv (x : Rat) : Iv :=
  let i := x.floor
  let t := ((x - i) * fixOne).floor.toNat
  let v := exp2Fix t
  { lo := ((v : Int) - 256 : Int) / (fixOne : Nat) * pow2 i, hi := ((v : Int) + 256 : Int) / (fixOne : Nat) * pow2 i }

/-- e^x enclosed, for |x| < 200. -/
def expIv (x : Rat) : Iv :=
  let v := exp2Iv (x * ((log2eFix : Nat) / (fixOne : Nat)))
  v.rel (pow2 (-80))

/-- ln of m in [1, 2], by 2·artanh((m − 1)/(m + 1)), in units of 2^−96. -/
def lnFix (m : Rat) : Nat :=
  let y := ((m - 1) / (m + 1) * fixOne).floor.toNat
  let y2 := y * y / fixOne
  2 * ((List.range 40).foldl (fun (a : Nat × Nat) k => (a.1 + a.2 / (2 * k + 1), a.2 * y2 / fixOne)) (0, y)).1

/-- log2 x enclosed, x > 0. -/
def log2Iv (x : Rat) : Iv :=
  let e := ilog2 x
  let l := lnFix (x * pow2 (-e))
  let v : Rat := e + ((l * log2eFix / fixOne : Nat) : Rat) / (fixOne : Nat)
  v |> fun w => { lo := w - pow2 (-88), hi := w + pow2 (-88) }

/-- The square root of x > 0 enclosed. -/
def sqrtIv (x : Rat) : Iv :=
  let k : Int := 80 - ilog2 x / 2
  let n := Nat.sqrt (x * pow2 (2 * k)).floor.toNat
  { lo := n * pow2 (-k), hi := (n + 1 : Nat) * pow2 (-k) }

/-- sin of an angle of z·2^−96 radians, 0 ≤ z ≤ π/2. -/
def sinSeries (z : Nat) : Int :=
  let z2 := z * z / fixOne
  ((List.range 25).foldl (fun (a : Int × Nat) k =>
    (if k % 2 = 0 then a.1 + a.2 else a.1 - a.2, a.2 * z2 / fixOne / ((2 * k + 2) * (2 * k + 3)))) ((0 : Int), z)).1

/-- sin(2π r) enclosed, r in turns. -/
def sinTurns (r : Rat) : Iv :=
  let f := r - r.floor
  -- by symmetry an angle of a quarter turn at most
  let (neg, g) := if 1 / 2 ≤ f then (true, f - 1 / 2) else (false, f)
  let h := if 1 / 4 < g then 1 / 2 - g else g
  let z := (h * 2 * (piFix : Nat)).floor.toNat
  let v : Rat := (sinSeries z : Int) / (fixOne : Nat)
  let w := if neg then -v else v
  { lo := w - pow2 (-85), hi := w + pow2 (-85) }

/-- cos(2π r) enclosed. -/
def cosTurns (r : Rat) : Iv := sinTurns (r + 1 / 4)

/-- 1/(1 + e^−a) enclosed, |a| < 200. -/
def sigIv (a : Rat) : Iv := let e := expIv (-a); { lo := 1 / (1 + e.hi), hi := 1 / (1 + e.lo) }

/-- tanh a enclosed. -/
def tanhIv (a : Rat) : Iv :=
  if 80 < a then { lo := 1 - pow2 (-80), hi := 1 } else if a < -80 then { lo := -1, hi := -1 + pow2 (-80) }
  else
    let e := expIv (2 * a)
    { lo := 1 - 2 / (e.lo + 1), hi := 1 - 2 / (e.hi + 1) }

/-- b^n enclosed for b ≥ 0, by squaring, ends kept to 128 bits below the point. -/
def ivTrim (v : Iv) : Iv :=
  let k := (2 ^ 128 : Nat)
  { lo := (v.lo * k).floor / (k : Rat), hi := ((v.hi * k).floor + 1) / (k : Rat) }

def powIv (b : Iv) : Nat → Nat → Iv
  | 0, _ => { lo := 1, hi := 1 }
  | fuel + 1, n =>
    if n = 0 then { lo := 1, hi := 1 }
    else
      let h := powIv b fuel (n / 2)
      let q := ivTrim { lo := h.lo * h.lo, hi := h.hi * h.hi }
      if n % 2 = 1 then ivTrim { lo := q.lo * b.lo, hi := q.hi * b.hi } else q

/-- BF16 exp2 of a finite argument (R55): within one ulp of the exact value, rounded to nearest even; exact for an integer argument
whose result BF16 holds, and +0 below half the smallest BF16 value (Table 3.6). -/
def exp2Bf (x : Rat) (idx : Nat) : Num :=
  if 200 ≤ x then .inf false false
  else if x ≤ -134 then .zero
  else if x.den = 1 ∧ -133 ≤ x then .fin (pow2 x.floor) false
  else
    let v := exp2Iv x
    let u := pow2 (max x.floor (-126) - 7)
    -- the rounded value of the exact result, moved by a free step of one ulp where the bound allows it
    let near := (toBf (.fin ((v.lo + v.hi) / 2) false) .rne).val
    let cand := [near - u, near, near + u].filter fun y => decide (0 ≤ y) && decide (v.lo - u ≤ y) && decide (y ≤ v.hi + u)
    .fin (cand.getD (Config.within idx % max 1 cand.length) near) false

end Sys2Proof.Machine
end

