-- ==== Sys2Proof/Machine/Hash.lean ====
section
/-! DEFINITION. The checks whose algorithms the spec names: CRC-32C (Table 8.7), CRC-64 (R330), SHA3-256 (FIPS 202; PRESUMED
from the standard, log entry 12), and the sector code over GF(16) (R281 to R283, R285). -/
namespace Sys2Proof.Machine

/-- One byte of a reflected CRC with the reflected polynomial `poly`. -/
def crcByte (poly : Nat) (c : Nat) (b : Byte) : Nat :=
  (List.range 8).foldl (fun x _ => if x % 2 = 1 then (x / 2) ^^^ poly else x / 2) (c ^^^ b.toNat)

/-- CRC-32C: polynomial 0x1EDC_6F41 reflected, initial value and final XOR all ones. -/
def crc32c (bs : List Byte) : Nat := (bs.foldl (crcByte 0x82F63B78) 0xFFFFFFFF) ^^^ 0xFFFFFFFF

/-- The flit check: polynomial 0x42F0_E1EB_A9EA_3693 reflected, initial value and final XOR all ones. -/
def crc64 (bs : List Byte) : Nat := (bs.foldl (crcByte 0xC96C5795D7870F42) 0xFFFFFFFFFFFFFFFF) ^^^ 0xFFFFFFFFFFFFFFFF

/-! ### SHA3-256

The state is one number of 1,600 bits: plane y is its bits 320·y on, lane x of a plane the 64 bits at 64·x. -/

/-- A plane whose lanes have moved up by `k` places, around. -/
def planeTurn (k p : Nat) : Nat := p * 2 ^ (64 * k) % 2 ^ 320 + p / 2 ^ (320 - 64 * k)

/-- Bit 0 of every lane of a plane. -/
def laneOnes : Nat := 1 + 2 ^ 64 + 2 ^ 128 + 2 ^ 192 + 2 ^ 256

/-- Every lane of a plane turned by one bit. -/
def planeStep (p : Nat) : Nat :=
  let top := (p / 2 ^ 63) &&& laneOnes
  (p - top * 2 ^ 63) * 2 + top

/-- Plane `y`. -/
def plane (a y : Nat) : Nat := a / 2 ^ (320 * y) % 2 ^ 320

/-- θ: every plane takes the parities of the columns beside it. -/
def keccakTheta (a : Nat) : Nat :=
  let par := plane a 0 ^^^ plane a 1 ^^^ plane a 2 ^^^ plane a 3 ^^^ plane a 4
  let d := planeTurn 1 par ^^^ planeTurn 4 (planeStep par)
  a ^^^ (d * (1 + 2 ^ 320 + 2 ^ 640 + 2 ^ 960 + 2 ^ 1280))

/-- ρ and π along the walk (x, y) → (y, 2x + 3y) from (1, 0): step `t` turns its lane by (t + 1)(t + 2)/2 and puts it at the next place. -/
def keccakWalk (a : Nat) : Nat → Nat → Nat → Nat → Nat → Nat
  | 0, _, _, _, out => out
  | n + 1, t, x, y, out =>
    let lane := a / 2 ^ (64 * x + 320 * y) % 2 ^ 64
    let r := (t + 1) * (t + 2) / 2 % 64
    let y' := (2 * x + 3 * y) % 5
    keccakWalk a n (t + 1) y y' (out + (lane * 2 ^ r % 2 ^ 64 + lane / 2 ^ (64 - r)) * 2 ^ (64 * y + 320 * y'))

/-- χ on one plane. -/
def keccakChi (p : Nat) : Nat := p ^^^ ((2 ^ 320 - 1 - planeTurn 4 p) &&& planeTurn 3 p)

/-- Seven steps of the register x⁸ + x⁶ + x⁵ + x⁴ + 1: the register, and ι's constant, whose bit 2^j − 1 is the j-th bit out. -/
def keccakIota : Nat → Nat → Nat → Nat → Nat × Nat
  | 0, _, reg, c => (reg, c)
  | n + 1, j, reg, c =>
    let next := if reg < 128 then reg * 2 else (reg * 2 - 256) ^^^ 0x71
    keccakIota n (j + 1) next (c + reg % 2 * 2 ^ (2 ^ j - 1))

/-- `n` rounds, with the register of ι. -/
def keccakRounds : Nat → Nat → Nat → Nat
  | 0, _, a => a
  | n + 1, reg, a =>
    let a := keccakTheta a
    let b := keccakWalk a 24 0 1 0 (a % 2 ^ 64)
    let c := (List.range 5).foldl (fun v y => v + keccakChi (plane b y) * 2 ^ (320 * y)) 0
    let (reg, k) := keccakIota 7 0 reg 0
    keccakRounds n reg (c ^^^ k)

/-- The blocks of 136 bytes but the last are taken in; then the last one, with 0x06 behind the message and the top bit of the block set. -/
def spongeIn : Nat → List Byte → Nat → Nat
  | 0, bs, a => keccakRounds 24 1 (a ^^^ (leNat bs + 6 * 2 ^ (8 * bs.length)) ^^^ 2 ^ 1087)
  | n + 1, bs, a => spongeIn n (bs.drop 136) (keccakRounds 24 1 (a ^^^ leNat (bs.take 136)))

/-- SHA3-256 of a byte string: 32 bytes. -/
def sha3 (bs : List Byte) : List Byte := leBytes 32 (spongeIn (bs.length / 136) bs 0)

/-! ### The sector code -/

/-- Multiplication in GF(16) with x⁴ + x + 1. -/
def gfMul (a b : Nat) : Nat :=
  let p := (List.range 4).foldl (fun x i => if b.testBit i then x ^^^ (a * 2 ^ i) else x) 0
  let p := if p.testBit 6 then p ^^^ (0x13 * 4) else p
  let p := if p.testBit 5 then p ^^^ (0x13 * 2) else p
  if p.testBit 4 then p ^^^ 0x13 else p

/-- Q(a, b) = a² + ab + 8·b². -/
def codeQ (a b : Nat) : Nat := gfMul a a ^^^ gfMul a b ^^^ gfMul 8 (gfMul b b)

/-- The column of a stored symbol (Table 9.6): data 0 to 127, check 128 to 131. -/
def codeCol (j : Nat) : List Nat :=
  if j < 128 then [1, j % 16, 2 + j / 16, codeQ (j % 16) (2 + j / 16)]
  else if j = 128 then [1, 0, 0, 0]
  else if j = 129 then [0, 0, 0, 1]
  else if j = 130 then [1, 1, 0, 1]
  else [1, 0, 1, 8]

/-- The column of address virtual symbol `i` (0 to 6) and, at 7, of the poison symbol. -/
def virtCol (i : Nat) : List Nat := [1, i, 0xA, codeQ i 0xA]

/-- A syndrome plus a symbol value times a column. -/
def synAdd (s : List Nat) (v : Nat) (col : List Nat) : List Nat :=
  (List.range 4).map fun i => natAt s i ^^^ gfMul v (natAt col i)

/-- The column of a position: stored symbols 0 to 131, address symbols 132 to 138, the poison symbol 139. -/
def symCol (i : Nat) : List Nat := if i < 132 then codeCol i else virtCol (i - 132)

/-- The syndrome of symbols at positions. -/
def synOf (errs : List (Nat × Nat)) : List Nat := errs.foldl (fun s p => synAdd s (p.2 % 16) (symCol p.1)) [0, 0, 0, 0]

/-- Nibbles of a number, lowest first. -/
def nibbles : Nat → Nat → List Nat
  | 0, _ => []
  | n + 1, v => v % 16 :: nibbles n (v / 16)

/-- A codeword's symbols by position, but the check symbols (R281, R282, R285): the data, a little-endian value read by nibbles; the
address, seven nibbles of a channel-local index, or six of a word index and its logical bank; the poison symbol. -/
def dataSyms (bs : List Byte) : List (Nat × Nat) := (nibbles (2 * bs.length) (leNat bs)).zipIdx.map fun x => (x.2, x.1)
def addrSyms (idx : Nat) : List (Nat × Nat) := (nibbles 7 idx).zipIdx.map fun x => (132 + x.2, x.1)
def wordSyms (bs : List Byte) (idx poison : Nat) : List (Nat × Nat) := dataSyms bs ++ addrSyms idx ++ [(139, poison)]

/-- The check symbols that make the syndrome of a codeword zero (R282), symbol 128 first. -/
def checkSyms (bs : List Byte) (idx poison : Nat) : List Nat :=
  let t := synOf (wordSyms bs idx poison)
  let c := natAt t 2
  let b := natAt t 1
  [natAt t 0 ^^^ b ^^^ c, natAt t 3 ^^^ b ^^^ gfMul 8 c, b, c]

/-- The 16-bit check word. -/
def checkWord (bs : List Byte) (idx poison : Nat) : Nat := (checkSyms bs idx poison).zipIdx.foldl (fun v x => v + x.1 * 16 ^ x.2) 0

/-- A symbol list with the errors of stored symbols added. -/
def withErrs (l errs : List (Nat × Nat)) : List (Nat × Nat) :=
  l.map fun x => (x.1, errs.foldl (fun v e => if e.1 = x.1 then v ^^^ (e.2 % 16) else v) x.2)

/-- What reading a stored codeword gives (R283): its symbols as they are now, with the poison symbol that was written read as 0. -/
def readSyms (bs : List Byte) (idx poison : Nat) (errs : List (Nat × Nat)) : List (Nat × Nat) :=
  let check := (checkSyms bs idx poison).zipIdx.map fun x => (128 + x.2, x.1)
  withErrs (dataSyms bs ++ check ++ addrSyms idx ++ [(139, 0)]) errs

/-- What decoding makes of a syndrome (Table 9.7). -/
inductive Decoded
  | clean | corrected (symbol value : Nat) | misdirected | poisoned | uncorrectable
deriving DecidableEq, Repr

/-- The outcome of a syndrome, by the columns it is a multiple of: `n` data symbols, 64 of them with six address symbols (R285). -/
def decodeSyn (s : List Nat) (n : Nat := 128) : Decoded :=
  if s = [0, 0, 0, 0] then .clean
  else
    let hit (col : List Nat) : Option Nat := (List.range 16).find? fun e => e != 0 && (synAdd [0, 0, 0, 0] e col) == s
    match ((List.range n) ++ [128, 129, 130, 131]).findSome? fun j => (hit (codeCol j)).map fun e => (j, e) with
    | some (j, e) => .corrected j e
    | none =>
      if ((List.range (if n = 64 then 6 else 7)).any fun i => (hit (virtCol i)).isSome) then .misdirected
      else if (hit (virtCol 7)).isSome then .poisoned
      else .uncorrectable

/-- A codeword read and decoded (R283): the outcome, and the data bytes it delivers, which are what was written unless the errors have
carried one codeword into reach of another. -/
def decodeWord (bs : List Byte) (idx poison : Nat) (errs : List (Nat × Nat)) : Decoded × List Byte :=
  let syms := readSyms bs idx poison errs
  let d := decodeSyn (synOf syms) (2 * bs.length)
  let fixed := match d with
    | .corrected j e => withErrs syms [(j, e)]
    | _ => syms
  (d, leBytes bs.length ((fixed.take (2 * bs.length)).foldr (fun x v => x.2 + 16 * v) 0))

end Sys2Proof.Machine
end

