-- ==== Sys2Proof/Machine/Wafer.lean ====
section
/-! DEFINITION. Wafer stripes (R249 to R252): the deterministic encoder, the packed page, and the decoder. -/
namespace Sys2Proof.Machine

/-- A stripe's stored form: method, exponent base and width, payload bytes (a whole number of sectors). -/
structure Wafered where
  method : Nat
  w : Nat
  b : Nat
  payload : List Byte
deriving DecidableEq, Repr

/-- Bit width of a number. -/
def bitLen (n : Nat) : Nat := if n = 0 then 0 else Nat.log2 n + 1

/-- The exponent-plane layouts of Table 8.9: bytes per element, exponent field's low bit and width. -/
def waferLayout (l : Nat) : Nat × Nat × Nat :=
  if l = 0 then (2, 7, 8) else if l = 1 then (2, 10, 5) else if l = 2 then (1, 3, 4) else (1, 2, 5)

/-- The elements of a stripe under a layout. -/
def stripeElems (l : Nat) (bs : List Byte) : List Nat :=
  let n := (waferLayout l).1
  (List.range (2048 / n)).map fun i => leAt bs (n * i) n

/-- Exponent field and low value (sign above mantissa) of an element. -/
def splitElem (l x : Nat) : Nat × Nat :=
  let (n, lo, ew) := waferLayout l
  (bitsAt x lo ew, bitsAt x (8 * n - 1) 1 * 2 ^ lo + x % 2 ^ lo)

/-- Fields of `w` bits packed little-endian, as a number. -/
def packFields (w : Nat) : List Nat → Nat
  | [] => 0
  | v :: vs => v % 2 ^ w + 2 ^ w * packFields w vs

/-- Sectors that `n` payload bytes take. -/
def sectorsOf (n : Nat) : Nat := ceilDiv n 64

/-- The encoder of R251 on the 2,048 bytes of a stripe: fewest sectors, ties to stored, then to zero-run. -/
def waferEncode (layout : Nat) (bs : List Byte) : Wafered :=
  let words := (List.range 256).map fun i => (bs.drop (8 * i)).take 8
  let live := words.filter fun x => x.any (· != 0)
  let nz := live.length
  let zSect := sectorsOf (32 + 8 * nz)
  let es := (stripeElems layout bs).map (splitElem layout)
  let b := es.foldl (fun m p => min m p.1) 0xFFFF
  let w := bitLen (es.foldl (fun m p => max m p.1) 0 - b)
  let (n, lo, _) := waferLayout layout
  let cnt := 2048 / n
  let eSect := sectorsOf (cnt * (lo + 1) / 8 + cnt * w / 8)
  let zOk := nz ≤ 252 ∧ zSect < 32
  if zOk ∧ zSect ≤ eSect then
    let mask := packFields 1 (words.map fun x => boolNat (x.any (· != 0)))
    { method := 2, w := 0, b := 0, payload := padTo (64 * zSect) (leBytes 32 mask ++ live.flatten) }
  else if eSect < 32 then
    { method := 1, w := w, b := b,
      payload := padTo (64 * eSect)
        (leBytes (cnt * (lo + 1) / 8) (packFields (lo + 1) (es.map (·.2))) ++
         leBytes (cnt * w / 8) (packFields w (es.map fun p => p.1 - b))) }
  else { method := 0, w := 0, b := 0, payload := padTo 2048 bs }

/-- The 2,048 bytes a payload decodes to (R250): e = b + delta, with no wrap. None where an exponent does not fit its field, or the method is
reserved. -/
def waferDecode (layout : Nat) (x : Wafered) : Option (List Byte) :=
  if x.method = 0 then some (padTo 2048 x.payload)
  else if x.method = 2 then
    let mask := leAt x.payload 0 32
    some ((List.range 256).foldl (fun (acc : List Byte × Nat) i =>
      if mask.testBit i then (acc.1 ++ padTo 8 ((x.payload.drop (32 + 8 * acc.2)).take 8), acc.2 + 1)
      else (acc.1 ++ List.replicate 8 0, acc.2)) ([], 0)).1
  else if x.method = 1 then
    let (n, lo, ew) := waferLayout layout
    let cnt := 2048 / n
    let lows := leAt x.payload 0 (cnt * (lo + 1) / 8)
    let exps := leAt x.payload (cnt * (lo + 1) / 8) (cnt * x.w / 8)
    let es := (List.range cnt).map fun i => x.b + bitsAt exps (x.w * i) x.w
    if es.any fun e => decide (2 ^ ew ≤ e) then none
    else some (es.zipIdx.flatMap fun e =>
      let lv := bitsAt lows ((lo + 1) * e.2) (lo + 1)
      leBytes n (bitsAt lv lo 1 * 2 ^ (lo + ew) + e.1 * 2 ^ lo + lv % 2 ^ lo))
  else none

/-- The stripe header (Table 8.7) for a payload at a sector offset. -/
def stripeHeader (layout off : Nat) (x : Wafered) (plain : List Byte) : List Byte :=
  leBytes 8 (x.method + (if x.method = 1 then layout * 4 + x.w * 16 + x.b * 256 else 0)
    + (sectorsOf x.payload.length - 1) * 2 ^ 16 + off * 2 ^ 21 + crc32c plain * 2 ^ 32)

/-- Sectors a page takes when packed, by its 32 stripes: directory and payloads (R249). -/
def packedSectors (layout : Nat) (stripes : List (List Byte)) : Nat :=
  4 + (stripes.map fun x => sectorsOf (waferEncode layout x).payload.length).sum

/-- The packed page: 32 stripe headers, then the payloads. -/
def packPage (layout : Nat) (stripes : List (List Byte)) : List Byte :=
  let xs := stripes.map fun p => (p, waferEncode layout p)
  let (heads, pays, _) := xs.foldl (fun (acc : List Byte × List Byte × Nat) x =>
    (acc.1 ++ stripeHeader layout acc.2.2 x.2 x.1, acc.2.1 ++ x.2.payload, acc.2.2 + sectorsOf x.2.payload.length)) ([], [], 4)
  heads ++ pays

/-- Granules of 4 KiB a packed page takes; none where the page is held plain (16 or more). -/
def packGranules (layout : Nat) (stripes : List (List Byte)) : Option Nat :=
  let g := ceilDiv (packedSectors layout stripes) 64
  if g < 16 then some g else none

/-- Bit s is 1 when stripe s is held with a method other than stored. -/
def waferMapOf (layout : Nat) (stripes : List (List Byte)) : BitVec 32 :=
  BitVec.ofNat 32 (packFields 1 (stripes.map fun x => boolNat ((waferEncode layout x).method != 0)))

end Sys2Proof.Machine
end

