-- ==== Sys2Proof/Machine/Wire.lean ====
section
/-! DEFINITION. What goes on the Efoladel wires: frames (Tables 10.3, 11.5), link messages (Table 11.11), flits (Table 11.2), and the
transmit side of a port: credits, encryption, the replay buffer (R330 to R335, R341); and who is alive (R313, R315). -/
namespace Sys2Proof.Machine

/-! ### Frames as bytes -/

/-- A block-information entry (R302). -/
def blockWord (b : BlockInfo) : Nat :=
  b.scale % 256 + b.agreed % 256 * 2 ^ 8 + boolNat b.saturated * 2 ^ 16 + boolNat b.escalated * 2 ^ 17

def blockInfoOf (v : Nat) : BlockInfo :=
  { scale := bitsAt v 0 8, agreed := bitsAt v 8 8, saturated := bitAt v 16, escalated := bitAt v 17 }

/-- A collective frame (Table 10.3): REDUCE and GATHER carry the array of block information. -/
def collBytes (type : Nat) (f : Frame) : List Byte :=
  leBytes 1 type ++ leBytes 1 f.fmt ++ leBytes 2 (f.job % 4096 + boolNat f.pace * 2 ^ 12 + boolNat f.none * 2 ^ 13)
  ++ leBytes 2 f.bucket ++ leBytes 1 f.n ++ leBytes 1 (f.dim % 4 + boolNat f.prev * 4) ++ leBytes 4 f.blockFirst
  ++ leBytes 2 f.count ++ leBytes 2 (f.src % 4096) ++ leBytes 2 (f.dst % 4096) ++ leBytes 2 f.hops ++ leBytes 4 f.attempt
  ++ leBytes 4 f.step ++ leBytes 4 0
  ++ (if type = 1 ∨ type = 2 then padTo 64 (f.info.flatMap fun b => leBytes 4 (blockWord b)) else []) ++ f.payload

/-- A collective frame read back from its bytes: type and fields. -/
def collOf (bs : List Byte) : Nat × Frame :=
  let type := leAt bs 0 1
  let j := leAt bs 2 2
  let ph := leAt bs 7 1
  let blocks := type == 1 || type == 2
  (type, { fmt := leAt bs 1 1, job := j % 4096, pace := bitAt j 12, none := bitAt j 13, bucket := leAt bs 4 2, n := leAt bs 6 1,
           dim := ph % 4, prev := bitAt ph 2, blockFirst := leAt bs 8 4, count := leAt bs 0xC 2, src := leAt bs 0xE 2 % 4096,
           dst := leAt bs 0x10 2 % 4096, hops := leAt bs 0x12 2, attempt := leAt bs 0x14 4, step := leAt bs 0x18 4,
           info := if blocks then (List.range (min 16 (leAt bs 6 1))).map fun i => blockInfoOf (leAt bs (32 + 4 * i) 4) else [],
           payload := bs.drop (if blocks then 96 else 32) })

/-- A collective frame with nothing in it but what a caller sets. -/
def noFrame : Frame :=
  { fmt := 0, job := 0, pace := false, none := false, bucket := 0, n := 0, dim := 0, prev := false, blockFirst := 0, count := 0,
    src := 0, dst := 0, hops := 0, attempt := 0, step := 0, info := [], payload := [] }

/-- The frame bytes of one lending message (Table 11.5). -/
def lendBytes (type : Nat) (m : LendMsg) : List Byte :=
  leBytes 1 type ++ leBytes 1 (boolNat m.packed + m.part % 8 * 2 + boolNat m.lastPart * 16) ++ leBytes 2 (m.src % 4096)
  ++ leBytes 4 m.seq ++ leBytes 4 m.handle ++ leBytes 4 m.arg ++ m.payload

/-- A lending message read back from its bytes. -/
def lendOf (bs : List Byte) : Nat × LendMsg :=
  let fl := leAt bs 1 1
  (leAt bs 0 1, { packed := bitAt fl 0, part := bitsAt fl 1 3, lastPart := bitAt fl 4, src := leAt bs 2 2 % 4096, seq := leAt bs 4 4,
                  handle := leAt bs 8 4, arg := leAt bs 0xC 4, payload := bs.drop 16 })

/-- The payloads of the LINK flits that carry one link message (Table 11.11). -/
def linkPayloads (type src port : Nat) (body : List Byte) : List (List Byte) :=
  let n := max 1 (ceilDiv body.length 224)
  (List.range n).map fun i =>
    let part := (body.drop (224 * i)).take 224
    leBytes 1 type ++ leBytes 1 1 ++ leBytes 2 (src % 4096) ++ leBytes 1 (port % 16) ++ leBytes 1 i ++ leBytes 1 n ++ leBytes 1 0
    ++ leBytes 2 part.length ++ leBytes 6 0 ++ padTo 224 part

/-! ### Flits (Table 11.2) -/

/-- The header word of a flit. -/
def flitHeader (f : TxFlit) (ackKind ackSeq cvc credits : Nat) : Nat :=
  f.kind + f.vc * 2 ^ 4 + boolNat f.first * 2 ^ 7 + boolNat f.last * 2 ^ 8 + f.bytes * 2 ^ 9 + f.seq % 4096 * 2 ^ 17
  + ackSeq % 4096 * 2 ^ 29 + ackKind * 2 ^ 41 + cvc * 2 ^ 43 + credits * 2 ^ 46 + boolNat f.enc * 2 ^ 54

/-- The 256 bytes of a flit. -/
def flitBytes (f : TxFlit) (ackKind ackSeq cvc credits : Nat) : List Byte :=
  let b := leBytes 8 (flitHeader f ackKind ackSeq cvc credits) ++ padTo 240 f.payload
  b ++ leBytes 8 (crc64 b)

/-- The number an ACK may name: the last accepted flit, but none of an encrypted frame before its tag is verified (R342). -/
def Ep.ackable (x : Ep) : Nat := (x.rxSeq + 4095 - (if x.rxEnc then x.rxFlits else 0)) % 4096

/-- One flit goes out, with the acknowledgement and the credits that are due. -/
def emit (e : Nat) (f : TxFlit) (s : State) : State :=
  let x := s.ep e
  let (ak, aseq) := if x.nakWait then (2, x.rxSeq) else if x.unacked = 0 then (0, 0) else (1, x.ackable)
  let v := ((List.range 8).find? fun v => natAt x.owed v != 0).getD 0
  let n := min 255 (natAt x.owed v)
  let s := s.setEp e { x with unacked := if x.nakWait then x.unacked else 0
                              owed := if n = 0 then x.owed else listPut 0 x.owed v (natAt x.owed v - n)
                              rtx := if n = 0 then x.rtx else listPut 0 x.rtx v (natAt x.rtx v + n) }
  let s := if n = 0 then s else s.bump (F.ldgLinkRtxCredits e) n
  s.send (.flit e (flitBytes f ak aseq v n))

/-- An IDLE flit: it names the next number to be sent. -/
def sendIdle (e : Nat) (s : State) : State :=
  emit e { kind := 0, vc := 0, first := false, last := false, bytes := 0, seq := (s.ep e).txSeq, enc := false, payload := [] } s

/-- A DATA or LINK flit goes out for the first time, and stays in the replay buffer. -/
def sendFlit (e : Nat) (f : TxFlit) (s : State) : State :=
  let x := s.ep e
  let f := { f with seq := x.txSeq }
  emit e f (s.setEp e { x with txSeq := (x.txSeq + 1) % 4096, replay := x.replay ++ [f] })

/-- The nonce of an encrypted frame (R341). -/
def frameNonce (pos port vc ctr : Nat) : List Byte := leBytes 12 (pos % 4096 + port % 16 * 2 ^ 12 + vc % 8 * 2 ^ 16 + ctr % 2 ^ 64 * 2 ^ 32)

/-- Header bytes of a frame that travel in plaintext. -/
def headerLen (vc : Nat) : Nat := if vc = 2 ∨ vc = 3 then 16 else 32

/-- This device's position ID (RDE_GROUP). -/
def State.position (s : State) : Nat := s.fld F.rdeGroupPosition

/-- Every flit of one frame goes out (R331, R333). -/
def sendFrame (e : Nat) (f : TxFrame) (s : State) : State :=
  let x := s.ep e
  let c := natAt x.ctrTx f.vc
  let h := headerLen f.vc
  let wire := if f.enc then
      f.bytes.take h ++ Config.gcmSeal (x.keyTx.getD []) (frameNonce s.position e f.vc c) (f.bytes.take h) (f.bytes.drop h)
    else f.bytes
  let n := max 1 (ceilDiv wire.length 240)
  let s := s.setEp e { x with ctrTx := if f.enc then listPut 0 x.ctrTx f.vc (c + 1) else x.ctrTx
                              sent := listPut 0 x.sent f.vc (natAt x.sent f.vc + n)
                              inflight := x.inflight ++ [((x.txSeq + n - 1) % 4096, f)] }
  let s := (s.bump (F.ldgLinkSentFlits e) n).setFld (F.lnkVcCredHeld e f.vc) (s.fld (F.lnkVcCredHeld e f.vc) - n)
  (List.range n).foldl (fun t i =>
    let p := (wire.drop (240 * i)).take 240
    sendFlit e { kind := 1, vc := f.vc, first := i == 0, last := decide (i + 1 = n), bytes := p.length, seq := 0,
                 enc := f.enc && i == 0, payload := p } t) s

/-- Flits that a frame will take on the wire: an encrypted frame carries a 16-byte tag. -/
def TxFrame.flits (f : TxFrame) : Nat := max 1 (ceilDiv (f.bytes.length + if f.enc then 16 else 0) 240)

/-- A REDUCE or GATHER frame: it leaves 8 credits of VC1 for the others. -/
def TxFrame.bulk (f : TxFrame) : Bool := f.vc == 1 && (leAt f.bytes 0 1 == 1 || leAt f.bytes 0 1 == 2)

/-- The port may start this frame now: up, credits for the whole of it, room in the replay buffer, keys where it is encrypted. -/
def State.mayStart (s : State) (e : Nat) (f : TxFrame) : Bool :=
  let x := s.ep e
  let held := s.fld (F.lnkVcCredHeld e f.vc)
  s.fld (F.lnkStatusState e) == 2 && !s.on F.errStatusHalted && decide (f.flits + (if f.bulk then 8 else 0) ≤ held)
  && decide (x.replay.length + f.flits ≤ 512) && (!f.enc || s.on (F.lnkStatusEnc e))

/-- The port sends LINK flits: it trains, is up, changes width or retrains. -/
def State.linkOpen (s : State) (e : Nat) : Bool := let st := s.fld (F.lnkStatusState e); st == 1 || st == 2 || st == 3 || st == 4

/-- The first waiting frame that may start: frames of one channel keep their order. -/
def nextFrame (s : State) (e : Nat) : List TxFrame → List Nat → Option (TxFrame × Nat)
  | l, blocked => (l.zipIdx.foldl (fun (b : Option (TxFrame × Nat) × List Nat) x =>
      match b.1 with
      | some _ => b
      | none => if b.2.contains x.1.vc then b else if s.mayStart e x.1 then (some x, b.2) else (none, x.1.vc :: b.2)) (none, blocked)).1

/-- What the port can send now: link messages first, then frames; it stops at the first thing that must wait. -/
def pumpLoop (e : Nat) : Nat → State → State
  | 0, s => s
  | k + 1, s =>
    let x := s.ep e
    match x.linkq with
    | p :: rest =>
      if s.linkOpen e && decide (x.replay.length < 512) then
        pumpLoop e k (sendFlit e { kind := 2, vc := 0, first := false, last := false, bytes := 240, seq := 0, enc := false, payload := p }
          (s.setEp e { x with linkq := rest }))
      else s
    | [] => match nextFrame s e x.txq [] with
      | some (f, i) => pumpLoop e k (sendFrame e f (s.setEp e { x with txq := x.txq.eraseIdx i }))
      | none => s

def pump (e : Nat) (s : State) : State := pumpLoop e ((s.ep e).linkq.length + (s.ep e).txq.length) s

/-! ### Members and the master (R315, R316) -/

def State.members (s : State) : List Nat := match s.cfg with | some c => c.members | none => []
def State.roster (s : State) : List RosterEntry := match s.cfg with | some c => c.roster | none => []

/-- The image lists this position, in the membership or in the spare roster. -/
def State.isMember (s : State) (pos : Nat) : Bool := s.members.contains pos || s.roster.any fun e => e.spare == pos

/-- The group master: the named one when live, else the lowest live position. -/
def State.masterPos (s : State) : Option Nat :=
  let ok := s.rde.live.filter s.isMember
  let named := s.fld F.rdeMasterNamed
  if named != 0xFFF && ok.contains named then some named
  else ok.foldl (fun m q => match m with | none => some q | some x => some (min x q)) none

/-- This device is the master; a pair shadow, split or not, holds no position and is none (R29, R315). -/
def State.isMaster (s : State) : Bool := s.masterPos == some s.position

/-- RDE_MASTER shows the result of the election. -/
def showMaster (s : State) : State :=
  match s.masterPos with
  | some m => ((s.setFld F.rdeMasterMaster m).setFld F.rdeMasterValid 1).setFld F.rdeStatusMaster (boolNat s.isMaster)
  | none => (s.setFld F.rdeMasterValid 0).setFld F.rdeStatusMaster 0

/-- Any frame from a peer shows it alive: it is live again, and no LOST for it has been seen since (R313). -/
def heardFrom (ep pos : Nat) (s : State) : State :=
  let x := s.ep ep
  let s := ((s.setEp ep { x with peerPos := some pos }).setFld (F.rdePeerPeer ep) pos).setFld (F.rdePeerAlive ep) 1
  let rde := { s.rde with lostSeen := s.rde.lostSeen.filter fun q => q != pos, declared := s.rde.declared.filter fun q => q != pos }
  if s.rde.live.contains pos || !s.isMember pos then { s with rde := rde } else showMaster { s with rde := { rde with live := pos :: s.rde.live } }

/-- A frame of any kind has come in on a port. -/
def heardPort (ep : Nat) (s : State) : State := match (s.ep ep).peerPos with | some q => heardFrom ep q s | none => s

/-! ### Messages to a peer -/

/-- A frame put in a port's transmit queue. -/
def State.queueFrame (s : State) (e : Nat) (f : TxFrame) : State :=
  let x := s.ep e
  pump e (s.setEp e { x with txq := x.txq ++ [f] })

/-- A link message to the port's peer (R340). -/
def sendLink (e type : Nat) (body : List Byte) (s : State) : State :=
  let x := s.ep e
  pump e (s.setEp e { x with linkq := x.linkq ++ linkPayloads type s.position e body })

/-- The port is not down: up, or in a change of width that frames wait through (R338, R339). -/
def State.portOn (s : State) (e : Nat) : Bool := let st := s.fld (F.lnkStatusState e); st == 2 || st == 3

/-- A port of the redundant pair: it carries pair traffic and liveness frames only (R28). -/
def State.pairPort (s : State) (e : Nat) : Bool := s.on (F.rdePeerPair e)

/-- The position that stands in `src` of a frame from a device that holds none, as a pair shadow does (R29, log entry 194). -/
def noPosition : Nat := 0xFFF

/-- The ports that are up and reach a peer; but for a change of width, those not in one come first. -/
def State.linksTo (s : State) (pos : Nat) : List Nat :=
  let on := (List.range 16).filter fun e => s.portOn e && (s.ep e).peerPos == some pos
  (on.filter fun e => s.fld (F.lnkStatusState e) == 2) ++ (on.filter fun e => s.fld (F.lnkStatusState e) == 3)

/-- Those that carry the traffic of the fabric group (R28). -/
def State.portsTo (s : State) (pos : Nat) : List Nat := (s.linksTo pos).filter fun e => !s.pairPort e

/-- The peers of the ports that a test admits. -/
def State.peersBy (s : State) (ok : Nat → Bool) : List Nat :=
  (List.range 16).foldl (fun l e => match (s.ep e).peerPos with
    | some q => if s.portOn e && ok e && !l.contains q then l ++ [q] else l
    | none => l) []

/-- The peers in the fabric group; all peers, those of the pair ports with them. -/
def State.peers (s : State) : List Nat := s.peersBy fun e => !s.pairPort e
def State.allPeers (s : State) : List Nat := s.peersBy fun _ => true

/-- A collective frame on a port: MIRROR frames take VC4. -/
def sendColl (e type : Nat) (enc : Bool) (f : Frame) (s : State) : State :=
  s.queueFrame e { vc := if type = 0xB then 4 else 1, bytes := collBytes type f, enc := enc }

/-- A liveness frame to a peer, on its lowest up port, pair ports with the others (R28, R313). -/
def sendLive (pos type : Nat) (f : Frame) (s : State) : State :=
  match s.linksTo pos with
  | e :: _ => sendColl e type false { f with src := s.position, dst := pos } s
  | [] => s

/-- A collective frame to a peer, on its lowest up port (for a protected partition, one whose encryption is active). -/
def sendTo (pos type : Nat) (enc : Bool) (f : Frame) (s : State) : State :=
  match (s.portsTo pos).filter fun e => !enc || s.on (F.lnkStatusEnc e) with
  | e :: _ => sendColl e type enc { f with src := s.position, dst := pos } s
  | [] => s

/-- A lending message to a peer with the pair's next number (R343), on the lowest up port that reaches it (for a protected
partition, one whose encryption is active: R403); the pair ports carry what the shadow lends (R28). -/
def sendLend (pos type : Nat) (sec : Bool) (m : LendMsg) (s : State) : State :=
  let l := tabGet LendPair.empty s.lendPairs pos
  let m := { m with src := s.position, seq := l.txSeq }
  let ports := (s.linksTo pos).filter fun e => !sec || s.on (F.lnkStatusEnc e)
  let s := { s with lendPairs := tabPut s.lendPairs pos { l with txSeq := l.txSeq + 1 } }
  match ports with
  | e :: _ => s.queueFrame e { vc := if type = 2 ∨ type = 5 ∨ type = 9 then 3 else 2, bytes := lendBytes type m, enc := sec }
  | [] => s

/-- A plain lending message with no payload. -/
def lendMsg (handle arg : Nat) : LendMsg :=
  { packed := false, part := 0, lastPart := true, src := 0, seq := 0, handle := handle, arg := arg, payload := [] }

end Sys2Proof.Machine
end

