-- ==== Sys2Proof/Machine/Span.lean ====
section
/-! DEFINITION. The span and its tiers as every unit uses them (chapter 8): areas of T0, free space of the tiers, the service of
an access (Table 8.6), poison, and the moves of a home copy. -/
namespace Sys2Proof.Machine

/-! ### Who owns an address, and how much room there is -/

/-- The partition whose range holds a span address (R233). -/
def State.partOfAddr (s : State) (a : Nat) : Option Nat :=
  (List.range 4).find? fun p => s.partValid p && inRange (s.range p) a 1

/-- Quarters a partition owns. -/
def State.quarters (s : State) (p : Nat) : Nat := popCount (s.partQuarters p) 4

def mib : Nat := 2 ^ 20

/-- The effective T0 stash quota in MiB (R110). -/
def State.stashQuotaMib (s : State) (p : Nat) : Nat := min (s.fld (F.jobStashQuotaT0Mib p)) (48 * s.quarters p)

/-- Bytes of the recompute area of a job (R112). -/
def recomputeArea (i : JobImage) : Nat := i.layers.foldl (fun m l => max m l.recompute) 0

/-- The training job that runs in a partition. -/
def State.trainingJob (s : State) (p : Nat) : Option Job :=
  (s.jobs.find? fun j => j.2.part == p && j.2.record.kind == 1).map (·.2)

/-- The stream in force (R255, R257). -/
def State.stream (s : State) (p : Nat) : StreamSt :=
  tabGet { window := (s.reg (.spnWindow p)), lo := (s.reg (.spnStreamLo p)), hi := (s.reg (.spnStreamHi p)),
           len := (s.reg (.spnStreamLen p)), current := none, down := false } s.streams p

def StreamSt.enabled (x : StreamSt) : Bool := wordField x.window 12 1 == 1
/-- Slab bytes and slabs ahead: 0 is read as 1. -/
def StreamSt.slab (x : StreamSt) : Nat := max 1 (wordField x.window 0 7) * mib
def StreamSt.depth (x : StreamSt) : Nat := max 1 (wordField x.window 8 4)
def StreamSt.base (x : StreamSt) : Nat := x.lo.toNat + x.hi.toNat % 2 ^ 20 * 2 ^ 32
def StreamSt.bytes (x : StreamSt) : Nat := x.len.toNat * mib

/-- Bytes of a partition's T0 (R237). -/
def State.t0Bytes (s : State) (p : Nat) : Nat := 128 * mib * s.quarters p

/-- Where the pinned area begins in the partition's T0 (Table 8.2). -/
def State.pinnedBase (s : State) (p : Nat) : Nat := (4 + 8 * s.quarters p) * mib

/-- Bytes of the areas that come before the span-page cache (Table 8.2). -/
def State.fixedAreas (s : State) (p : Nat) : Nat :=
  s.pinnedBase p + s.fld (F.spnT0PinPinMib p) * mib
  + (match s.trainingJob p with
     | some j => s.stashQuotaMib p * mib + recomputeArea j.image
     | none => 0)
  + (if (s.stream p).enabled then (s.stream p).slab * ((s.stream p).depth + 2) else 0)

/-- With SPN_WINDOW at `w` less than 16 MiB of the partition's T0 would be left for the span-page cache (R239). -/
def State.windowTight (s : State) (p : Nat) (w : Word) : Bool :=
  let size (x : StreamSt) : Nat := if x.enabled then x.slab * (x.depth + 2) else 0
  s.partValid p && s.t0Bytes p < s.fixedAreas p - size (s.stream p) + size { s.stream p with window := w } + 16 * mib

/-- 64 KiB slots of the span-page cache. -/
def State.cacheSlots (s : State) (p : Nat) : Nat := (s.t0Bytes p - s.fixedAreas p) / 65536

/-- T0 addresses of a pinned page's slot, of a cached page's slot, of a slot of the slab window (Table 8.2). -/
def State.slotAt (s : State) (p : Nat) (x : Page) : Nat :=
  if x.window then s.fixedAreas p - (s.stream p).slab * ((s.stream p).depth + 2) + x.cacheSlot * 65536
  else if x.cached then s.fixedAreas p + x.cacheSlot * 65536
  else s.pinnedBase p + x.location * 65536

/-- The bank, by its logical number, and the index in it of the 32-byte word at a T0 address: slices of 256 KiB a bank, 64-byte lines in
turn over the banks of the partition's quarters (R237, R285). Which line lies in which bank of a slice is the model's choice (log
entry 195). -/
def State.csPlace (s : State) (p a : Nat) : Nat × Nat :=
  let qs := (List.range 4).filter fun q => (s.partQuarters p).testBit q
  let n := max 1 qs.length
  let slice := 16 * mib * n
  let line := a % slice / 64
  let b := (line + Config.bankShift p) % (64 * n)
  (qs.getD (b / 64) 0 * 64 + b % 64, 2 * (a / slice * 4096 + line / (64 * n)) + a / 32 % 2)

/-- The pages of a partition, by span page number. -/
def State.partPages (s : State) (p : Nat) : List (Nat × Page) :=
  s.pages.filter fun x => inRange (s.range p) (x.1 * 65536) 1

/-- Granules of T1 a page takes: 16 when plain. -/
def Page.t1Granules (x : Page) : Nat := if x.home = .t1 then (if x.packed then x.granules else 16) else 0

/-! ### The packages and the linear T1 of a partition (R268, R269, R277, R278) -/

/-- Ranks per channel and GiB per rank (MCG_CONFIG). -/
def State.mcgRanks (s : State) (g : Nat) : Nat := s.fld (F.mcgConfigRanks g) + 1
def State.rankGib (s : State) (g : Nat) : Nat := if s.on (F.mcgConfigRankGib g) then 8 else 4
def State.packageGib (s : State) (g : Nat) : Nat := 4 * s.mcgRanks g * s.rankGib g

/-- Rows of 2 KiB of one bank, and of one channel. -/
def State.bankRows (s : State) (g : Nat) : Nat := s.rankGib g * 2 ^ 15
def State.channelRows (s : State) (g : Nat) : Nat := s.mcgRanks g * 16 * s.bankRows g

def State.partMcgList (s : State) (p : Nat) : List Nat := (List.range 24).filter fun g => (s.partMcgs p).testBit g

/-- Row `r` is a check row. -/
def RowId.isCheck (r : RowId) : Bool := r.row % 32 == 31

/-- The check row of a data row, in another bank group. -/
def RowId.checkRow (r : RowId) : RowId := { r with bank := r.bank ^^^ 8, row := r.row / 32 * 32 + 31 }

/-- A data sector's number among the 992 of its check group, and where its check word lies: check sector and word (R278). -/
def RowId.sectorNo (r : RowId) (col : Nat) : Nat := 32 * (r.row % 32) + col
def checkPlace (d : Nat) : Nat × Nat := (d / 31, d % 31)

/-- A channel-local index (R282). -/
def rowIndex (r : RowId) (sector : Nat) : Nat := r.rank * 2 ^ 27 + r.bank * 2 ^ 23 + r.row * 2 ^ 5 + sector

/-- The channels of a partition that are in service, in order: MCG and channel. -/
def State.channels (s : State) (p : Nat) : List (Nat × Nat) := ((s.partMcgList p).filter fun g => (s.mcg g).fitted).flatMap fun g => (List.range 4).map fun c => (g, c)

/-- The row of a row unit: consecutive units lie on consecutive channels, so those of a block lie on 32 of them, or evenly on all (R277).
What is not architectural is the model's choice (log entry 195). -/
def State.rowAt (s : State) (p u : Nat) : Nat × RowId :=
  let cs := s.channels p
  let n := max 1 cs.length
  let v := u + Config.rowShift p % n
  let (g, ch) := cs.getD (v % n) (0, 0)
  let per := s.bankRows g / 32 * 31
  let j := v / n / 16
  (g, { ch := ch, rank := j / per, bank := v / n % 16, row := j % per / 31 * 32 + j % per % 31 })

/-- The row unit that a data row is. -/
def State.unitAt (s : State) (p g : Nat) (r : RowId) : Option Nat :=
  let cs := s.channels p
  match cs.findIdx? (· == (g, r.ch)) with
  | some i =>
    let n := max 1 cs.length
    let per := s.bankRows g / 32 * 31
    let v := ((r.rank * per + r.row / 32 * 31 + r.row % 32) * 16 + r.bank) * n + i
    let shift := Config.rowShift p % n
    if r.isCheck || decide (v < shift) then none else some (v - shift)
  | none => none

/-- The check group of a row (R271). -/
def State.groupOf (s : State) (g : Nat) (r : RowId) : Nat :=
  let b := if r.isCheck then r.bank ^^^ 8 else r.bank
  ((r.ch * s.mcgRanks g + r.rank) * 16 + b) * (s.bankRows g / 32) + r.row / 32

/-- 64 KiB blocks that an MCG gives beside the retired ones: MCG_USABLE_MIB shows whole MiB of them, and a package's spares take eight. -/
def State.mcgBlocks (s : State) (g : Nat) : Nat :=
  let n := s.fld (F.mcgUsableMibMib g)
  if n = 0 then 0 else n * 16 + (24 - (s.mcg g).retired.length % 16) % 16

/-- Blocks of a partition's T1 that are withdrawn: retired, or being vacated (R290). -/
def State.withdrawn (s : State) (p : Nat) : List Nat :=
  ((s.partMcgList p).filter fun g => s.mcgBlocks g != 0).flatMap fun g => (s.mcg g).retired ++ (s.mcg g).retiring.flatMap (·.2)

/-- Granules of the linear T1 behind the table area, withdrawn blocks with them (R269, R292). -/
def State.t1Linear (s : State) (p : Nat) : Nat :=
  ((s.partMcgList p).foldl (fun n g => n + (s.mcgBlocks g + if s.mcgBlocks g = 0 then 0 else (s.mcg g).retired.length) * 16) 0)
  - (match s.cfg with | some c => ((c.parts[p]?.map (·.tableMib)).getD 0) * 256 | none => 0)

/-- Granules of T1 that the partition can use. -/
def State.t1Capacity (s : State) (p : Nat) : Nat := s.t1Linear p - 16 * (s.withdrawn p).length

/-- The withdrawn blocks as intervals of granules. -/
def State.t1Holes (s : State) (p : Nat) : List (Nat × Nat) := (s.withdrawn p).map fun b => (16 * b, 16)

/-- Granules of the lending pool (R258): share/64 of usable T1 while lend_en is set, less what reclaims have given back. With lend_en
cleared the pool stays until its last granule is unlent. -/
def State.poolGranules (s : State) (p : Nat) : Nat :=
  if s.on (F.spnLendLendEn p) || s.lentPages.any fun x => x.1 / 2 ^ 30 == p then s.t1Capacity p * min 32 (s.fld (F.spnLendShare p)) / 64 - tabGet 0 s.poolCut p else 0

def State.stash (s : State) (p : Nat) : Stash := tabGet { layers := [] } s.stashes p

/-- Bytes of the stash in T0, and sectors of it in T1. -/
def Stash.t0Bytes (x : Stash) : Nat := (x.layers.map (·.t0)).sum
def Stash.t1Sectors (x : Stash) : Nat := (x.layers.map (·.sectors)).sum

/-- Granules of T1 that the partition's own pages and spilled stash take. -/
def State.t1Used (s : State) (p : Nat) : Nat :=
  (s.partPages p).foldl (fun n x => n + x.2.t1Granules) 0 + ceilDiv (s.stash p).t1Sectors 64

def State.t1Free (s : State) (p : Nat) : Nat := s.t1Capacity p - s.poolGranules p - s.t1Used p

/-- The watermarks of free T1 in granules (R247): a high value below the low one is read as the low one. -/
def State.lowWater (s : State) (p : Nat) : Nat := s.fld (F.spnT1WaterLowGib p) * 2 ^ 18
def State.highWater (s : State) (p : Nat) : Nat := max (s.fld (F.spnT1WaterLowGib p)) (s.fld (F.spnT1WaterHighGib p)) * 2 ^ 18

/-- Slots of the partition's T3 region, and those that pages take (R264, R265). -/
def State.t3Slots (s : State) (p : Nat) : Nat := match s.cfg with | some c => (c.parts[p]?.map (·.t3Slots)).getD 0 | none => 0
def Page.t3Slot (x : Page) : Option Nat := if x.home = .t3 then some x.location else x.backSlot
def State.t3Used (s : State) (p : Nat) : List Nat := (s.partPages p).filterMap fun x => x.2.t3Slot

/-- The queue pair of the T3 region is in error (R265). -/
def State.t3Qp (s : State) (p : Nat) : Option Nat :=
  match s.cfg with | some c => (c.parts[p]?).bind fun x => if x.t3Slots = 0 then none else some x.t3Qp | none => none
def State.t3Down (s : State) (p : Nat) : Bool :=
  match s.t3Qp p with | some q => s.fld (F.qpCtrlState q) == 4 | none => false

/-- The first number below `n` that a list does not hold, from a free start on. -/
def freeSlot (used : List Nat) (start n : Nat) : Option Nat :=
  let cand := start :: 0 :: used.map (· + 1)
  cand.find? fun c => !used.contains c && decide (c < n)

/-- A free place of `size` granules below `cap`, aligned to `al`, that no used interval overlaps. -/
def freePlace (used : List (Nat × Nat)) (start cap size al : Nat) : Option Nat :=
  let up (x : Nat) : Nat := ceilDiv x al * al
  let cand := up start :: 0 :: used.map fun u => up (u.1 + u.2)
  cand.find? fun c => (used.all fun u => decide (c + size ≤ u.1) || decide (u.1 + u.2 ≤ c)) && decide (c + size ≤ cap)

/-- A free T1 place for a page of `g` granules (16 for a plain frame): which one is the device's choice. -/
def State.t1Place (s : State) (p g : Nat) : Option Nat :=
  let cap := s.t1Linear p - s.poolGranules p
  let used := s.t1Holes p ++ (s.partPages p).filterMap fun x =>
    if x.2.home = .t1 then some (if x.2.packed then (x.2.location, x.2.granules) else (x.2.location * 16, 16)) else none
  let used := used ++ (s.lentPages.filter fun x => x.1 / 2 ^ 30 == p).map fun x => (x.1 % 2 ^ 30, x.2.granules)
  if g ≤ s.t1Free p then freePlace used (s.pick cap) cap g (if g = 16 then 16 else 1) else none

/-- A free slot of the pinned area. -/
def State.pinPlace (s : State) (p : Nat) : Option Nat :=
  let n := s.fld (F.spnT0PinPinMib p) * 16
  freeSlot ((s.partPages p).filterMap fun x => if x.2.home = .t0 then some x.2.location else none) (s.pick n) n

/-- A free T3 slot; the region counts as full while its queue pair is in error. -/
def State.t3Place (s : State) (p : Nat) : Option Nat :=
  if s.t3Down p then none else freeSlot (s.t3Used p) (s.pick (s.t3Slots p)) (s.t3Slots p)

def State.lendPair (s : State) (pos : Nat) : LendPair := tabGet LendPair.empty s.lendPairs pos
def State.setLendPair (s : State) (pos : Nat) (x : LendPair) : State := { s with lendPairs := tabPut s.lendPairs pos x }

/-- The lender with room that offers the most granules (R259). -/
def State.lenderFor (s : State) (g : Nat) : Option Nat :=
  let ls := ((List.range 8).filter fun n => s.on (F.spnLendPeerValid n)).map fun n => s.fld (F.spnLendPeerPos n)
  let ok := ls.filter fun l => decide (g ≤ (s.lendPair l).offered)
  ok.foldl (fun b l => match b with
    | none => some l
    | some x => if (s.lendPair x).offered < (s.lendPair l).offered then some l else b) none

/-! ### Policy classes (Table 8.8) -/

structure Policy where
  t1Ok : Bool
  t2Ok : Bool
  t3Ok : Bool
  install : Bool
  pin : Option Home
  waferT1 : Bool
  backed : Bool
  keep : Nat
  layout : Nat
deriving DecidableEq, Repr

/-- Class `n` of a partition: pins 5 to 7 read as 0; no tier and no pin is t1_ok. -/
def State.policy (s : State) (p n : Nat) : Policy :=
  let w := s.reg (.spnPolicy p n)
  let pin := match wordField w 4 3 with | 1 => some Home.t0 | 2 => some .t1 | 3 => some .t2 | 4 => some .t3 | _ => none
  let none3 := wordField w 0 3 == 0 && pin.isNone
  { t1Ok := wordField w 0 1 == 1 || none3, t2Ok := wordField w 1 1 == 1, t3Ok := wordField w 2 1 == 1,
    install := wordField w 3 1 == 1, pin := pin, waferT1 := wordField w 7 1 == 1, backed := wordField w 8 1 == 1,
    keep := wordField w 9 2, layout := wordField w 12 2 }

/-- A write-back may promote pages of the class to T1 (R246); pages with a pin tier are passed by (R248). -/
def Policy.promotes (x : Policy) : Bool := x.pin.isNone && x.t1Ok

/-- A page of the class that must leave T2 may go to T1 (R260): its class allows T1, or is pinned to it. -/
def Policy.takesT1 (x : Policy) : Bool := match x.pin with | none => x.t1Ok | some h => h == .t1

/-! ### Poison and stored upsets -/

/-- Sorted insertion and removal of 32-byte word numbers. -/
def poisonAdd : List Nat → Nat → List Nat
  | [], w => [w]
  | k :: t, w => if w < k then w :: k :: t else if w = k then k :: t else k :: poisonAdd t w

/-- The 32-byte words an address range touches. -/
def wordsOf (a n : Nat) : List Nat :=
  if n = 0 then [] else (List.range ((a + n - 1) / 32 - a / 32 + 1)).map fun i => a / 32 + i

def State.poisonRange (s : State) (a n : Nat) : State :=
  { s with poison := (wordsOf a n).foldl poisonAdd s.poison }

def State.clearPoison (s : State) (ws : List Nat) : State := { s with poison := s.poison.filter fun w => !ws.contains w }

/-- Some word of a range reads as poisoned. -/
def State.poisoned (s : State) (a n : Nat) : Bool := (wordsOf a n).any fun w => s.poison.contains w

/-- The page numbers and the stripe numbers of a range. -/
def pagesOf (a n : Nat) : List Nat :=
  if n = 0 then [] else (List.range ((a + n - 1) / 65536 - a / 65536 + 1)).map fun i => a / 65536 + i
def stripesOf (a n : Nat) : List Nat :=
  if n = 0 then [] else (List.range ((a + n - 1) / 2048 - a / 2048 + 1)).map fun i => a / 2048 + i

/-- A page's home reads or writes are served from the central store: pinned, or this stripe valid in its cached copy. -/
def Page.inT0 (x : Page) (stripe : Nat) : Bool :=
  x.home == .t0 || (x.cached && x.valid.toNat.testBit stripe)

/-- A bank of the central store is taken out of the interleave for a spare, if one is free (R461, R462). -/
def retireBank (b : Nat) (auto : Bool) (s : State) : State :=
  match s.err.csSpares with
  | sp :: rest =>
    let logical := ((List.range 256).find? fun l => tabGet l s.err.csMap l == b).getD b
    let s := { s with err := { s.err with csSpares := rest, csMap := tabPut s.err.csMap logical sp
                                          csCe := s.err.csCe.filter fun x => x.1 != b } }
    let s := s.setFld F.csRetireSpares rest.length
    errRecord { bank := 7, unit := b, cause := 4, cls := 0 } s
  | [] => if auto then errRecord { bank := 7, unit := b, cause := 5, cls := 1 } s else s

/-- A corrected read of the central store: word `w` of the span, at index `place` of bank `b`: counted, and the fourth distinct word within 24 h retires the bank. -/
def csCorrected (b w place : Nat) (s : State) : State :=
  let now := s.clock.powered
  let notes := (b, w, now) :: s.err.csCe.filter fun x => !(x.1 == b && x.2.1 == w) && decide (now ≤ x.2.2 + 86400)
  let s := { s with err := { s.err with csCe := notes } }
  let s := errRecord { bank := 7, unit := b, cause := 1, cls := 0, address := place } s
  if (notes.filter fun x => x.1 == b).length ≥ 4 then retireBank b true s else s

/-- A row of MCG `g` fails (R287): it waits for its remap or retirement. -/
def failRow (g : Nat) (r : RowId) (s : State) : State :=
  let m := s.mcg g
  if m.failed.contains r then s else s.setMcg g { m with failed := m.failed ++ [r] }

/-- A corrected, an uncorrectable or a misdirected read of MCG `g` at a row and column sector (R283, R287). -/
def mcgUpset (g : Nat) (r : RowId) (sector : Nat) (u : Upset) (s : State) : State :=
  match u with
  | .corrected =>
    let s := s.bump (F.mcgCeCntCe g r.ch)
    let s := errRecord { bank := 0x40 + g, unit := r.ch, cause := 1, cls := 0, address := rowIndex r sector,
                         part := s.partOfMcg g } s
    let m := s.mcg g
    let win := max 1 (s.fld (F.mcgRemapCtrlCeWindowH g)) * 3600
    let now := s.clock.powered
    let notes := { row := r, sector := sector, time := now } ::
      m.ceNotes.filter fun x => !(x.row == r && x.sector == sector) && decide (now ≤ x.time + win)
    let s := s.setMcg g { m with ceNotes := notes }
    if (notes.filter fun x => x.row == r).length ≥ max 1 (s.fld (F.mcgRemapCtrlCeThresh g)) then failRow g r s else s
  | _ =>
    let s := s.bump (F.mcgUeCntUe g)
    let s := errRecord { bank := 0x40 + g, unit := r.ch, cause := if u = .misdirected then 3 else 2, cls := 1,
                         address := rowIndex r sector, part := s.partOfMcg g } s
    failRow g r s

/-! ### Bytes as units read and write them -/

/-- Bytes `a` to `a + n − 1`. -/
def State.bytes (s : State) (a n : Nat) : List Byte := memBytes s.mem a n

/-- The 32 stripes of a page. -/
def State.stripes (s : State) (pg : Nat) : List (List Byte) := (List.range 32).map fun i => s.bytes (pg * 65536 + 2048 * i) 2048

/-- A number of `n` bytes at `a`, little-endian. -/
def State.num (s : State) (a n : Nat) : Nat := leNat (s.bytes a n)

/-- A page takes data of writes: it is mapped and not lost. -/
def Page.takes (x : Page) : Bool := x.home != .unmapped && x.home != .lost

/-! ### Stored forms (R236, R249, R416) -/

/-- The key of the tenant slot that a page lies in. -/
def State.pageKey (s : State) (p pg : Nat) : List Byte :=
  tabGet [] s.sec.memKeys (p * 16 + ((List.range 16).find? fun t => inRange (s.slice p t) (pg * 65536) 1).getD 0)

/-- Page bytes in the form they leave the die in for a lender or a host, with layout `l`: packed where packing saves space, encrypted
sector by sector with the slot's memory keys in a protected partition. -/
def packForm (s : State) (p pg l : Nat) : Bool × List Byte :=
  let bs := s.stripes pg
  let (packed, form) := match packGranules l bs with
    | some g => (true, padTo (g * 4096) (packPage l bs))
    | none => (false, bs.flatten)
  if s.guarded p then
    (packed, ((List.range (form.length / 64)).map fun i =>
      Config.xtsEncrypt (s.pageKey p pg) (2 ^ 127 + pg * 1024 + i) ((form.drop (64 * i)).take 64)).flatten)
  else (packed, form)

/-- The form of a page's home copy in T2 or T3: the layout is the one it was packed with. -/
def storedForm (s : State) (p pg : Nat) : Bool × List Byte := packForm s p pg (s.page pg).form

/-- Offset and bytes of a stripe's payload in the packed home copy, as its directory says. -/
def packedAt (s : State) (pg stripe : Nat) : Nat × Nat :=
  let h := leAt (packPage (s.page pg).form (s.stripes pg)) (8 * stripe) 8
  (64 * bitsAt h 21 11, 64 * (bitsAt h 16 5 + 1))

/-! ### A page's home in T1, by row units (R277) -/

/-- The row units of a page's home in T1. -/
def Page.unitBase (x : Page) : Nat := if x.packed then x.location * 2 else x.location * 32
def Page.unitCount (x : Page) : Nat := if x.home = .t1 then (if x.packed then 2 * x.granules else 32) else 0

/-- The page that holds a row unit of T1, and the first sector of its stored form that lies there. -/
def State.pageAtUnit (s : State) (p u : Nat) : Option (Nat × Nat) :=
  ((s.partPages p).find? fun x => decide (x.2.unitBase ≤ u) && decide (u < x.2.unitBase + x.2.unitCount)).map fun x =>
    (x.1, 32 * (u - x.2.unitBase))

/-- The row and the column sector of sector `i` of a page's home in T1. -/
def State.t1Row (s : State) (p pg i : Nat) : (Nat × RowId) × Nat := (s.rowAt p ((s.page pg).unitBase + i / 32), i % 32)

/-- The 64 bytes that T1 holds for sector `i` of a page: encrypted under its place in a protected partition (R416). -/
def State.t1Sector (s : State) (p pg i : Nat) : List Byte :=
  let x := s.page pg
  let form := if x.packed then padTo (x.granules * 4096) (packPage x.form (s.stripes pg)) else (s.stripes pg).flatten
  let plain := (form.drop (64 * i)).take 64
  if s.guarded p then
    let ((g, r), col) := s.t1Row p pg i
    Config.xtsEncrypt (s.pageKey p pg) ((4 * g + r.ch) * 2 ^ 28 + rowIndex r col) plain
  else plain

/-- The stripes that sector `i` of a page's home in T1 carries: all eight of a directory sector, else the one whose payload it is in. -/
def State.sectorStripes (s : State) (pg i : Nat) : List Nat :=
  if !(s.page pg).packed then [i / 32]
  else if i < 4 then (List.range 8).map (8 * i + ·)
  else (List.range 32).filter fun k => let (o, n) := packedAt s pg k; decide (o / 64 ≤ i) && decide (i < o / 64 + n / 64)

/-- The sectors of a page's home in T1 that a read of `n` bytes at `o` of a stripe fetches: whole stripes of a packed page with their
directory sector. -/
def State.stripeSectors (s : State) (pg k o n : Nat) : List Nat :=
  if (s.page pg).packed then
    let (b, l) := packedAt s pg k
    k / 8 :: (List.range (l / 64)).map (b / 64 + ·)
  else if n = 0 then [] else (List.range ((o + n - 1) / 64 - o / 64 + 1)).map fun i => 32 * k + o / 64 + i

/-! ### Writes to T1: check groups and check words (R271, R279) -/

/-- The group is still marked. -/
def Mcg.marked (m : Mcg) (k : Nat) : Bool :=
  decide (m.initNext ≤ k) && decide (k < m.groups) && !m.initDone.any fun d => decide (d.1 ≤ k) && decide (k < d.1 + d.2)

/-- The next marked group, in ascending order. -/
def Mcg.nextMarked (m : Mcg) : Option Nat :=
  let next := m.initDone.foldl (fun k _ => match m.initDone.find? fun d => decide (d.1 ≤ k) && decide (k < d.1 + d.2) with
    | some d => d.1 + d.2
    | none => k) m.initNext
  if m.marked next then some next else none

/-- init_busy shows whether any group is marked. -/
def showInit (g : Nat) (s : State) : State := s.setFld (F.mcgStatusInitBusy g) (boolNat (s.mcg g).nextMarked.isSome)

/-- A marked group is written with zeros and check words, and its bit cleared. -/
def Mcg.initGroup (m : Mcg) (k : Nat) : Mcg := if m.marked k then { m with initDone := (k, 1) :: m.initDone } else m

/-- A check word in a check sector changes in the check cache: the sector is fetched on a miss, and of more than 256 sectors the one
longest unused is written back with its own check word. -/
def Mcg.touchCheck (m : Mcg) (r : RowId) (sector : Nat) : Mcg :=
  { m with checks := ({ row := r, sector := sector, dirty := true } :: m.checks.filter fun c => !(c.row == r && c.sector == sector)).take 256 }

/-- `n` sectors of a data row from column `col` on are written: their group is initialised first, and their check words change. -/
def Mcg.noteWrite (m : Mcg) (group : Nat) (r : RowId) (col n : Nat) : Mcg :=
  let a := (checkPlace (r.sectorNo col)).1
  let b := (checkPlace (r.sectorNo (col + n - 1))).1
  (List.range (b - a + 1)).foldl (fun m i => m.touchCheck r.checkRow (a + i)) (m.initGroup group)

/-- Sectors of T1 are written: row unit, first column sector and count. -/
def t1Write (p : Nat) (us : List (Nat × Nat × Nat)) (s : State) : State :=
  ((s.partMcgList p).filter fun g => (s.mcg g).fitted).foldl (fun t g =>
    let m := us.foldl (fun m u =>
      let (h, r) := s.rowAt p u.1
      if h = g then m.noteWrite (s.groupOf g r) r u.2.1 u.2.2 else m) (t.mcg g)
    showInit g (t.setMcg g m)) s

/-- A sector of T1 whose group is marked reads as zeros, without an access (R271). -/
def State.t1Marked (s : State) (g : Nat) (r : RowId) : Bool := (s.mcg g).marked (s.groupOf g r)

/-- A whole home copy in T1 is written: no error of its place is left, and a sector that holds one poisoned word is poisoned (R284). -/
def t1WritePage (p pg : Nat) (s : State) : State :=
  let x := s.page pg
  let s := t1Write p ((List.range x.unitCount).map fun i => (x.unitBase + i, 0, 32)) s
  let bad := s.poison.filter fun w => w / 2048 == pg
  { s with poison := (bad.map fun w => w ^^^ 1).foldl poisonAdd s.poison, flips := s.flips.filter fun f => f.1 / 1024 != pg }

/-! ### Reads that meet an error (R283 to R285) -/

/-- A word's data become what decoding delivered, where errors have carried it to another codeword. -/
def garble (a : Nat) (old new : List Byte) (s : State) : State := if new = old then s else { s with mem := memPutAll s.mem a new }

/-- A read of a 32-byte word in the central store. A word found lost is written back poisoned: an empty list of errors says that its
poison is this copy's alone. -/
def meetT0 (p w : Nat) (s : State) : State :=
  match tabFind s.upsets w with
  | none => s
  | some errs =>
    let pg := w / 2048
    let (l, idx) := s.csPlace p (s.slotAt p (s.page pg) + (w * 32 - pg * 65536))
    let b := tabGet l s.err.csMap l
    let bad := s.poison.contains w
    let (d, bs) := decodeWord (s.bytes (32 * w) 32) (idx + l * 2 ^ 16) (boolNat bad) errs
    let s1 := { s with upsets := tabDel s.upsets w }
    let lost (t : State) : State := { t with poison := poisonAdd t.poison w, upsets := tabPut t.upsets w [] }
    match d with
    | .clean => garble (32 * w) (s.bytes (32 * w) 32) bs s1
    | .corrected _ _ => csCorrected b w idx (garble (32 * w) (s.bytes (32 * w) 32) bs s1)
    | .poisoned => if bad then s else lost s1
    | .misdirected | .uncorrectable =>
      if bad then s1
      else retireBank b true
        (errRecord { bank := 7, unit := b, cause := if d = .misdirected then 3 else 2, cls := 1, address := idx } (lost s1))

/-- Sector `i` of a page's home in T1 has lost its data: what no copy in T0 shows otherwise reads poisoned; a sector under a copy is stored
poisoned, which the next read of it meets. -/
def spoilSector (pg i : Nat) (s : State) : State :=
  let x := s.page pg
  let ks := s.sectorStripes pg i
  let t := (ks.filter fun k => !x.inT0 k).foldl (fun t k =>
    if x.packed then t.poisonRange (pg * 65536 + 2048 * k) 2048 else t.poisonRange (pg * 65536 + 64 * i) 64) s
  if ks.any x.inT0 then { t with flips := tabPut t.flips (pg * 1024 + i) [(139, 1)] } else t

/-- Decoding delivered other bytes for a stored sector than were written: a packed page's stripes fail their check (R252), an encrypted
sector decrypts to bytes that nothing says. -/
def garbleSector (p pg i : Nat) (new : List Byte) (s : State) : State :=
  let x := s.page pg
  if new = s.t1Sector p pg i then s
  else if x.packed then
    ((s.sectorStripes pg i).filter fun k => !x.inT0 k).foldl (fun t k =>
      errRecord { bank := 6, unit := p, cause := 3, cls := 1, part := some p, address := pg * 65536 + 2048 * k }
        (t.poisonRange (pg * 65536 + 2048 * k) 2048)) s
  else if x.inT0 (i / 32) then s
  else if s.guarded p then
    { s.spend with mem := memPutAll s.mem (pg * 65536 + 64 * i) (leBytes 64 (Config.value s.clock.freeIdx)) }
  else { s with mem := memPutAll s.mem (pg * 65536 + 64 * i) new }

/-- A read of sector `i` of a page's home in T1. A sector already poisoned gives no further record. -/
def meetT1 (p pg i : Nat) (s : State) : State :=
  match tabFind s.flips (pg * 1024 + i) with
  | none => s
  | some errs =>
    let x := s.page pg
    let ((g, r), col) := s.t1Row p pg i
    let s1 := { s with flips := tabDel s.flips (pg * 1024 + i) }
    if s.t1Marked g r then s1
    else
      let ks := (s.sectorStripes pg i).filter fun k => !x.inT0 k
      let bad := if x.packed then ks.any fun k => (wordsOf (pg * 65536 + 2048 * k) 2048).all s.poison.contains
        else !ks.isEmpty && s.poisoned (pg * 65536 + 64 * i) 64
      let (d, bs) := decodeWord (s.t1Sector p pg i) (rowIndex r col) (boolNat bad) errs
      match d with
      | .clean => garbleSector p pg i bs s1
      | .corrected _ _ => mcgUpset g r col .corrected (garbleSector p pg i bs s1)
      | .poisoned => spoilSector pg i s1
      | .misdirected | .uncorrectable =>
        if bad then s1 else mcgUpset g r col (if d = .misdirected then .misdirected else .uncorrectable) (spoilSector pg i s1)

/-- A read of bytes `a` to `a + n − 1` of the span, which meets the errors of the words and sectors it fetches. -/
def meetRange (a n : Nat) (s : State) : State :=
  if s.upsets.isEmpty && s.flips.isEmpty then s
  else (stripesOf a n).foldl (fun t st =>
    let lo := max a (st * 2048)
    let hi := min (a + n) ((st + 1) * 2048)
    let x := t.page (st / 32)
    let p := (t.partOfAddr (st * 2048)).getD 0
    if x.inT0 (st % 32) then (wordsOf lo (hi - lo)).foldl (fun u w => meetT0 p w u) t
    else if x.home = .t1 then (t.stripeSectors (st / 32) (st % 32) (lo - st * 2048) (hi - lo)).foldl (fun u i => meetT1 p (st / 32) i u) t
    else t) s

/-- Bytes written: dropped where the page is unmapped or lost. A word covered whole (or, in T1, a sector) loses its poison and its errors;
one covered in part is read and merged. A write to a moving page cancels its move (R235, R243, R245, R284). -/
def writePage (pg a : Nat) (bs : List Byte) (s : State) : State :=
  let x := s.page pg
  if !x.takes then s
  else
    let inT1 (k : Nat) : Bool := x.home == .t1 && !x.inT0 k
    let ws := wordsOf a bs.length
    let covers (w : Nat) : Bool :=
      let u := if inT1 (w / 64 % 32) then 64 else 32
      decide (a ≤ w * 32 / u * u) && decide (w * 32 / u * u + u ≤ a + bs.length)
    let covered := ws.filter covers
    let s := (ws.filter fun w => !covers w).foldl (fun t w => meetRange (w * 32) 32 t) s
    let s := { s with mem := memPutAll s.mem a bs, upsets := s.upsets.filter fun f => !covered.contains f.1
                      flips := s.flips.filter fun f => !(covered.contains (2 * f.1) && inT1 (f.1 / 32 % 32)) }
    let s := s.clearPoison covered
    let s := t1Write ((s.partOfAddr a).getD 0) (((stripesOf a bs.length).filter fun st => inT1 (st % 32)).map fun st =>
      let lo := max a (st * 2048) - st * 2048
      let hi := min (a + bs.length) ((st + 1) * 2048) - st * 2048
      (x.unitBase + st % 32, lo / 64, (hi + 63) / 64 - lo / 64)) s
    if x.moving then (s.setPage pg { x with moving := false, moveHit := true }).bump F.spnMoveAbortsAborts else s

/-- Bytes written from `a` on, page by page. -/
def State.writeBytes (s : State) (a : Nat) (bs : List Byte) : State :=
  (pagesOf a bs.length).foldl (fun t pg =>
    let lo := max a (pg * 65536)
    let hi := min (a + bs.length) ((pg + 1) * 65536)
    writePage pg lo ((bs.drop (lo - a)).take (hi - lo)) t) s

/-- Bytes written and marked poisoned (a copy of poisoned data). -/
def State.writePoisoned (s : State) (a : Nat) (bs : List Byte) : State :=
  (s.writeBytes a bs).poisonRange a bs.length

/-! ### The service of an access (Table 8.6) -/

/-- What an operation is about to read and write, as (address, length) ranges. -/
structure Access where
  reads : List (Nat × Nat)
  writes : List (Nat × Nat)
deriving DecidableEq, Repr

/-- How the STU answers an access: the requester waits for fills, or goes ahead; `bad` lists stripes whose fill returned poisoned
data that stays out of the memory (T3_DOWN, R265). -/
inductive Touch
  | wait (s : State)
  | ok (s : State) (bad : List Nat)
deriving DecidableEq, Repr

/-- Marks a page used now, for eviction and demotion order. -/
def State.touchPage (s : State) (pg : Nat) : State :=
  let x := s.page pg
  { (s.setPage pg { x with last := s.accessNo + 1 }) with accessNo := s.accessNo + 1 }

/-- A queue pair's requests go out from RTS on; one made before waits for it (DESIGN CHOICE, log entry 60). -/
def State.issues (s : State) (q : Nat) : Bool := s.fld (F.qpCtrlState q) == 3

/-- An RDMA READ that the device issues on a queue pair (R353): a request waits for its response. -/
def issueRead (q va rkey len dst : Nat) (o : ReqOwner) (s : State) : State :=
  let x := s.qp q
  let pk := max 1 (ceilDiv len (1024 * 2 ^ s.fld (F.qpDestPmtu q)))
  let r : Request := { q := q, psn := x.npsn, last := (x.npsn + pk - 1) % 2 ^ 24, isRead := true, owner := o, dst := dst,
                       len := len, va := va, rkey := rkey, data := [], imm := none }
  let t := { s with requests := s.requests ++ [r] }
  if s.issues q then (t.setQp q { x with npsn := (x.npsn + pk) % 2 ^ 24 }).sendQp q (.rdmaRead q r.psn va rkey len) else t

/-- An RDMA WRITE that the device issues on a queue pair. -/
def issueWrite (q va rkey : Nat) (data : List Byte) (imm : Option Word) (o : ReqOwner) (s : State) : State :=
  let x := s.qp q
  let pk := max 1 (ceilDiv data.length (1024 * 2 ^ s.fld (F.qpDestPmtu q)))
  let r : Request := { q := q, psn := x.npsn, last := (x.npsn + pk - 1) % 2 ^ 24, isRead := false, owner := o, dst := 0,
                       len := data.length, va := va, rkey := rkey, data := data, imm := imm }
  let t := { s with requests := s.requests ++ [r] }
  if s.issues q then (t.setQp q { x with npsn := (x.npsn + pk) % 2 ^ 24 }).sendQp q (.rdmaWrite q r.psn va rkey data imm) else t

/-- The requests that waited for RTS go out, in order. -/
def startRequests (q : Nat) (s : State) : State :=
  (s.requests.filter fun r => r.q == q).foldl (fun t r =>
    if r.isRead then issueRead q r.va r.rkey r.len r.dst r.owner t else issueWrite q r.va r.rkey r.data r.imm r.owner t)
    { s with requests := s.requests.filter fun r => r.q != q }

/-- The configured T3 region of a partition: queue pair, virtual address, remote key. -/
def State.t3Region (s : State) (p : Nat) : Option (Nat × Nat × Nat) :=
  match s.cfg with | some c => (c.parts[p]?).map fun x => (x.t3Qp, x.t3Va, x.t3Rkey) | none => none

/-! ### What a lender offers (R258, R259) -/

/-- A handle names the partition and the first granule; the lent pages of a partition's pool. -/
def handleOf (p g : Nat) : Nat := p * 2 ^ 30 + g
def State.lentOf (s : State) (p : Nat) : List (Nat × LentPage) := s.lentPages.filter fun x => x.1 / 2 ^ 30 == p

/-- Granules of a partition's pool that are lent. -/
def State.lentGranules (s : State) (p : Nat) : Nat := (s.lentOf p).foldl (fun n x => n + x.2.granules) 0

/-- What a partition offers. -/
def State.offerOf (s : State) (p : Nat) : Nat :=
  if s.partValid p && s.on (F.spnLendLendEn p) then min (s.poolGranules p - s.lentGranules p) (s.t1Free p - s.highWater p) else 0

/-- What the device offers to each borrower it can reach. -/
def State.offerTotal (s : State) : Nat := ((List.range 4).map s.offerOf).sum

/-- Some lending partition is protected: its messages need an encrypted port. -/
def State.lendGuarded (s : State) : Bool := (List.range 4).any fun p => s.on (F.spnLendLendEn p) && s.guarded p

/-- The devices that memory is offered to: the peers of the fabric group, and for a pair shadow its primary (R28, R29). -/
def State.lendPeers (s : State) : List Nat := if s.fld F.rdeStatusPairState = 2 then s.peersBy s.pairPort else s.peers

/-- OFFER to one peer. -/
def sendOffer (pos : Nat) (s : State) : State :=
  let n := s.offerTotal
  let s := sendLend pos 1 s.lendGuarded (lendMsg 0 n) s
  s.setLendPair pos { s.lendPair pos with offeredOut := n }

/-- A change of the offer goes out to every peer; every operation that changes a partition's free T1 ends with it. -/
def offerChanged (s : State) : State :=
  s.lendPeers.foldl (fun t q => if (t.lendPair q).offeredOut != t.offerTotal then sendOffer q t else t) s

/-! ### Home copies in other tiers (R246, R263, R264) -/

/-- PLACE of a page at a lender, in parts of 8 KiB (R343, R344); the lender's answer gives the handle. -/
def placeAt (p pg lender : Nat) (s : State) : State :=
  let (pk, form) := packForm s p pg (s.page pg).layout
  let n := ceilDiv form.length 4096
  let parts := ceilDiv form.length 8192
  let s := (List.range parts).foldl (fun t i =>
    sendLend lender 2 (s.guarded p)
      { packed := pk, part := i, lastPart := decide (i + 1 = parts), src := 0, seq := 0, handle := 0, arg := n,
        payload := (form.drop (8192 * i)).take 8192 } t) s
  let l := s.lendPair lender
  s.setLendPair lender { l with placing := l.placing ++ [(pg, (s.page pg).layout)], offered := l.offered - n }

/-- Granules of 4 KiB that a page takes at a lender. -/
def State.placeGranules (s : State) (pg : Nat) : Nat := (packGranules (s.page pg).layout (s.stripes pg)).getD 16

/-- The entry of a page whose home is packed with its layout of now, or plain where that saves nothing. -/
def State.repacked (s : State) (pg : Nat) (x : Page) : Page :=
  let bs := s.stripes pg
  match packGranules x.layout bs with
  | some g => { x with packed := true, granules := g, waferMap := waferMapOf x.layout bs, form := x.layout }
  | none => { x with packed := false, granules := 0, waferMap := 0, form := x.layout }

/-- A home copy in T2 or T3 is rewritten: the page's bytes go out again. A T2 page is placed anew, and the answer to that PLACE frees its
old handle; its T3 copy is written with it, and the page is backed again once both are. With the T3 region down the copy there is
stale. -/
def writeBackRemote (p pg : Nat) (s : State) : State :=
  let x := s.page pg
  let form := (packForm s p pg x.layout).2
  let s := match x.t3Slot, s.t3Region p with
    | some k, some (q, va, rk) => if s.t3Down p then s else issueWrite q (va + k * 65536) rk form none (.t3 p pg) s
    | _, _ => s
  if x.home = .t2 then placeAt p pg x.lender (s.setPage pg { x with backed := false })
  else s.setPage pg (s.repacked pg x)

/-- The granules held at a lender are counted (SPN_BORROWED, SPN_LEND_PEER_GRn). -/
def addBorrowed (pos : Nat) (d : Int) (s : State) : State :=
  let up (v : Nat) : Nat := unsignedOf 32 (v + d)
  let s := s.setFld F.spnBorrowedBorrowed (up (s.fld F.spnBorrowedBorrowed))
  match (List.range 8).find? fun n => s.on (F.spnLendPeerValid n) && s.fld (F.spnLendPeerPos n) == pos with
  | some n => s.setFld (F.spnLendPeerGrGranules n) (up (s.fld (F.spnLendPeerGrGranules n)))
  | none => s

/-- The old place of a page is given back: a handle freed at its lender, other places by the entry alone. -/
def freeHome (p : Nat) (x : Page) (s : State) : State :=
  if x.home == .t2 && x.location != 0 then
    addBorrowed x.lender (-(if x.packed then x.granules else 16 : Nat)) (sendLend x.lender 6 (s.guarded p) (lendMsg x.location 0) s)
  else s

/-- The entry of a page with a new home in T1, packed where its class packs in T1 and that saves space (R236); none without room. -/
def State.t1Entry (s : State) (p pg : Nat) (x : Page) : Option Page :=
  let base := { x with home := .t1, lender := 0, backed := false, backSlot := none, form := x.layout }
  let bs := s.stripes pg
  match (if (s.policy p x.cls).waferT1 then packGranules x.layout bs else none) with
  | some g => (s.t1Place p g).map fun l =>
      { base with packed := true, granules := g, waferMap := waferMapOf x.layout bs, location := l }
  | none => (s.t1Place p 16).map fun l => { base with packed := false, granules := 0, waferMap := 0, location := l / 16 }

/-- A page takes an entry with a home in T1: its old place is freed and the new one written. -/
def putT1 (p pg : Nat) (y : Page) (s : State) : State :=
  offerChanged (t1WritePage p pg ((freeHome p (s.page pg) s.spend).setPage pg y))

/-- The write-back can reach the page's home: only a T3 region that is down keeps it from there (R246, R265). -/
def State.homeReached (s : State) (p : Nat) (x : Page) : Bool := !(x.home == .t3 && s.t3Down p)

/-- A write-back takes the page to T1: its home is T2 or T3, its class allows T1, and free T1 is at least the low watermark. -/
def State.promoted (s : State) (p : Nat) (x : Page) : Bool :=
  (x.home == .t2 || x.home == .t3) && (s.policy p x.cls).promotes && decide (s.lowWater p ≤ s.t1Free p)

/-- Every dirty stripe of a cached page goes back to its home; a T2 or T3 page goes to a new home in T1 where its class and the
free T1 allow (R246): that is promotion. A stripe that can reach no home stays dirty. -/
def writeBack (p pg : Nat) (s : State) : State :=
  if !(s.page pg).dirty then s
  else
    let s := meetRange (pg * 65536) 65536 s
    let x := s.page pg
    let clean := { x with dirty := false, dirtyStripes := 0 }
    match (if s.promoted p x then s.t1Entry p pg clean else none) with
    | some y => putT1 p pg y s
    | none =>
      if !s.homeReached p x then s
      else if x.home = .t2 ∨ x.home = .t3 then writeBackRemote p pg (s.setPage pg clean)
      else if x.home != .t1 then s.setPage pg clean
      else if !x.packed then
        let ks := (List.range 32).filter fun k => x.dirtyStripes.toNat.testBit k
        let s := t1Write p (ks.map fun k => (x.unitBase + k, 0, 32)) (s.setPage pg clean)
        let bad := s.poison.filter fun w => w / 2048 == pg && ks.contains (w / 64 % 32)
        { s with poison := (bad.map fun w => w ^^^ 1).foldl poisonAdd s.poison
                 flips := s.flips.filter fun f => !(f.1 / 1024 == pg && ks.contains (f.1 / 32 % 32)) }
      else
        -- a packed home is packed again at its new size
        let y := s.repacked pg clean
        if y.packed && decide (y.granules ≤ x.granules) then offerChanged (t1WritePage p pg (s.setPage pg y))
        else match s.t1Entry p pg clean with
          | some z => putT1 p pg z s
          | none => s

/-- A dirty page may not be evicted while its write-back has nowhere to go (R246). -/
def State.evictable (s : State) (p : Nat) (x : Page) : Bool :=
  !x.dirty || s.homeReached p x || (s.promoted p x && (s.t1Place p 16).isSome)

/-- Cached pages of a partition that may be evicted, the oldest last access first. -/
def State.victim (s : State) (p : Nat) : Option Nat :=
  let vs := (s.partPages p).filter fun x => x.2.cached && !x.2.window && s.evictable p x.2
  (vs.foldl (fun (b : Option (Nat × Page)) x => match b with
    | none => some x
    | some y => if x.2.last < y.2.last then some x else b) none).map (·.1)

/-- The errors of a page's copy in T0 go with it, and with them the poison that is that copy's alone. -/
def dropErrors (pg : Nat) (s : State) : State :=
  let x := s.page pg
  let mine (w : Nat) : Bool := w / 2048 == pg && x.inT0 (w / 64 % 32)
  { s with poison := s.poison.filter fun w => !(mine w && tabFind s.upsets w == some [])
           upsets := s.upsets.filter fun u => !mine u.1 }

/-- The cached copy of a page leaves the cache, written back first; a copy that cannot be written back stays. -/
def evict (p pg : Nat) (s : State) : State :=
  let s := writeBack p pg s
  if (s.page pg).dirty then s
  else
    let s := dropErrors pg s
    s.setPage pg { s.page pg with cached := false, valid := 0, cacheSlot := 0, window := false }

/-- A cache slot for a page, evicting one victim when none is free; none when every candidate is passed over. -/
def cacheSlotFor (p pg : Nat) (s : State) : Option State :=
  let used (t : State) := (t.partPages p).filterMap fun x => if x.2.cached && !x.2.window then some x.2.cacheSlot else none
  let place (t : State) : Option State :=
    (freeSlot (used t) (t.pick (t.cacheSlots p)) (t.cacheSlots p)).map fun k =>
      let x := t.page pg
      t.spend.setPage pg { x with cached := true, cacheSlot := k, valid := 0, dirty := false, dirtyStripes := 0 }
  match place s with
  | some t => some t
  | none => match s.victim p with
    | some v => place (evict p v s)
    | none => none

/-- One stripe of a page is valid in its cache slot. -/
def fillValid (pg stripe : Nat) (s : State) : State :=
  let x := s.page pg
  s.setPage pg { x with valid := x.valid ||| BitVec.ofNat 32 (2 ^ stripe) }

/-- A stripe of a page in T1 is filled into its cache slot; the fill reads T1. -/
def fillHome (pg stripe : Nat) (s : State) : State :=
  if (s.page pg).valid.toNat.testBit stripe then s else fillValid pg stripe (meetRange (pg * 65536 + stripe * 2048) 2048 s)

/-- Where a stripe lies in the stored form of its page: offset and bytes, as the directory of a packed page says. -/
def storedAt (s : State) (p pg stripe : Nat) : Nat × Nat :=
  if (storedForm s p pg).1 then packedAt s pg stripe else (2048 * stripe, 2048)

/-- The payload of a stripe has come from a lender or a host: it is decrypted, decoded as its header says, and checked (R250, R252). The
bytes it decodes to; none where they fail the check. An encrypted payload that is not the one sent out decrypts to nothing that
passes. -/
def State.received (s : State) (p pg k : Nat) (payload : List Byte) : Option (List Byte) :=
  let x := s.page pg
  let (o, n) := storedAt s p pg k
  let sent := ((storedForm s p pg).2.drop o).take n
  if !(storedForm s p pg).1 then (if s.guarded p && payload != sent then none else some (padTo 2048 payload))
  else if s.guarded p then (if payload = sent then some (s.bytes (pg * 65536 + 2048 * k) 2048) else none)
  else
    let h := leAt (packPage x.form (s.stripes pg)) (8 * k) 8
    match waferDecode (bitsAt h 2 2) { method := bitsAt h 0 2, w := bitsAt h 4 4, b := bitsAt h 8 8, payload := payload } with
    | some bs => if crc32c bs = bitsAt h 32 32 then some bs else none
    | none => none

/-- A stripe's payload answers its fill: what it decodes to is the stripe's data; a payload that fails the check is delivered poisoned, with
one record (R252). A plain encrypted stripe has no check of its own: it decrypts to bytes that nothing says. -/
def takeFill (p pg k : Nat) (payload : List Byte) (s : State) : State :=
  let a := pg * 65536 + k * 2048
  let s := match s.received p pg k payload with
    | some bs => garble a (s.bytes a 2048) bs s
    | none =>
      if (storedForm s p pg).1 then
        errRecord { bank := 6, unit := p, cause := 3, cls := 1, part := some p, address := a } (s.poisonRange a 2048)
      else { s.spend with mem := memPutAll s.mem a (leBytes 2048 (Config.value s.clock.freeIdx)) }
  { s with fills := s.fills.map fun f => if f.page == pg && f.stripe == k then { f with answered := true } else f }

/-- Outstanding RDMA READs of a queue pair; it has at most 16 (R353). -/
def State.readsOut (s : State) (q : Nat) : Nat := (s.requests.filter fun r => r.q == q && r.isRead).length

/-- A fill from a lender or a host goes out, once (R243). -/
def requestFill (p pg stripe : Nat) (install demand : Bool) (s : State) : State :=
  if s.fills.any fun f => f.page == pg && f.stripe == stripe then s
  else
    let x := s.page pg
    let note (psn : Nat) (t : State) : State :=
      { t with fills := t.fills ++ [{ page := pg, stripe := stripe, answered := false, psn := psn, install := install, demand := demand }] }
    if x.home = .t2 then sendLend x.lender 4 (s.guarded p) (lendMsg x.location stripe) (note 0 s)
    else match s.t3Region p with
      | some (q, va, rk) =>
        let (o, n) := storedAt s p pg stripe
        if 16 ≤ s.readsOut q then s
        else issueRead q (va + x.location * 65536 + o) rk n (pg * 65536 + stripe * 2048) (.t3 p pg) (note (s.qp q).npsn s)
      | none => s

/-- The fill of a stripe is over. -/
def dropFill (pg stripe : Nat) (s : State) : State :=
  { s with fills := s.fills.filter fun f => !(f.page == pg && f.stripe == stripe) }

/-- A fill from a T3 region that is down returns poisoned data, with one record (R265). -/
def fillDown (p pg stripe : Nat) (s : State) : State :=
  errRecord { bank := 6, unit := p, cause := 5, cls := 1, part := some p, address := pg * 65536 + stripe * 2048 } s

/-- The translation of an access (R242): the entry's tag moves to the front of the cache; a miss walks both levels, and is counted. Which
tag a full cache gives up is the model's choice, the longest unused (log entry 196). -/
def translate (p pg : Nat) (s : State) : State :=
  let x := s.xlat
  let key := (p, pg)
  let top := (p, pg / 4096)
  if x.entries.contains key then { s with xlat := { x with entries := key :: x.entries.erase key } }
  else
    { s with xlat := { entries := (key :: x.entries).take 32768, tops := (top :: x.tops.erase top).take 256 } }.bump64 .spnXcMissLo .spnXcMissHi 1

/-- How one stripe of one page is served: whether it is available, whether its data read poisoned, and the record that the access writes
once it is served, by its cause. -/
structure Served where
  state : State
  ok : Bool
  bad : Bool
  note : Option Nat

/-- The page's entry takes the dirty bit of a stripe that is valid in the cache. -/
def markDirty (pg k : Nat) (s : State) : State :=
  let y := s.page pg
  if y.cached && y.valid.toNat.testBit k then
    s.setPage pg { y with dirty := true, dirtyStripes := y.dirtyStripes ||| BitVec.ofNat 32 (2 ^ k) }
  else s

/-- A cache slot for a page that has none yet. -/
def slotFor (p pg : Nat) (s : State) : Option State := if (s.page pg).cached then some s else cacheSlotFor p pg s

/-- One stripe of one page is made available to an access, or its fill is asked for (Table 8.6, R265). -/
def touchStripe (p : Nat) (write : Bool) (st : Nat) (s : State) : Served :=
  let pg := st / 32
  let k := st % 32
  let s := translate p pg s
  let x := s.page pg
  let pol := s.policy p x.cls
  let served (t : State) : Served := { state := if write then markDirty pg k t else t, ok := true, bad := false, note := none }
  let waits (t : State) : Served := { state := t, ok := false, bad := false, note := none }
  match x.home with
  | .unmapped => { state := s, ok := true, bad := true, note := some 1 }
  | .lost => { state := s, ok := true, bad := true, note := if write then some 2 else none }
  | .t0 => { state := s.touchPage pg, ok := true, bad := false, note := none }
  | .t1 =>
    if x.cached then served (fillHome pg k (s.touchPage pg))
    else if x.packed && (pol.install || write) || (!x.packed && pol.install && !write) then
      match cacheSlotFor p pg s with
      | some t => served (fillHome pg k (t.touchPage pg))
      | none => waits s
    else { state := s.touchPage pg, ok := true, bad := false, note := none }
  | _ =>
    if x.cached && x.valid.toNat.testBit k then served (s.touchPage pg)
    else if x.home = .t3 ∧ s.t3Down p = true then
      if write then
        match slotFor p pg s with
        | some t => served (fillValid pg k ((fillDown p pg k t).poisonRange (st * 2048) 2048))
        | none => waits s
      else { state := s, ok := true, bad := true, note := some 5 }
    else if s.fills.any fun f => f.page == pg && f.stripe == k && f.answered then
      if pol.install || write || x.cached then
        match slotFor p pg s with
        | some t => served (dropFill pg k (fillValid pg k (t.touchPage pg)))
        | none => waits s
      else { state := s.touchPage pg, ok := true, bad := false, note := none }
    else waits (requestFill p pg k (pol.install || write || x.cached) true s)

/-- What an access has met so far: whether all its stripes are there, those whose data read poisoned, the records to write. -/
structure Touching where
  state : State
  ok : Bool
  bad : List Nat
  notes : List (Nat × Nat)

/-- One range of an access, stripe by stripe: an unmapped or lost page gives one record for the whole range, a T3 region that is down one
for each fill (R235, R265). -/
def touchRange (p : Nat) (write : Bool) (r : Touching) (a : Nat × Nat) : Touching :=
  (stripesOf a.1 a.2).foldl (fun r' st =>
    let v := touchStripe p write st r'.state
    let said := (r'.notes.drop r.notes.length).any fun n => n.1 != 5
    { state := v.state, ok := r'.ok && v.ok, bad := if v.bad && !write then r'.bad ++ [st] else r'.bad
      notes := match v.note with
        | some c => if c != 5 && said then r'.notes else r'.notes ++ [(c, max a.1 (st * 2048))]
        | none => r'.notes }) r

/-- The whole access: every stripe is served in turn; it waits when a stripe is not available. -/
def touch (p : Nat) (acc : Access) (s : State) : Touch :=
  let r := acc.reads.foldl (touchRange p false) { state := s, ok := true, bad := [], notes := [] }
  let r := acc.writes.foldl (touchRange p true) r
  if r.ok then
    let used := (acc.reads ++ acc.writes).flatMap fun x => stripesOf x.1 x.2
    let t := { r.state with fills := r.state.fills.filter fun f => !(f.answered && used.contains (f.page * 32 + f.stripe)) }
    let t := r.notes.foldl (fun u n => errRecord { bank := 6, unit := p, cause := n.1, cls := 1, part := some p, address := n.2 } u) t
    .ok (acc.reads.foldl (fun u x => meetRange x.1 x.2 u) t) r.bad
  else .wait r.state

/-- A range reads poisoned after a touch. -/
def State.bad (s : State) (bad : List Nat) (a n : Nat) : Bool :=
  s.poisoned a n || (stripesOf a n).any fun st => bad.contains st

/-- The stripes of a range that wait for a lender or a host arrive in the span-page cache: an access of the device's own, in the middle of
an act, takes the time that its fills take (log entry 13). -/
def bringIn (p : Nat) (a n : Nat) (s : State) : State :=
  (stripesOf a n).foldl (fun t st =>
    let x := t.page (st / 32)
    if (x.home == .t2 || x.home == .t3) && !x.inT0 (st % 32) then
      match slotFor p (st / 32) (dropFill (st / 32) (st % 32) t) with
      | some u => fillValid (st / 32) (st % 32) u
      | none => dropFill (st / 32) (st % 32) t
    else t) s

/-- Bytes of a span structure that the device reads on its own behalf (records, tables), through the same service. -/
def readNow (p a n : Nat) (s : State) : State × List Byte × Bool :=
  match touch p { reads := [(a, n)], writes := [] } s with
  | .ok t bad => (t, t.bytes a n, t.bad bad a n)
  | .wait t => match touch p { reads := [(a, n)], writes := [] } (bringIn p a n t) with
    | .ok u bad => (u, u.bytes a n, u.bad bad a n)
    | .wait u => (u, u.bytes a n, u.poisoned a n)

/-- Bytes the device writes on its own behalf. -/
def writeNow (p a : Nat) (bs : List Byte) (s : State) : State :=
  match touch p { reads := [], writes := [(a, bs.length)] } s with
  | .ok t _ => t.writeBytes a bs
  | .wait t => match touch p { reads := [], writes := [(a, bs.length)] } (bringIn p a bs.length t) with
    | .ok u _ => u.writeBytes a bs
    | .wait u => u.writeBytes a bs

/-! ### Homes and moves -/

/-- The source of a move is read (R245): its errors are met, and whether it holds poisoned data, which cancels the move. -/
def readSource (pg : Nat) (s : State) : State × Bool :=
  let t := meetRange (pg * 65536) 65536 s
  (t, t.poisoned (pg * 65536) 65536)

/-- A move is cancelled and counted; the page stays. -/
def cancelMove (pg : Nat) (s : State) : State :=
  (s.setPage pg { s.page pg with moving := false, moveTo := none, moveHit := false }).bump F.spnMoveAbortsAborts

/-- A move of a home copy begins (R245): to T2 the page is placed at once, and the lender's answer ends the move. -/
def startMove (p pg : Nat) (dest : Home) (s : State) : State :=
  let s := s.setPage pg { s.page pg with moving := true, moveHit := false, moveTo := some dest }
  if dest = .t2 then
    match s.lenderFor (s.placeGranules pg) with
    | some l =>
      let (s, bad) := readSource pg s
      if bad then cancelMove pg s else placeAt p pg l s
    | none => s
  else s

/-- The new entry of a page whose home becomes `to`, if the tier has room (R241, R245, R248). -/
def newHome (p pg : Nat) (dest : Home) (s : State) : Option State :=
  let x := s.page pg
  let base := { x with moving := false, moveTo := none, moveHit := false, backed := false, backSlot := none, lender := 0 }
  let gone (t : State) : State := { t with flips := t.flips.filter fun f => f.1 / 1024 != pg }
  let done (y : Page) : State := offerChanged (gone ((freeHome p x s.spend).setPage pg y))
  match dest with
  | .t0 => (s.pinPlace p).map fun k =>
      done { base with home := .t0, location := k, cached := false, dirty := false, valid := 0, dirtyStripes := 0
                       packed := false, granules := 0, waferMap := 0 }
  | .t1 => (s.t1Entry p pg base).map fun y => putT1 p pg y s
  | .t3 => (s.t3Place p).map fun k =>
      let y := s.repacked pg { base with home := .t3, location := k }
      match s.t3Region p with
      | some (q, va, rk) => issueWrite q (va + k * 65536) rk (packForm s p pg x.layout).2 none (.t3 p pg) (done y)
      | none => done y
  | _ => none

/-- A page is lost (R261, R243): its home becomes 7 and one record names it. -/
def losePage (p pg : Nat) (record : Bool) (s : State) : State :=
  let x := s.page pg
  let s := offerChanged ({ s with flips := s.flips.filter fun f => f.1 / 1024 != pg }.setPage pg
    { Page.empty with home := .lost, cls := x.cls, layout := x.layout })
  if record then errRecord { bank := 6, unit := p, cause := 2, cls := 1, part := some p, address := pg * 65536 } s else s

/-- A page becomes unmapped: home and cached copy are freed without write-back (R254), and its translation goes. -/
def unmapPage (p pg : Nat) (s : State) : State :=
  let x := s.page pg
  let s := freeHome p x s
  offerChanged { s with pages := tabDel s.pages pg, fills := s.fills.filter fun f => f.page != pg
                        flips := s.flips.filter fun f => f.1 / 1024 != pg
                        xlat := { s.xlat with entries := s.xlat.entries.filter fun k => k != (p, pg) } }

/-- A span page's bytes become zero and clean. -/
def zeroPage (pg : Nat) (s : State) : State :=
  { s with mem := s.mem.filter fun b => !(b.1 / 65536 == pg), poison := s.poison.filter fun w => !(w / 2048 == pg),
           upsets := s.upsets.filter fun u => !(u.1 / 2048 == pg), flips := s.flips.filter fun f => f.1 / 1024 != pg }

/-- MAP of one page (R248, Table 8.10): zero-filled, with the home its class gives; none when no tier has room. -/
def mapPage (p pg cls : Nat) (s : State) : Option State :=
  let pol := s.policy p cls
  let s0 := (zeroPage pg s).setPage pg { Page.empty with home := .unmapped, cls := cls, layout := pol.layout, form := pol.layout }
  let t2 (t : State) : Option State :=
    match t.lenderFor 1 with
    | some l =>
      let x := t.page pg
      some (placeAt p pg l (t.setPage pg { x with home := .t2, lender := l, packed := true, granules := 1,
                                                  waferMap := 0xFFFFFFFF, moving := true, moveTo := some .t2 }))
    | none => none
  let first (l : List (Option State)) : Option State := l.findSome? id
  match pol.pin with
  | some .t2 => first [t2 s0, newHome p pg .t3 s0]
  | some h => newHome p pg h s0
  | none => first [if pol.t1Ok then newHome p pg .t1 s0 else none, if pol.t2Ok then t2 s0 else none,
                   if pol.t3Ok then newHome p pg .t3 s0 else none]

end Sys2Proof.Machine
end

