-- ==== Sys2Proof/Machine/SpanCmds.lean ====
section
/-! DEFINITION. Mapping commands, policy changes, page moves, demotion, stripe fills and the slab window (R245 to R257). -/
namespace Sys2Proof.Machine

/-! ### Translation entries as software reads them (Table 8.4) -/

def Home.code : Home → Nat
  | .unmapped => 0 | .t0 => 1 | .t1 => 2 | .t2 => 3 | .t3 => 4 | .lost => 7

/-- The 128 bits of a translation entry. -/
def Page.entry (x : Page) : Nat :=
  x.home.code + boolNat x.packed * 2 ^ 3 + boolNat x.cached * 2 ^ 4 + boolNat x.dirty * 2 ^ 5 + boolNat x.moving * 2 ^ 6
  + boolNat x.backed * 2 ^ 7 + x.layout % 4 * 2 ^ 8 + x.cls % 4 * 2 ^ 10 + x.lender % 4096 * 2 ^ 16
  + x.location % 2 ^ 32 * 2 ^ 32 + x.cacheSlot % 2 ^ 16 * 2 ^ 64 + x.granules % 16 * 2 ^ 80 + x.waferMap.toNat * 2 ^ 96

/-! ### Mapping commands (R254, Table 8.10) -/

/-- Statuses of SPN_CMD_STATUS. -/
def spnRange : Nat := 2
def spnNoSpace : Nat := 3
def spnTableFull : Nat := 4
def spnMapped : Nat := 6
def spnUnmapped : Nat := 7

/-- One page after another from `pg`; the run stops at the first page that fails. -/
def runPages (p : Nat) (one : Nat → State → State × Option Nat) : Nat → Nat → Nat → State → State × Nat × Nat
  | 0, _, done, s => (s, done, 0)
  | n + 1, pg, done, s =>
    if !inRange (s.range p) (pg * 65536) 65536 then (s, done, spnRange)
    else match one pg s with
      | (t, none) => runPages p one n (pg + 1) (done + 1) t
      | (t, some st) => (t, done, st)

/-- First span page and page count of the command. -/
def State.cmdPage (s : State) (p : Nat) : Nat := s.pair (.spnCmdAddrLo p) (.spnCmdAddrHi p) / 65536
def State.cmdCount (s : State) (p : Nat) : Nat := s.fld (F.spnCmdCountCount p)

/-- The command's result in SPN_CMD_STATUS. -/
def cmdDone (p : Nat) (r : State × Nat × Nat) : State :=
  ((r.1.setFld (F.spnCmdStatusStatus p) r.2.2).setFld (F.spnCmdStatusDone p) r.2.1).setFld (F.spnCmdStatusBusy p) 0

/-- A command is running (R254). -/
def State.spnBusy (s : State) (p : Nat) : Bool := s.on (F.spnCmdStatusBusy p)

/-- Level-2 tables that the table area holds beside the level-1 table (R241). -/
def State.tableMax (s : State) (p : Nat) : Nat :=
  let area := match s.cfg with | some c => ((c.parts[p]?.map (·.tableMib)).getD 0) * mib | none => 0
  (area - 8 * s.fld (F.spnRangeSizeSize p)) / 65536

/-- Level-2 tables in use: one per 256 MiB with a mapped page. -/
def State.tablesUsed (s : State) (p : Nat) : List Nat :=
  (s.partPages p).foldl (fun l x => if l.contains (x.1 / 4096) then l else (x.1 / 4096) :: l) []

/-- MAP of one page. -/
def mapOne (p cls pg : Nat) (s : State) : State × Option Nat :=
  if (s.page pg).home != .unmapped then (s, some spnMapped)
  else
    let ts := s.tablesUsed p
    if !ts.contains (pg / 4096) && decide (s.tableMax p ≤ ts.length) then (s, some spnTableFull)
    else match mapPage p pg cls s with
      | some t => ({ t with mapped := tabPut t.mapped p (tabGet 0 t.mapped p + 1) }, none)
      | none => (s, some spnNoSpace)

/-- UNMAP of one page. -/
def unmapOne (p pg : Nat) (s : State) : State × Option Nat :=
  if (s.page pg).home == .unmapped then (s, some spnUnmapped)
  else
    let t := unmapPage p pg s
    ({ t with mapped := tabPut t.mapped p (tabGet 0 t.mapped p - 1) }, none)

/-- The pin tier of the page's class asks for another home; a page in T3 pinned to T2 keeps T3 where no lender has room (R248). -/
def pinMove (p pg : Nat) (s : State) : State :=
  let x := s.page pg
  match (s.policy p x.cls).pin with
  | some h =>
    if x.takes && x.home != h && x.moveTo != some h && !(h == .t2 && x.home == .t3 && (s.lenderFor (s.placeGranules pg)).isNone)
    then startMove p pg h s else s
  | none => s

/-- A page pinned to T2 that T3 has taken (R248): it keeps T3 while its class and the class's pin stay. -/
def State.keepsT3 (s : State) (p : Nat) (x : Page) : Bool := x.home == .t3 && (s.policy p x.cls).pin == some .t2

/-- SET_CLASS of one page. -/
def setClassOne (p cls pg : Nat) (s : State) : State × Option Nat :=
  let x := s.page pg
  if x.home == .unmapped then (s, some spnUnmapped)
  else
    let t := s.setPage pg { x with cls := cls, layout := (s.policy p cls).layout }
    (if x.cls == cls && s.keepsT3 p x then t else pinMove p pg t, none)

/-- Every stripe of a cached page in T1 is filled; the fills read T1. -/
def fillWhole (pg : Nat) (s : State) : State :=
  let x := s.page pg
  let t := ((List.range 32).filter fun k => !x.valid.toNat.testBit k).foldl (fun u k => meetRange (pg * 65536 + 2048 * k) 2048 u) s
  t.setPage pg { x with valid := 0xFFFFFFFF }

/-- The stripes that a cached page still lacks are filled: at once from T1, else asked for, as far as the queue pair takes READs. With the
T3 region down each fill returns poisoned data, which no copy keeps (R265). Whether the copy is whole, or as whole as it can be. -/
def fillRest (p pg : Nat) (s : State) : State × Bool :=
  let x := s.page pg
  let ks := (List.range 32).filter fun k => !x.valid.toNat.testBit k
  if ks.isEmpty then (s, true)
  else if x.home == .t1 then (fillWhole pg s, true)
  else if x.home == .t3 && s.t3Down p then (ks.foldl (fun t k => fillDown p pg k t) s, true)
  else (ks.foldl (fun t k => requestFill p pg k true false t) s, false)

/-- A page is filled into the span-page cache; whether that is done. Without a slot it waits (R246). -/
def prefetchPage (p pg : Nat) (s : State) : State × Bool :=
  let x := s.page pg
  if x.home == .t0 || !x.takes then (s, true)
  else match slotFor p pg s with
    | none => (s, false)
    | some t => fillRest p pg t

/-- A PREFETCH goes on, page by page, until a page has to wait for fills; it then runs on, with busy set (R254). -/
def prefetchRun (p : Nat) : Nat → Nat → Nat → State → State
  | 0, _, done, s => cmdDone p ({ s with spnRuns := tabDel s.spnRuns p }, done, 0)
  | n + 1, pg, done, s =>
    let fails (t : State) (st : Nat) : State := cmdDone p ({ t with spnRuns := tabDel t.spnRuns p }, done, st)
    if !inRange (s.range p) (pg * 65536) 65536 then fails s spnRange
    else if (s.page pg).home == .unmapped then fails s spnUnmapped
    else match prefetchPage p pg s with
      | (t, true) => prefetchRun p n (pg + 1) (done + 1) t
      | (t, false) =>
        (({ t with spnRuns := tabPut t.spnRuns p { page := pg, left := n, done := done } }.setFld (F.spnCmdStatusBusy p) 1).setFld
          (F.spnCmdStatusStatus p) 0).setFld (F.spnCmdStatusDone p) done

/-- A PREFETCH that waits goes on after an event that may let it: a fill has come, a slot or a tier has become free. -/
def prefetchGo (p : Nat) (s : State) : State :=
  match tabFind s.spnRuns p with
  | some r => prefetchRun p (r.left + 1) r.page r.done s
  | none => s

/-- QUERY: the first page's entry goes to SPN_XLATE0–3. -/
def queryOne (p pg : Nat) (s : State) : State × Option Nat :=
  if (s.page pg).home == .unmapped then (s, some spnUnmapped)
  else
    let e := (s.page pg).entry
    ((List.range 4).foldl (fun t n => t.setReg (.spnXlate p n) (BitVec.ofNat 32 (e / 2 ^ (32 * n)))) s, none)

def mapCmd (p cls : Nat) (s : State) : State := cmdDone p (runPages p (mapOne p cls) (s.cmdCount p) (s.cmdPage p) 0 s)
def unmapCmd (p : Nat) (s : State) : State := cmdDone p (runPages p (unmapOne p) (s.cmdCount p) (s.cmdPage p) 0 s)
def setClassCmd (p cls : Nat) (s : State) : State := cmdDone p (runPages p (setClassOne p cls) (s.cmdCount p) (s.cmdPage p) 0 s)
def prefetchCmd (p : Nat) (s : State) : State := prefetchRun p (s.cmdCount p) (s.cmdPage p) 0 s
def queryCmd (p : Nat) (s : State) : State := cmdDone p (runPages p (queryOne p) 1 (s.cmdPage p) 0 s)

/-- A command starts; while one runs the write is dropped, and the status reads BUSY. -/
def spnStart (p : Nat) (f : State → State) (s : State) : State :=
  if s.spnBusy p then s.setFld (F.spnCmdStatusStatus p) 1 else f s

/-- A write of SPN_CMD_OP (R254): other operations end with BAD_OP. -/
def spnCommand (p op cls : Nat) (s : State) : State := spnStart p (fun s =>
  match op with
  | 1 => mapCmd p cls s
  | 2 => unmapCmd p s
  | 3 => setClassCmd p cls s
  | 4 => prefetchCmd p s
  | 5 => queryCmd p s
  | _ => cmdDone p (s, 0, 5)) s

/-- A policy register has changed: every later packing of the class's pages takes its layout (R253). -/
def policyLayout (p cls : Nat) (s : State) : State :=
  (s.partPages p).foldl (fun t x => if x.2.cls = cls then t.setPage x.1 { x.2 with layout := (s.policy p cls).layout } else t) s

/-- A policy register has changed its pin: the class's pages move to the pin tier (R248, R253). -/
def policyMoves (p cls : Nat) (s : State) : State :=
  (s.partPages p).foldl (fun t x => if x.2.cls = cls then pinMove p x.1 t else t) s

/-! ### Moves (R245, R248, R264) -/

/-- A move goes on, or is tried again while the class pins its tier, or allows the demotion it is (R247, R248). -/
def State.stillMoves (s : State) (p : Nat) (x : Page) (dest : Home) : Bool :=
  let pol := s.policy p x.cls
  x.moving || match pol.pin with
    | some h => h == dest
    | none => dest == .t2 && x.home == .t1 && pol.t2Ok

/-! ### Demotion and reclaim (R247, R258) -/

/-- The page may be demoted: home T1, no pin, no move, and its class allows T2 or T3. -/
def State.demotable (s : State) (p : Nat) (x : Page) : Bool :=
  let pol := s.policy p x.cls
  x.home == .t1 && !x.moving && pol.pin.isNone && (pol.t2Ok || pol.t3Ok)

/-- The next page to demote, but for those passed over: lowest keep, then the oldest last access. -/
def State.nextDemotion (s : State) (p : Nat) (passed : List Nat) : Option Nat :=
  let key (x : Page) : Nat × Nat := ((s.policy p x.cls).keep, x.last)
  (((s.partPages p).filter fun x => s.demotable p x.2 && !passed.contains x.1).foldl (fun (b : Option (Nat × Page)) x => match b with
    | none => some x
    | some y => if (key x.2).1 < (key y.2).1 || ((key x.2).1 == (key y.2).1 && decide ((key x.2).2 < (key y.2).2)) then some x
                else b) none).map (·.1)

/-- What becomes of a demotion: the page leaves T1, no tier of its class has room, or an uncorrectable source has cancelled the move. -/
inductive Demoted | left | noRoom | cancelled
deriving DecidableEq, Repr

/-- Where a page demoted now goes: to T2 if its class allows and a lender has room, otherwise to T3. `carry`: poisoned data goes with it
(R290). -/
def demotePage (p pg : Nat) (carry : Bool) (s : State) : State × Demoted :=
  let pol := s.policy p (s.page pg).cls
  let toT2 := pol.t2Ok && (s.lenderFor (s.placeGranules pg)).isSome
  if !toT2 && !(pol.t3Ok && (s.t3Place p).isSome) then (s, .noRoom)
  else
    let (s, bad) := readSource pg s
    if bad && !carry then (cancelMove pg s, .cancelled)
    else if toT2 then
      let s := s.setPage pg { s.page pg with moving := true, moveHit := false, moveTo := some .t2 }
      match s.lenderFor (s.placeGranules pg) with
      | some l => (placeAt p pg l s, .left)
      | none => (s, .noRoom)
    else match newHome p pg .t3 s with
      | some t => (t, .left)
      | none => (s, .noRoom)

/-! ### Withdrawn blocks (R290) -/

/-- A lent page has a granule in a range of handles. -/
def overlaps (x : Nat × LentPage) (first count : Nat) : Bool := decide (x.1 < first + count) && decide (first < x.1 + x.2.granules)

/-- Pages of a partition, and pages lent from it, with a granule in a block. -/
def State.pagesIn (s : State) (p b : Nat) : List Nat :=
  ((s.partPages p).filter fun x => decide (x.2.unitBase < 32 * b + 32) && decide (32 * b < x.2.unitBase + x.2.unitCount)).map (·.1)
def State.lentIn (s : State) (p b : Nat) : List (Nat × LentPage) := s.lentPages.filter fun x => overlaps x (handleOf p (16 * b)) 16

/-- The page has a granule in a block that is being vacated. -/
def State.leaving (s : State) (p pg : Nat) : Bool :=
  (s.partMcgList p).any fun g => (s.mcg g).retiring.any fun x => x.2.any fun b => (s.pagesIn p b).contains pg

/-- A page leaves a withdrawn block: to a free place in T1, else to T2 or T3 as a demotion does; its poisoned data goes with it, and without
room, or cancelled by a write, the move is tried again. -/
def leaveBlock (p pg : Nat) (s : State) : State :=
  if s.lendPairs.any fun l => (l.2.placing.map (·.1)).contains pg then s
  else
    let (s, _) := readSource pg s
    match newHome p pg .t1 s with
    | some t => t
    | none => match demotePage p pg true s with
      | (t, .left) => t
      | (t, _) => startMove p pg .t1 t

/-! ### The end of a move (R245, R248) -/

/-- A page move finishes copying: the entry changes at one instant and the old place is free. An uncorrectable source cancels the
move; a tier without room leaves the page where it was, and the move is tried again at the next such event. A move to T2 ends
with the lender's answer. -/
def pageMoveComplete (pg : Nat) (s : State) : State :=
  match s.partOfAddr (pg * 65536), (s.page pg).moveTo with
  | some p, some dest =>
    if s.leaving p pg then leaveBlock p pg s
    else if !s.stillMoves p (s.page pg) dest then s.setPage pg { s.page pg with moveTo := none, moveHit := false } else
    let (s, bad) := readSource pg s
    let x := s.page pg
    if !x.takes then s.setPage pg { x with moving := false, moveTo := none }
    else if bad then cancelMove pg s
    else if dest == .t2 then
      if s.lendPairs.any fun l => (l.2.placing.map (·.1)).contains pg then s
      else if (s.lenderFor (s.placeGranules pg)).isSome then startMove p pg .t2 s
      else if x.home == .t3 then s.setPage pg { x with moving := false, moveTo := none, moveHit := false }
      else match newHome p pg .t3 s with
        | some t => t
        | none => s.setPage pg { x with moving := false, moveHit := false }
    else match newHome p pg dest s with
      | some t => t
      | none => s.setPage pg { x with moving := false, moveHit := false }
  | _, _ => s

/-! ### Demotion to the watermark (R247) -/

/-- Free T1 once the moves to T2 in progress have ended. -/
def State.t1Coming (s : State) (p : Nat) : Nat :=
  (s.partPages p).foldl (fun n x => if x.2.moving && x.2.moveTo == some .t2 then n + x.2.t1Granules else n) (s.t1Free p)

/-- Pages are demoted until free T1 reaches the high watermark or none is left that can go; whether some page found room neither in T2
nor in T3. -/
def demoteLoop (p : Nat) : Nat → List Nat → Bool → State → State × Bool
  | 0, _, short, s => (s, short && decide (s.t1Coming p < s.highWater p))
  | n + 1, passed, short, s =>
    if s.highWater p ≤ s.t1Coming p then (s, false)
    else match s.nextDemotion p passed with
      | none => (s, short)
      | some pg => match demotePage p pg false s with
        | (t, .left) => demoteLoop p n passed short t
        | (t, .noRoom) => demoteLoop p n (pg :: passed) true t
        | (t, .cancelled) => demoteLoop p n (pg :: passed) short t

/-- The lowest granule of a partition's lending pool: the pool is the top of its T1. -/
def State.poolBase (s : State) (p : Nat) : Nat := s.t1Linear p - s.poolGranules p

/-- Every granule of a range is unlent and no reclaim of it is open: it returns to the partition's own capacity. -/
def giveBack (p first count : Nat) (s : State) : State :=
  if (s.lentPages.any fun x => overlaps x first count) || (s.reclaims.any fun r => decide (r.first < first + count) && decide (first < r.first + r.count))
      || first != handleOf p (s.poolBase p) then s
  else { s with poolCut := tabPut s.poolCut p (tabGet 0 s.poolCut p + count) }

/-- RECLAIM of a range from a borrower, one at a time (R258). -/
def sendReclaim (p borrower first count : Nat) (s : State) : State :=
  if s.reclaims.any fun r => r.borrower == borrower then s
  else sendLend borrower 7 (s.guarded p) (lendMsg first count)
    { s with reclaims := s.reclaims ++ [{ borrower := borrower, first := first, count := count }] }

/-- The granules lent in blocks that are being vacated are reclaimed from their borrowers (log entry 197). -/
def reclaimBlocks (p : Nat) (s : State) : State :=
  ((s.partMcgList p).flatMap fun g => (s.mcg g).retiring.flatMap (·.2)).foldl (fun t b =>
    (t.lentIn p b).foldl (fun u x => sendReclaim p x.2.borrower (handleOf p (16 * b)) 16 u) t) s

/-- Free T1 is below the low watermark: the bottom of the pool is reclaimed, one range per borrower (R258, R259). -/
def reclaimPool (p : Nat) (s : State) : State :=
  if s.poolGranules p = 0 ∨ s.lowWater p ≤ s.t1Free p then s
  else
    let first := handleOf p (s.poolBase p)
    let count := min 8192 (s.poolGranules p)
    let bs := (s.lentPages.filter fun x => overlaps x first count).foldl (fun l x => if l.contains x.2.borrower then l else l ++ [x.2.borrower]) []
    let s := bs.foldl (fun t b => sendReclaim p b first count t) s
    giveBack p first count s

/-- DEMOTION (R247): below the low watermark pages leave T1, and the pool is reclaimed. -/
def demotion (p : Nat) (s : State) : State :=
  if !s.live || !s.partValid p || decide (s.lowWater p ≤ s.t1Free p) then s
  else
    let s := reclaimPool p s
    let (s, short) := demoteLoop p (s.partPages p).length [] false s
    let v := s.fld F.spnStatusT1Short
    s.setFld F.spnStatusT1Short (if short then v ||| 2 ^ p else v &&& (0xF ^^^ 2 ^ p))

/-! ### Retirement ends (R290) -/

/-- Usable MiB after the check reserve, the spares (512 KiB a package) and the retired blocks (R269, R292). -/
def usableMib (gib retired : Nat) : Nat := (gib * 992 * 16 - 8 - retired) / 16

/-- MCG_SPARES and MCG_RETIRED, MCG_USABLE_MIB follow the tables. -/
def refreshMcg (g : Nat) (s : State) : State :=
  let m := s.mcg g
  ((s.setFld (F.mcgSparesFree g) (256 - m.remaps.length)).setReg (.mcgRetired g) (BitVec.ofNat 32 m.retired.length)).setReg
    (.mcgUsableMib g) (BitVec.ofNat 32 (if m.fitted then usableMib (s.packageGib g) m.retired.length else 0))

/-- The blocks of failed rows of MCG `g` that hold nothing any more are retired: listed, counted and recorded. -/
def finishRetire (g : Nat) (s : State) : State :=
  match s.partOfMcg g with
  | none => s
  | some p =>
    let empty (x : RowId × List Nat) : Bool := x.2.all fun b => (s.pagesIn p b).isEmpty && (s.lentIn p b).isEmpty
    let m := s.mcg g
    let emptied := m.retiring.filter empty
    if emptied.isEmpty then s
    else
      let s := refreshMcg g (s.setMcg g { m with retired := m.retired ++ emptied.flatMap (·.2), retiring := m.retiring.filter fun x => !empty x })
      emptied.foldl (fun t x => errRecord { bank := 0x40 + g, unit := x.1.ch, cause := 6, cls := 1, address := rowIndex x.1 0, part := some p } t) s

/-- A page has left its place: retirements that waited for it end. -/
def finishRetires (s : State) : State :=
  (List.range 24).foldl (fun t g => if (t.mcg g).retiring.isEmpty then t else finishRetire g t) s

/-! ### Fills (R243, R265) -/

/-- A stripe fill whose data has come ends: into the cache slot where the class installs it, else it serves the access that waits.
With the T3 region down the fill ends poisoned: the access that waits meets R265, and a fill that none waits for leaves its record. -/
def stripeFill (pg stripe : Nat) (s : State) : State :=
  match s.partOfAddr (pg * 65536), s.fills.find? fun f => f.page == pg && f.stripe == stripe with
  | some p, some f =>
    if (s.page pg).home == .t3 && s.t3Down p then
      let t := dropFill pg stripe s
      if f.demand then t else fillDown p pg stripe t
    else if !f.answered then s
    else if f.install then
      match slotFor p pg s with
      | some t => dropFill pg stripe (fillValid pg stripe t)
      | none => s
    else s
  | _, _ => s

/-! ### The slab window (R255 to R257) -/

/-- The slab of a stream that an address lies in. -/
def StreamSt.slabOf (x : StreamSt) (a : Nat) : Option Nat :=
  if x.enabled && decide (x.base ≤ a) && decide (a < x.base + x.bytes) then some ((a - x.base) / x.slab) else none

/-- Span pages of a slab. -/
def StreamSt.pages (x : StreamSt) (slab : Nat) : List Nat :=
  pagesOf (x.base + slab * x.slab) (min x.slab (x.bytes - slab * x.slab))

def State.setStream (s : State) (p : Nat) (x : StreamSt) : State := { s with streams := tabPut s.streams p x }

/-- The slabs the window keeps: the current one and the next `depth` in the stream direction, nearest first. -/
def StreamSt.wanted (x : StreamSt) : List Nat :=
  match x.current with
  | none => []
  | some c =>
    let n := ceilDiv x.bytes x.slab
    ((List.range (x.depth + 1)).filterMap fun i => if x.down then (if i ≤ c then some (c - i) else none) else some (c + i)).filter (· < n)

/-- A slab lies more than one slab behind the current one. -/
def StreamSt.behind (x : StreamSt) (slab : Nat) : Bool :=
  match x.current with
  | none => true
  | some c => if x.down then decide (c + 1 < slab) else decide (slab + 1 < c)

/-- A window page becomes an ordinary cache page, written back first if a write has made it dirty; where the cache has no slot for it, a copy
that has been written back goes, and one that cannot be stays in the window. -/
def releaseWindowPage (p pg : Nat) (s : State) : State :=
  let s := writeBack p pg s
  let x := s.page pg
  match cacheSlotFor p pg (s.setPage pg { x with cached := false, window := false }) with
  | some t => t.setPage pg { t.page pg with valid := x.valid, dirty := x.dirty, dirtyStripes := x.dirtyStripes }
  | none => if x.dirty then s else (dropErrors pg s).setPage pg { x with cached := false, window := false, valid := 0 }

/-- Cached pages whose slots the partition's fixed areas have taken leave the cache (Table 8.2); a dirty one that cannot be written back
moves to a slot that is left, or stays. -/
def shrinkCache (p : Nat) (s : State) : State :=
  ((s.partPages p).filter fun x => x.2.cached && !x.2.window && decide (s.cacheSlots p ≤ x.2.cacheSlot)).foldl (fun t x =>
    let t := evict p x.1 t
    let y := t.page x.1
    if !y.cached then t
    else match cacheSlotFor p x.1 (t.setPage x.1 { y with cached := false }) with
      | some u => u.setPage x.1 { u.page x.1 with valid := y.valid, dirty := y.dirty, dirtyStripes := y.dirtyStripes }
      | none => t) s

/-- The stream values in force are those of its registers from a step boundary or a job start on (R257). -/
def streamBoundary (p : Nat) (s : State) : State :=
  let x := { s.stream p with down := false, window := s.reg (.spnWindow p), lo := s.reg (.spnStreamLo p), hi := s.reg (.spnStreamHi p)
                             len := s.reg (.spnStreamLen p) }
  let s := s.setStream p x
  shrinkCache p (((s.partPages p).filter fun y => y.2.window && (x.slabOf (y.1 * 65536)).isNone).foldl (fun t y => releaseWindowPage p y.1 t) s)

/-- Slots that the slab window holds (Table 8.2). -/
def State.windowSlots (s : State) (p : Nat) : Nat := (s.stream p).slab * ((s.stream p).depth + 2) / 65536

/-- A page enters the slab window, with every stripe that can be had at once; a later event asks for the rest. -/
def fillWindowPage (p pg : Nat) (s : State) : State :=
  let x := s.page pg
  if x.home == .t0 || !x.takes then s
  else if x.window then (fillRest p pg s).1
  else
    let used := (s.partPages p).filterMap fun y => if y.2.window then some y.2.cacheSlot else none
    match freeSlot used 0 (s.windowSlots p) with
    | some k => (fillRest p pg (s.setPage pg { x with cached := true, window := true, cacheSlot := k })).1
    | none => s

/-- A page of the stream is not whole in the window, and can be. -/
def State.windowLacks (s : State) (p pg : Nat) : Bool :=
  let x := s.page pg
  x.takes && x.home != .t0 && !(x.window && (x.valid == 0xFFFFFFFF || (x.home == .t3 && s.t3Down p)))

/-- SLAB_FILL: the nearest slab not yet whole in the window is filled; slabs left behind are released. -/
def slabFill (p : Nat) (s : State) : State :=
  let x := s.stream p
  if !s.live || !x.enabled then s
  else
    let s := ((s.partPages p).filter fun y => y.2.window &&
      (match x.slabOf (y.1 * 65536) with | some k => x.behind k | none => true)).foldl (fun t y => releaseWindowPage p y.1 t) s
    match x.wanted.find? fun k => (x.pages k).any (s.windowLacks p) with
    | some k => (x.pages k).foldl (fun t pg => fillWindowPage p pg t) s
    | none => s

/-- A stationary load reads an address of the stream (R255, R256): its slab becomes the current one, and a slab not yet in the
window is counted. -/
def streamLoad (p a : Nat) (s : State) : State :=
  let x := s.stream p
  match x.slabOf a with
  | none => s
  | some k =>
    let miss := !(s.page (a / 65536)).window
    let s := s.setStream p { x with current := some k }
    if miss then s.bump (F.spnWindowMissMiss p) else s

/-! ### The rows -/

def onSpnOp (p : Nat) (f : State → State) (s : State) : State := onWrite (.spnCmdOp p) (spnStart p f) s

def execMap (p cls : Fin 4) (s : State) : Res := go s (onSpnOp p (mapCmd p cls))
def execUnmap (p : Fin 4) (s : State) : Res := go s (onSpnOp p (unmapCmd p))
def execSetClass (p cls : Fin 4) (s : State) : Res := go s (onSpnOp p (setClassCmd p cls))
def execPrefetch (p : Fin 4) (s : State) : Res := go s (onSpnOp p (prefetchCmd p))
def execQuery (p : Fin 4) (s : State) : Res := go s (onSpnOp p (queryCmd p))
def execPageMoveComplete (pg : Nat) (s : State) : Res := go s fun t =>
  if t.live then
    let u := finishRetires (pageMoveComplete pg t)
    match u.partOfAddr (pg * 65536) with | some p => prefetchGo p u | none => u
  else t
def execDemotion (p : Fin 4) (s : State) : Res := go s fun t => prefetchGo p (demotion p t)
def execStripeFill (pg : Nat) (stripe : Fin 32) (s : State) : Res := go s fun t =>
  if t.live then
    let u := stripeFill pg stripe t
    match u.partOfAddr (pg * 65536) with | some p => prefetchGo p u | none => u
  else t
def execSlabFill (p : Fin 4) (s : State) : Res := go s fun t => prefetchGo p (slabFill p t)

end Sys2Proof.Machine
end

