-- ==== Sys2Proof/Machine/Jobs.lean ====
section
/-! DEFINITION. Jobs (chapter 5): records, images and their decoding, packed addresses, the unit queues, counters, how a job stops,
and the completion record. -/
namespace Sys2Proof.Machine

/-! ### Records and images -/

/-- The packed address that names nothing (R149). -/
def noAddr : Nat := 0xFFFFFFFF

/-- A field of a descriptor, by its offset in the 64 bytes. -/
def Desc.at (d : Desc) (o n : Nat) : Nat := leAt d.body (o - 16) n

/-- The 64 bytes of a descriptor (Table 5.4). -/
def parseDesc (bs : List Byte) (off : Nat) : Desc :=
  let f := leAt bs 2 2
  { offset := off, opcode := leAt bs 0 1, unit := leAt bs 1 1, waitEn := bitAt f 0, sigEn := bitAt f 1, bwdStart := bitAt f 2,
    layerStart := bitAt f 3, stopOnStatus := bitAt f 4, stashOnly := bitAt f 5, recomputeOnly := bitAt f 6, tag := leAt bs 4 4,
    waitCtr := leAt bs 8 2, sigCtr := leAt bs 0xA 2, waitVal := leAt bs 0xC 2, layer := leAt bs 0xE 2, body := (bs.drop 16).take 48 }

/-- A job record (Table 5.1), its coded fields resolved. -/
def parseRec (bs : List Byte) : JobRec :=
  let rl := leAt bs 0x63 1
  let hd := leAt bs 0x64 1
  let or0 (v d : Nat) : Nat := if v = 0 then d else v
  { tag := leAt bs 0 4, kind := leAt bs 4 1, coreMask := leAt bs 5 1, tenant := leAt bs 6 1, imageAddr := leAt bs 8 8,
    imageLen := leAt bs 0x10 4, ctrTimeout := leAt bs 0x14 4, seed := leAt bs 0x18 8, compAddr := leAt bs 0x20 8,
    compRkey := leAt bs 0x28 4, compQp := leAt bs 0x2C 2, collJob := leAt bs 0x2E 2, nfAddr := leAt bs 0x30 8, nfCap := leAt bs 0x38 4,
    saveAddr := leAt bs 0x40 8, trainState := leAt bs 0x48 8, stepReport := leAt bs 0x50 8, steps := leAt bs 0x58 4,
    window := leAt bs 0x5C 2, groupSize := leAt bs 0x5E 2, optClass := leAt bs 0x60 1, discardLimit := or0 (leAt bs 0x61 1) 3,
    replayStep := or0 (leAt bs 0x62 1) 4, replayLimit := if bitAt rl 7 then rl % 4 else 3,
    headroom := if bitAt hd 7 then hd % 8 else 1, clipEn := bitAt (leAt bs 0x65 1) 0,
    hyper := (List.range 8).map fun i => BitVec.ofNat 16 (leAt bs (0x68 + 2 * i) 2) }

/-- The cores a mask selects, lowest first (R148). -/
def maskCores (m : Nat) : List Nat := (List.range 4).filter fun c => m.testBit c

/-- A stream of the image: offset and count in the header (Table 5.3). -/
def parseStream (img : List Byte) (hdr : Nat) : List Desc :=
  let off := leAt img hdr 4
  let n := leAt img (hdr + 4) 4
  if img.length < off + 64 * n then []
  else (List.range n).map fun i => parseDesc ((img.drop (off + 64 * i)).take 64) (off + 64 * i)

/-- Entries of a table: offset, count and size of an entry. -/
def tableRows (img : List Byte) (off n size : Nat) : List (List Byte) :=
  if img.length < off + n * size then [] else (List.range n).map fun i => (img.drop (off + i * size)).take size

/-- The image as the loader decodes it (R147 to R150, R304). -/
def parseImage (img : List Byte) (cores : Nat) : JobImage :=
  { main := (List.range cores).map fun l => parseStream img (0x10 + 16 * l)
    update := (List.range cores).map fun l => parseStream img (0x18 + 16 * l)
    bases := (tableRows img (leAt img 0x50 4) (leAt img 0x54 2) 24).map fun r =>
      { addr := leAt r 0 8, strideMicro := leAt r 8 8, strideAttempt := leAt r 16 8 }
    layers := (tableRows img (leAt img 0x60 4) (leAt img 0x64 2) 32).map fun r =>
      { stash := leAt r 0 8, input := leAt r 8 8, recompute := leAt r 16 8, mark := leAt r 24 1 != 0 }
    bindings := (tableRows img (leAt img 0x58 4) (leAt img 0x5C 4) 32).map fun r =>
      { addr := leAt r 0 8, bytes := leAt r 8 8, layer := leAt r 16 2, dw := bitAt (leAt r 18 2) 0, grad := leAt r 24 8 }
    scaled := (tableRows img (leAt img 0x68 4) (leAt img 0x6C 2) 8).map fun r => (leAt r 0 4, leAt r 4 1)
    buckets := (tableRows img (leAt img 0x70 4) (leAt img 0x74 2) 16).map fun r =>
      { id := leAt r 0 2, gradient := bitAt (leAt r 2 1) 0, headroom := leAt r 3 1 % 8, slot := leAt r 4 1, expAddr := leAt r 8 8 }
    kernelAt := leAt img 0x78 4, kernelLen := leAt img 0x7C 4, id := leAt (sha3 img) 0 8, measure := sha3 img }

/-! ### Jobs and their units -/

/-- The job that runs on a core: its key and itself. -/
def State.jobAt (s : State) (c : Nat) : Option (Nat × Job) :=
  match (s.sq c).job with | some k => (s.job k).map fun j => (k, j) | none => none

def Job.training (j : Job) : Bool := j.record.kind == 1

/-- The logical number of a physical core of the job. -/
def Job.logical (j : Job) (c : Nat) : Nat := (j.cores.findIdx? (· == c)).getD 0

/-- The physical core of a logical one. -/
def Job.core (j : Job) (l : Nat) : Nat := j.cores.getD l 0

/-- A packed address (R149). -/
def Job.resolve (j : Job) (micro attempt packed : Nat) : Option Nat :=
  if packed = noAddr then none
  else (j.image.bases[packed / 2 ^ 28]?).map fun b =>
    (b.addr + b.strideMicro * micro + b.strideAttempt * attempt + packed % 2 ^ 28 * 64) % 2 ^ 64

/-- The packed address in a field of a queued descriptor. -/
def Job.addrOf (j : Job) (q : QItem) (o : Nat) : Option Nat := j.resolve q.micro q.attempt (q.d.at o 4)

/-- Every byte lies in the span of the job's tenant slot (R234, R404). -/
def State.inSlice (s : State) (j : Job) (a n : Nat) : Bool := inRange (s.slice j.part j.record.tenant) a n

/-- The unit queues of a core (R152). -/
inductive QUnit | eng0 | eng1 | ve | xfer | cxe | coll
deriving DecidableEq, Repr

def allUnits : List QUnit := [.eng0, .eng1, .ve, .xfer, .cxe, .coll]

def Sq.queue (q : Sq) : QUnit → List QItem
  | .eng0 => q.eng0 | .eng1 => q.eng1 | .ve => q.ve | .xfer => q.xfer | .cxe => q.cxe | .coll => q.coll

def Sq.setQueue (q : Sq) (u : QUnit) (l : List QItem) : Sq :=
  match u with
  | .eng0 => { q with eng0 := l } | .eng1 => { q with eng1 := l } | .ve => { q with ve := l }
  | .xfer => { q with xfer := l } | .cxe => { q with cxe := l } | .coll => { q with coll := l }

/-- The queue that executes a descriptor; the sequencer's own have none (Table 5.5). -/
def Desc.queue (d : Desc) : Option QUnit :=
  match d.opcode with
  | 1 => some (if d.unit = 1 then .eng1 else .eng0)
  | 2 => some (if d.unit = 1 then .eng1 else .eng0)
  | 3 => some .ve
  | 4 => some .xfer
  | 5 => some .cxe
  | 6 => some .coll
  | _ => none

def engUnit (e : Nat) : QUnit := if e % 2 = 1 then .eng1 else .eng0

/-! ### Counters (R162, R163) -/

def State.ctr (s : State) (j : Job) (id : Nat) : Nat := s.fld (F.coreCtrValue (j.core (id / 256 % 4)) (id % 256))

def State.setCtr (s : State) (j : Job) (id v : Nat) : State := s.setFld (F.coreCtrValue (j.core (id / 256 % 4)) (id % 256)) (v % 65536)

/-- A descriptor's signal. -/
def signalDesc (j : Job) (d : Desc) (s : State) : State :=
  if !d.sigEn then s
  else if d.opcode = 9 then
    let v := d.at 0x12 2
    s.setCtr j d.sigCtr (if d.at 0x10 1 = 1 then v else s.ctr j d.sigCtr + v)
  else s.setCtr j d.sigCtr (s.ctr j d.sigCtr + 1)

/-- A counter has reached a value. -/
def reached (ctr val : Nat) : Bool := decide ((ctr + 65536 - val) % 65536 < 2 ^ 15)

/-- The wait of a descriptor is satisfied: in the update stream of a poisoned window, every wait before the vote is (R167). -/
def State.waitMet (s : State) (j : Job) (d : Desc) (upd : Bool) : Bool :=
  !d.waitEn || (upd && j.train.poisoned && j.train.vote.isNone) || reached (s.ctr j d.waitCtr) d.waitVal

/-- All 256 counters of the job's cores are zero. -/
def zeroCounters (j : Job) (s : State) : State :=
  j.cores.foldl (fun t c => (List.range 256).foldl (fun u n => u.setFld (F.coreCtrValue c n) 0) t) s

/-! ### Queue heads -/

/-- Raises the signals of skipped descriptors that have reached the head (R161). -/
def settleLoop (c : Nat) (u : QUnit) : Nat → State → State
  | 0, s => s
  | n + 1, s =>
    match s.jobAt c, (s.sq c).queue u with
    | some (_, j), q :: rest =>
      if q.skipped then settleLoop c u n (signalDesc j q.d (s.setSq c ((s.sq c).setQueue u rest))) else s
    | _, _ => s

def settle (c : Nat) (u : QUnit) (s : State) : State := settleLoop c u 17 s

/-- The head of a queue leaves it. -/
def popHead (c : Nat) (u : QUnit) (s : State) : State :=
  let q := s.sq c
  settle c u (s.setSq c (q.setQueue u (q.queue u).tail))

/-- The head of a queue is complete: its signal is raised. -/
def completeHead (c : Nat) (u : QUnit) (s : State) : State :=
  match s.jobAt c, (s.sq c).queue u with
  | some (_, j), q :: _ => popHead c u (signalDesc j q.d s)
  | _, _ => s

/-- The head of a queue, replaced. -/
def replaceHead (c : Nat) (u : QUnit) (q : QItem) (s : State) : State :=
  let x := s.sq c
  s.setSq c (x.setQueue u (q :: (x.queue u).tail))

/-- The job has stopped: no unit starts another descriptor. -/
def Job.stopped (j : Job) : Bool := j.ending.isSome || j.suspend && !j.training

/-- The core takes part in nothing: fenced (R460). -/
def State.coreFenced (s : State) (c : Nat) : Bool := s.on (F.coreFenceFenced c)

/-- The head of a queue that may start: its kind, its wait. -/
def State.ready (s : State) (c : Nat) (u : QUnit) (opcode : Nat) : Option (Nat × Job × QItem) :=
  if !s.live || s.coreFenced c then none
  else match s.jobAt c, (s.sq c).queue u with
    | some (k, j), q :: _ =>
      if q.d.opcode == opcode && !q.skipped && !j.stopped && s.waitMet j q.d q.upd then some (k, j, q) else none
    | _, _ => none

/-- A unit's generator is seeded as it starts the first descriptor of a step, or of a job without steps (R87). -/
def seedFirst (k unit : Nat) (s : State) : State :=
  match s.job k with
  | some j =>
    if j.seeded.contains unit then s
    else
      let step := if j.training then j.train.commitWord % 2 ^ 63 else 0
      (s.seedGen unit j.record.seed step).setJob k { j with seeded := unit :: j.seeded }
  | none => s

/-! ### Idle units -/

/-- Items of one unit not complete: queued, and those the unit has taken on (a pass that streams, collectives, stalled reservations). -/
def State.pendingNos (s : State) (c : Nat) (u : QUnit) : List Nat :=
  ((s.sq c).queue u).map (·.no)
  ++ (match u with
      | .eng0 => ((s.eng (2 * c)).run.map (·.p.no)).toList
      | .eng1 => ((s.eng (2 * c + 1)).run.map (·.p.no)).toList
      | .coll => (s.rde.colls.filter fun x => x.core == c).filterMap fun x => x.item.map (·.no)
      | .cxe => (s.stalled.filter fun x => x.core == c).map (·.item.no)
      | _ => [])

/-- Every unit of a core is idle. -/
def State.coreIdle (s : State) (c : Nat) : Bool := allUnits.all fun u => (s.pendingNos c u).isEmpty

/-- Every unit of every core of the job is idle. -/
def State.unitsIdle (s : State) (j : Job) : Bool := j.cores.all fun c => s.coreIdle c

/-- Every core's stream has dispatched its END. -/
def State.streamsEnded (s : State) (j : Job) : Bool := j.cores.all fun c => (s.sq c).ended

/-- Every unit stands at a pre-emption point (Table 5.5): no pass streams or drains, no kernel runs, no host transfer and no collective is under way, no reservation
is stalled. -/
def State.atPoint (s : State) (j : Job) : Bool :=
  j.cores.all fun c =>
    (s.eng (2 * c)).run.isNone && (s.eng (2 * c + 1)).run.isNone && !(s.ve c).running && !(s.requests.any fun r => r.owner == .xfer c) && !(s.rde.colls.any fun x => x.core == c)
    && !(s.stalled.any fun x => x.core == c)

/-! ### The stream (R152) -/

/-- A logical core's stream in a role. -/
def Job.stream (j : Job) (l : Nat) : Stream → List Desc
  | .none => []
  | .main => j.image.main.getD l []
  | .update => j.image.update.getD l []

/-- The descriptor that a core's sequencer has at hand. -/
def State.atHand (s : State) (c : Nat) : Option (Nat × Job × Desc) :=
  match s.jobAt c with
  | some (k, j) =>
    let q := s.sq c
    if q.ended then none else ((j.stream (j.logical c) q.stream)[q.pos]?).map fun d => (k, j, d)
  | none => none

/-- The sequencer is done with the descriptor at hand: the next one stands, and it counts as dispatched. -/
def stepOver (c : Nat) (s : State) : State :=
  match s.jobAt c with
  | some (k, j) =>
    let q := s.sq c
    (s.setSq c { q with pos := q.pos + 1, fenceFrom := some (j.issued + 1) }).setJob k { j with issued := j.issued + 1 }
  | none => s

/-- A descriptor that the sequencer executes itself is complete. -/
def completeHere (c : Nat) (s : State) : State :=
  match s.atHand c with
  | some (_, j, d) => stepOver c (signalDesc j d s)
  | none => s

/-! ### Pass reports (Table 2.12) -/

/-- What a run of a pass reports. -/
structure PassRun where
  status : Nat
  flags : Nat := 0
  rows : Nat := 0
  resume : Nat := 0
  committed : Nat := 0
  load : Nat := 512
  fill : Nat := 0
  freezeFeed : Nat := 0
  freezeDrain : Nat := 0
  throttle : Nat := 0
  tail : Nat := 0
  active : Nat := 64
  cause : Nat := 0
  maskedCols : Nat := 0
  maskedRows : Nat := 0
  emptyRows : Nat := 0
deriving DecidableEq, Repr

/-- The 64 bytes of a pass report. -/
def reportBytes (e : Nat) (q : QItem) (r : PassRun) (stamp : Nat) : List Byte :=
  let dur := r.load + r.fill + r.rows + r.freezeFeed + r.freezeDrain + r.throttle + r.tail
  leBytes 4 q.d.tag ++ leBytes 1 r.status ++ leBytes 1 e ++ leBytes 2 r.flags ++ leBytes 4 r.rows ++ leBytes 2 r.resume
  ++ leBytes 2 r.committed ++ leBytes 4 r.load ++ leBytes 4 r.fill ++ leBytes 4 dur ++ leBytes 4 r.freezeFeed
  ++ leBytes 4 r.freezeDrain ++ leBytes 4 r.throttle ++ leBytes 4 r.tail ++ leBytes 1 r.active ++ leBytes 1 (64 - r.active)
  ++ leBytes 1 r.cause ++ leBytes 1 (unsignedOf 8 q.ePass) ++ leBytes 2 r.maskedCols ++ leBytes 2 r.maskedRows
  ++ leBytes 4 r.emptyRows ++ leBytes 8 stamp

/-- The pass report is written to the address its descriptor names, if that lies in the span. -/
def writeReport (j : Job) (e : Nat) (q : QItem) (r : PassRun) (s : State) : State :=
  match j.addrOf q 0x34 with
  | some a => if s.inSlice j a 64 then writeNow j.part a (reportBytes e q r s.clock.fclk) s else s
  | none => s

/-- What a run has spent, in its report. -/
def PassRun.spend (r : PassRun) (t : Spent) : PassRun :=
  { r with load := t.load, fill := t.fill, freezeFeed := t.feed + t.held, freezeDrain := t.drain, throttle := t.throttle }

/-- Block gating and masking of a run's report, for the extents in force (R74, R75, R224). -/
def blockCounts (s : State) (e fmt k n : Nat) : Nat × Nat × Nat :=
  let cells := min 512 (ceilDiv k (fmtPerCell fmt))
  let rb := ceilDiv cells 64
  let cb := ceilDiv (min 512 n) 64
  if s.on (F.engCtrlGateEn e) then (rb * cb, 64 * rb - cells, 64 * cb - min 512 n) else (64, 512 - cells, 512 - min 512 n)

/-- The report of a run is written (R72): `k` and `n` are the operand extents in force. -/
def endRun (j : Job) (e k n : Nat) (l p : QItem) (r : PassRun) (s : State) : State :=
  let (act, mr, mc) := blockCounts s e (l.d.at 0x20 1) k n
  let flags := r.flags + 2 * boolNat (bitAt (p.d.at 0x3A 1) 2) + 4 * boolNat (bitAt (l.d.at 0x21 1) 0)
  let s := writeReport j e { p with ePass := l.ePass } { r with active := act, maskedRows := mr, maskedCols := mc, flags := flags } s
  s.setFld (F.engStatusSegIndex e) r.resume

/-- Nothing is loaded any more: the engine is free, or drains the pass before (R44). -/
def engineIdle (e : Nat) (s : State) : State :=
  let x := s.eng e
  ((s.setEng e { x with loaded := none, replayAt := none, plan := [], tbuf := [], spent := Spent.none }).setFld (F.engStatusState e)
    (if x.run.isSome then 4 else 0)).setFld (F.engStatusFreezeCause e) 0

/-- The PASS that stands behind a LOAD in its queue. -/
def State.queuedPass (s : State) (e : Nat) : Option QItem := ((s.sq (e / 2)).queue (engUnit e)).find? fun q => q.d.opcode == 2

/-- A pass whose stationary operand is loaded and whose first row has not entered stops (R68): the run reports how it ended. One that
has already ended OVERFLOW has reported. -/
def stopLoaded (e status cause : Nat) (s : State) : State :=
  let x := s.eng e
  match x.loaded, s.jobAt (e / 2) with
  | some l, some (_, j) =>
    let s := match s.queuedPass e with
      | some q => if x.replayAt.isSome then s else
          endRun j e x.kExt x.nExt l q
            (PassRun.spend { status := status, resume := l.resume, cause := cause, flags := if status = 1 then 1 else 0 } x.spent) s
      | none => s
    engineIdle e s
  | _, _ => s

/-- Segments of a PASS. -/
def QItem.segments (p : QItem) : Nat := ceilDiv (p.d.at 0x1C 4) 512

/-- A pre-emption request meets a run: the open segment is its last, unless it is the last of the pass (R67, R68). -/
def EngRun.preempted (r : EngRun) : EngRun := if r.limit.isSome || decide (r.p.segments ≤ r.next + 1) then r else { r with limit := some (r.next + 1) }

/-- A run whose job drops it: it is pre-empted, and ends for nobody. -/
def dropRun (e : Nat) (s : State) : State :=
  let x := s.eng e
  match x.run with
  | some r => s.setEng e { x with run := some { r.preempted with dead := true } }
  | none => s

/-- The engines of a core. -/
def engsOf (c : Nat) : List Nat := [2 * c, 2 * c + 1]

/-! ### Stopping (R129, R158, R165, R170, R180) -/

/-- What a core has queued and not begun leaves its queues; a running kernel and a host transfer under way stay, and a pass whose rows
stream is pre-empted. -/
def dropQueued (c : Nat) (s : State) : State :=
  let s := (engsOf c).foldl (fun t e => dropRun e (stopLoaded e 1 0 t)) s
  let q := s.sq c
  let ve := if (s.ve c).running then q.ve.take 1 else []
  let xf := if s.requests.any fun r => r.owner == .xfer c then q.xfer.take 1 else []
  s.setSq c { q with eng0 := [], eng1 := [], ve := ve, xfer := xf, cxe := [], coll := [] }

/-- The job ends at once with a status: the first one stays (R172). -/
def endJob (k status tag detail : Nat) (s : State) : State :=
  match s.job k with
  | some j =>
    if j.ending.isSome then s
    else
      let s := s.setJob k { j with ending := some status, failTag := tag, failDetail := detail }
      j.cores.foldl (fun t c => dropQueued c t) s
  | none => s

/-- A phase of the step in which a failure still poisons the window: phases 1 to 5. Phase 6 begins with the VOTE. -/
def TrainPhase.open : TrainPhase → Bool
  | .window | .barrier | .released | .micro | .update => true
  | .voting | .voted | .done => false

/-- What phase 2 has left in the queues of a core, and not begun, leaves them; its main stream ends. The update stream stays. -/
def dropMain (c : Nat) (s : State) : State :=
  let s := (engsOf c).foldl (fun t e =>
    let t := match (t.eng e).loaded with | some l => if l.upd then t else stopLoaded e 1 0 t | none => t
    match (t.eng e).run with | some r => if r.p.upd then t else dropRun e t | none => t) s
  let q := s.sq c
  let keep (l : List QItem) : List QItem := l.filter (·.upd)
  let ve := if (s.ve c).running then q.ve.take 1 ++ keep (q.ve.drop 1) else keep q.ve
  let xf := if s.requests.any fun r => r.owner == .xfer c then q.xfer.take 1 ++ keep (q.xfer.drop 1) else keep q.xfer
  s.setSq c { q with eng0 := keep q.eng0, eng1 := keep q.eng1, ve := ve, xfer := xf, cxe := keep q.cxe, coll := keep q.coll
                     ended := q.ended || q.stream == .main }

/-- The micro-step a descriptor belongs to, 0xFFFF in the update stream. -/
def QItem.microNo (q : QItem) : Nat := if q.upd then 0xFFFF else q.micro

/-- The window is poisoned on this device (R129): the first cause is noted, phase 2 ends, passes still running are pre-empted. -/
def poison (k layer tag micro : Nat) (s : State) : State :=
  match s.job k with
  | some j =>
    if j.train.poisoned || !j.train.phase.open then s
    else
      let t := { j.train with poisoned := true, nfLayer := layer, nfDesc := tag, nfMicro := micro }
      j.cores.foldl (fun u c => dropMain c u) (s.setJob k { j with train := t })
  | none => s

/-- A job fails: a training job first poisons its window in phases 1 to 5, and ends after phase 8 (R180). -/
def failJob (k status layer tag micro detail : Nat) (s : State) : State :=
  match s.job k with
  | some j =>
    if j.training then
      if j.train.endAfter.isSome then s
      else
        let s := s.setJob k { j with failTag := tag, failDetail := detail
                                     train := { j.train with endAfter := some status, fault := j.train.fault || j.train.phase.open } }
        poison k layer tag micro s
    else endJob k status tag detail s
  | none => s

/-! ### Completion (R145, R146) -/

/-- The tile's status record address is appended to the non-finite list. -/
def noteTile (k addr : Nat) (s : State) : State :=
  match s.job k with
  | some j =>
    let j1 := { j with nfTiles := j.nfTiles + 1 }
    if j.record.nfAddr = 0 then s.setJob k j1
    else if j.record.nfCap ≤ j.nfListed then s.setJob k { j1 with nfOver := true }
    else
      let a := j.record.nfAddr + 8 * j.nfListed
      let s := s.setJob k { j1 with nfListed := j.nfListed + 1 }
      if s.inSlice j a 8 then writeNow j.part a (leBytes 8 addr) s else s
  | none => s

/-- The completion record (Table 5.2). -/
def completionBytes (j : Job) (status cw stamp : Nat) : List Byte :=
  leBytes 4 j.record.tag ++ leBytes 1 status ++ leBytes 1 (boolNat j.nfOver + 2 * boolNat j.saved) ++ leBytes 1 j.ring
  ++ leBytes 1 j.part ++ leBytes 4 j.seq ++ leBytes 4 j.failTag ++ leBytes 4 j.failDetail ++ leBytes 4 j.nfTiles ++ leBytes 8 cw
  ++ leBytes 8 j.startStamp ++ leBytes 8 stamp ++ leBytes 4 j.issued ++ leBytes 8 j.image.id ++ leBytes 4 0

/-- A job ends with no completion record (R145, R171). -/
def unreportedRec (part ring tenant tag status : Nat) (s : State) : State :=
  errRecord { bank := 0x0C + part, unit := ring, cause := 1, cls := 1, part := some part, tenant := tenant, jobTag := tag, detail := status } s

def unreported (j : Job) (status : Nat) (s : State) : State := unreportedRec j.part j.ring j.record.tenant j.record.tag status s

/-- The completion record goes out on comp_qp; where that queue pair cannot send, the record is dropped and the bank says so. -/
def reportJob (j : Job) (status : Nat) (s : State) : State :=
  let q := j.record.compQp
  let cw := if j.training then j.train.commitWord else 0
  if s.fld (F.qpCtrlState q) = 3 ∧ s.qpList.contains q = true ∧ s.fld (F.qpPartPartition q) = j.part then
    issueWrite q j.record.compAddr j.record.compRkey (completionBytes j status cw s.clock.fclk) none (.completion (j.cores.headD 0)) s
  else unreported j status s

/-- The core's registers say what has become of its job. -/
def coreEnds (p c ring status : Nat) (s : State) : State :=
  ((s.setFld (F.jobCoreStatusState p c) 0).setFld (F.jobCoreStatusRing p c) ring).setFld (F.jobCoreStatusLastStatus p c) status

/-- Core `c` and its engines are fenced (R460); a self-test under way there gives no result. -/
def fenceNow (c : Nat) (s : State) : State :=
  ((engsOf c).filter s.present).foldl (fun t e =>
    let t := if t.fld (F.engStatusState e) = 5 then t.setFld (F.engTestResult e) 3 else t
    (t.setFld (F.engStatusState e) 6).setEng e { t.eng e with unfencing := false }) (s.setFld (F.coreFenceFenced c) 1)

/-- A job's cores are free, and what it held of the central store (R145, Table 8.2). -/
def freeJob (k status : Nat) (s : State) : State :=
  match s.job k with
  | some j =>
    let s := j.cores.foldl (fun t c =>
      let q := t.sq c
      let t := t.setSq c { Sq.empty with lastTenant := some (j.part, j.record.tenant), dusk := q.dusk }
      let t := (engsOf c).foldl (fun u e => let x := u.eng e; (u.setEng e { x with loaded := none, replayAt := none, run := none, dropNext := false }).setFld (F.engStatusFreezeCause e) 0) t
      let t := if q.fencing then fenceNow c t else t
      coreEnds j.part c j.ring status t) s
    -- the stream of a partition without a training job runs upward (R256)
    let s := s.setStream j.part { s.stream j.part with down := false }
    let s := { s with jobs := tabDel s.jobs k, rde := { s.rde with gens := tabDel s.rde.gens k, groupStep := tabDel s.rde.groupStep (j.record.collJob % 4096) }
                      stashes := if j.training then tabDel s.stashes j.part else s.stashes }
    (offerChanged s).bump (F.ldgJobsEndedEnded j.part)
  | none => s

end Sys2Proof.Machine
end

