-- ==== Sys2Proof/Machine/Plans.lean ====
section
/-! DEFINITION. Plans and owned shards (R297 to R299): the plan entries of Table 10.2, and which blocks of a bucket a device owns. -/
namespace Sys2Proof.Machine

/-! ### Plans and shards (R297 to R299) -/

/-- A plan entry (Table 10.2): ports and peers per dimension, next then previous. -/
structure Plan where
  dims : Nat
  both : Bool
  size : List Nat
  coord : List Nat
  ports : List (Nat × Nat)
  peers : List (Nat × Nat)
deriving DecidableEq, Repr

def State.plan (s : State) (n : Nat) : Plan :=
  let b := (List.range 16).flatMap fun w => leBytes 4 (s.fld (F.rdePlanPlan n w))
  { dims := if n < 64 then leAt b 0 1 else 0, both := bitAt (leAt b 1 1) 0
    size := (List.range 3).map fun k => max 1 (leAt b (2 + 2 * k) 2)
    coord := (List.range 3).map fun k => leAt b (8 + 2 * k) 2
    ports := (List.range 3).map fun k => (leAt b (0x10 + 4 * k) 2, leAt b (0x12 + 4 * k) 2)
    peers := (List.range 3).map fun k => (leAt b (0x20 + 4 * k) 2, leAt b (0x22 + 4 * k) 2) }

def Plan.d (p : Plan) (k : Nat) : Nat := p.size.getD k 1
def Plan.c (p : Plan) (k : Nat) : Nat := p.coord.getD k 0
def Plan.mask (p : Plan) (k : Nat) (prev : Bool) : Nat := let x := p.ports.getD k (0, 0); if prev then x.2 else x.1
def Plan.peer (p : Plan) (k : Nat) (prev : Bool) : Nat := let x := p.peers.getD k (0, 0); if prev then x.2 else x.1

/-- P: the devices of the plan. -/
def Plan.total (p : Plan) : Nat := p.d 0 * p.d 1 * p.d 2

/-- Coordinates 0 to k − 1 as one index, and how many values it has. -/
def Plan.prefix' (p : Plan) (k : Nat) : Nat × Nat := (List.range k).foldl (fun x i => (x.1 * p.d i + p.c i, x.2 * p.d i)) (0, 1)

/-- The part of a bucket that this device holds before the phase of dimension k: its blocks. -/
def Plan.part (p : Plan) (blocks k : Nat) : Nat × Nat := let (i, n) := p.prefix' k; (blocks * i / n, blocks * (i + 1) / n)

/-- Sub-part r of that part. -/
def Plan.sub (p : Plan) (blocks k r : Nat) : Nat × Nat :=
  let (i, n) := p.prefix' k
  (blocks * (i * p.d k + r) / (n * p.d k), blocks * (i * p.d k + r + 1) / (n * p.d k))

/-- The blocks of a sub-part that travel in a direction: the first half goes next, the rest previous, where the plan is bidirectional. -/
def Plan.half (p : Plan) (x : Nat × Nat) (prev : Bool) : Nat × Nat :=
  let m := if p.both then x.1 + (x.2 - x.1 + 1) / 2 else x.2
  if prev then (m, x.2) else (x.1, m)

def blocksOf (x : Nat × Nat) : List Nat := (List.range (x.2 - x.1)).map fun i => x.1 + i

/-- Blocks of a bucket that this device owns (R298). -/
def Plan.own (p : Plan) (blocks : Nat) : Nat × Nat := p.part blocks p.dims

end Sys2Proof.Machine
end

