-- ==== Sys2Proof/Machine/Train.lean ====
section
/-! DEFINITION. The data of a training step (chapter 4): phase 1, the stash and its admission, tiles and observations, the initial
input exponent offsets, the commit and the step report. -/
namespace Sys2Proof.Machine

/-- The job, changed. -/
def State.onJob (s : State) (k : Nat) (f : Job → Job) : State :=
  match s.job k with | some j => s.setJob k (f j) | none => s

/-- The training fields of a job, changed. -/
def State.onTrain (s : State) (k : Nat) (f : Train → Train) : State := s.onJob k fun j => { j with train := f j.train }

/-- Committed step count and current slot (Table 4.5), as phase 1 read them. -/
def Train.step (t : Train) : Nat := t.commitWord % 2 ^ 63
def Train.slotB (t : Train) : Bool := bitAt t.commitWord 63

/-! ### Phase 1 (R106, R122, R124, R194, R257) -/

/-- What the check of the area covers: bytes 0x00 to 0x1F and every tensor record (Table 4.9). -/
def History.covered (h : History) : List Byte :=
  leBytes 8 h.imageId ++ leBytes 8 h.tag ++ leBytes 2 h.records.length ++ leBytes 1 h.count ++ List.replicate 13 0
  ++ h.records.flatMap fun r => (List.range 16).flatMap fun i => leBytes 2 (unsignedOf 16 ((r.getD i none).getD (-32768)))

/-- The history with its check brought up to date. -/
def History.sealed (h : History) : History := { h with check := sha3 h.covered }

/-- A history that holds nothing, for `n` scaled tensors. -/
def History.none (imageId tag n : Nat) : History :=
  { imageId := imageId, tag := tag, count := 0, records := List.replicate n (List.replicate 16 Option.none), check := [] }

/-- The retained scale history, or an empty one for the job's tensors (R136). -/
def State.history (s : State) (p n : Nat) : History := tabGet (History.none 0 0 n) s.histories p

/-- The history stands for this job (R136): its check, its image, its tensors, and a count of 0 to 15 steps behind. -/
def History.fits (h : History) (imageId step n : Nat) : Bool :=
  h.imageId == imageId && decide (h.tag ≤ step) && decide (step ≤ h.tag + 15) && h.records.length == n && h.check == sha3 h.covered

/-- Norms, owned elements and stall counts of a partition's layers start at zero in phase 1 (R196). -/
def zeroLayers (p : Nat) (s : State) : State := { s with layerAcc := s.layerAcc.filter fun x => !(x.1 / 65536 == p) }

/-- Phase 1 of a step attempt: the record and the e_layer table are read, generators are to be seeded again, the history is checked
in the job's first step, and what a step holds is cleared. -/
def phase1 (k : Nat) (first : Bool) (s : State) : State :=
  match s.job k with
  | none => s
  | some j =>
    let p := j.part
    let s := zeroLayers p (streamBoundary p s)
    let (s, rec, _) := readNow p j.record.trainState 64 s
    let cw := leAt rec 0 8
    let n := j.image.layers.length
    let (s, es, _) := readNow p (leAt rec 0x28 8) n s
    let m := j.image.scaled.length
    let id := leAt rec 0x30 8
    let h := s.history p m
    let h := if first && !h.fits id (cw % 2 ^ 63) m then (History.none id (cw % 2 ^ 63) m).sealed else h
    let s := { s with histories := tabPut s.histories p h }
    let t : Train := { Train.empty with
      phase := .window, commitWord := cw, paramA := leAt rec 8 8, paramB := leAt rec 0x10 8, momA := leAt rec 0x18 8,
      momB := leAt rec 0x20 8, elayers := es.map fun b => b.toInt, imageId := id, discards := leAt rec 0x38 4,
      attempt := j.train.attempt, commits := j.train.commits, endAfter := j.train.endAfter, suspendAfter := j.train.suspendAfter,
      startStamp := s.clock.fclk, observed := List.replicate m none, probe := h.count == 0,
      partialHist := decide (h.tag < cw % 2 ^ 63) || decide (h.count < 16) }
    let s := s.setJob k { j with train := t, seeded := [] }
    j.cores.foldl (fun u c =>
      let v := u.ve c
      (u.setVe c { v with hyper := j.record.hyper, t := cw % 2 ^ 63 + 1, clip := 0x3F80 }).setFld (F.veFlagsNf c) 0) s

/-! ### The stash (R110 to R115) -/

/-- Every micro-step begins with an empty stash and its own decisions (R115). -/
def beginMicro (k : Nat) (s : State) : State :=
  match s.job k with
  | some j =>
    let marked := (List.range j.image.layers.length).filter fun l => (j.image.layers[l]?.map (·.mark)).getD false
    (offerChanged { s with stashes := tabDel s.stashes j.part }).onTrain k fun t => { t with recompute := marked, switched := false }
  | none => s

/-- Space for more stash (R114). -/
def State.stashFree (s : State) (j : Job) : Int :=
  let x := s.stash j.part
  let input : Nat := (j.image.layers.map (·.input)).sum
  let unspilled : Nat := x.t0Bytes - s.stashQuotaMib j.part * mib
  ((s.fld (F.jobStashQuotaT1Gib j.part) * 2 ^ 30 : Nat) : Int) - (input + 64 * x.t1Sectors + unspilled : Nat)

/-- The admission of a layer at its layer_start (R114, R161). -/
def layerStart (k layer : Nat) (s : State) : State :=
  match s.job k with
  | some j =>
    match j.image.layers[layer]? with
    | some e =>
      if j.train.recompute.contains layer || (s.stash j.part).layers.any (fun x => x.layer == layer) then s
      else if (e.stash : Int) ≤ s.stashFree j then
        { s with stashes := tabPut s.stashes j.part { layers := (s.stash j.part).layers ++ [{ layer := layer, t0 := e.stash, sectors := 0 }] } }
      else
        let later := (List.range j.image.layers.length).filter fun l => decide (layer ≤ l) && !j.train.recompute.contains l
        s.onTrain k fun t => { t with recompute := t.recompute ++ later, switched := true,
                                      switchLayer := if t.switched then t.switchLayer else min t.switchLayer layer,
                                      switchCount := if t.switched then t.switchCount else t.switchCount + 1 }
    | none => s
  | none => s

/-- Stripes of 2 KiB leave T0 for T1, oldest first, until the quota holds: each takes a free number of sectors (Wafer). -/
def spillLayers : List StashLayer → Nat → Nat → List StashLayer × Nat
  | [], _, idx => ([], idx)
  | x :: rest, excess, idx =>
    if excess = 0 ∨ x.t0 = 0 then let (r, i) := spillLayers rest excess idx; (x :: r, i)
    else
      let take := min x.t0 (ceilDiv excess 2048 * 2048)
      let n := ceilDiv take 2048
      let (r, i) := spillLayers rest (excess - take) (idx + 1)
      ({ x with t0 := x.t0 - take, sectors := x.sectors + n + Config.pick idx % (31 * n + 1) } :: r, i)

/-- STASH_SPILL (R113). -/
def stashSpill (p : Nat) (s : State) : State :=
  let x := s.stash p
  let excess := x.t0Bytes - s.stashQuotaMib p * mib
  if !s.live || excess == 0 then s
  else
    let (l, i) := spillLayers x.layers excess s.clock.freeIdx
    offerChanged { s with stashes := tabPut s.stashes p { layers := l }, clock := { s.clock with freeIdx := i } }

/-- A layer whose backward pass has committed releases its stash (R115): no descriptor of the layer is left in a main stream or
a queue. -/
def releaseStash (k : Nat) (s : State) : State :=
  match s.job k with
  | some j =>
    if j.train.phase != .micro && j.train.phase != .update then s
    else
      let busy (l : Nat) : Bool := j.cores.any fun c =>
        let q := s.sq c
        !q.bwdPassed
        || (q.stream == .main && ((j.image.main.getD (j.logical c) []).drop q.pos).any fun d => d.layer == l)
        || allUnits.any fun u => (q.queue u).any fun x => !x.upd && x.d.layer == l
      let keep := (s.stash j.part).layers.filter fun x => busy x.layer
      if keep.length = (s.stash j.part).layers.length then s
      else offerChanged { s with stashes := tabPut s.stashes j.part { layers := keep } }
  | none => s

/-! ### Gradients, tiles, observations (R117, R129, R134, R135, R137) -/

/-- Elements of a binding's weight: the format is that of a LOAD that binds it (BF16 where none does). -/
def Job.weights (j : Job) (b : Binding) : Nat :=
  let binds (d : Desc) : Bool := d.opcode == 1 &&
    match j.resolve 0 0 (d.at 0x10 4) with | some a => decide (b.addr ≤ a) && decide (a < b.addr + b.bytes) | none => false
  match (j.image.main ++ j.image.update).flatten.find? binds with
  | some d => 8 * b.bytes / fmtBits (d.at 0x20 1)
  | none => b.bytes / 2

/-- The gradient binding whose BF16 buffer holds an address. -/
def Job.gradAt (j : Job) (a : Nat) : Option Binding :=
  j.image.bindings.find? fun b => b.dw && decide (b.grad ≤ a) && decide (a < b.grad + 2 * j.weights b)

/-- The drain mode of a pass: the first K pass of a gradient tile in micro-step 0 writes, every later dW pass of the window
accumulates (R117). -/
def Job.accumulates (j : Job) (q : QItem) (dst : Nat) : Bool :=
  if j.training && !q.upd && (j.gradAt dst).isSome then !(q.micro == 0 && !j.train.dwSeen.contains dst)
  else bitAt (q.d.at 0x3A 1) 0

/-- The scaled tensor that a pass writes. -/
def Job.scaledOf (j : Job) (tag : Nat) : Option Nat := if j.training then j.image.scaled.findIdx? fun x => x.1 == tag else none

/-- The entries of a record that the history holds, 0x8000 ignored. -/
def History.held (h : History) (i : Nat) : List Int := (h.records.getD i []).filterMap id

/-- The initial e_pass of a pass that writes scaled tensor `i` (R135). -/
def initialEpass (h : History) (i fmt headroom limit step : Nat) : Int :=
  match h.held i with
  | [] => 0
  | x :: rest =>
    let big := rest.foldl max x
    let e : Int := if fmt = 2 ∨ fmt = 3 then big - fmtEmax fmt + headroom
      else if fmtMx fmt then max 0 (big - 127 - fmtEmax fmt + headroom) else 0
    min (max e (-128)) (127 - (limit * step : Nat))

/-- Operations that need true values run with L = 0 (R102). -/
def trueUnits (func : Nat) : Bool := bitAt func 3 || bitAt func 4 || bitAt func 6 || bitAt func 9

/-- e_pass, replay step and replay limit of a pass's first run. -/
def State.passRange (s : State) (j : Job) (d : Desc) : Int × Nat × Nat :=
  let lim := if trueUnits (d.at 0x3C 2) then 0 else j.record.replayLimit
  match j.scaledOf d.tag with
  | some i =>
    if j.train.probe then (0, 8, 3)
    else (initialEpass (s.history j.part j.image.scaled.length) i ((j.image.scaled.getD i (0, 0)).2) j.record.headroom lim j.record.replayStep,
          j.record.replayStep, lim)
  | none => (signedOf 8 (d.at 0x3B 1), j.record.replayStep, lim)

/-- A committed segment of a scaled tensor has been observed (R134): ⌊log2 max⌋ + e_pass. -/
def observe (k tag : Nat) (v : Int) (s : State) : State :=
  match s.job k with
  | some j =>
    match j.scaledOf tag with
    | some i => s.onTrain k fun t => { t with observed := listPut none t.observed i
                                                (match t.observed.getD i none with | some w => some (max w v) | none => some v) }
    | none => s
  | none => s

/-- A tile of a pass has committed: its record address, its destination, its nonfinite bit, whether its sum of squares is finite, its
replays. -/
def onTile (k : Nat) (p : QItem) (dst addr : Nat) (nf finite replayed : Bool) (s : State) : State :=
  let s := if nf then noteTile k addr s else s
  match s.job k with
  | some j =>
    if !j.training then s
    else
      let s := s.onTrain k fun t => { t with nfTiles := t.nfTiles + boolNat nf, replays := t.replays + boolNat replayed }
      let layer := p.d.layer
      if p.upd then s
      else
        let s := match j.gradAt dst with
          | some b => s.onTrain k fun t => { t with gtiles := (addr, b.layer) :: t.gtiles.filter fun g => g.1 != addr }
          | none => s
        if nf || !finite then
          poison k layer p.d.tag p.microNo (s.onTrain k fun t => { t with nfLayers := if t.nfLayers.contains layer then t.nfLayers else layer :: t.nfLayers })
        else s
  | none => s

/-- The loss of a micro-step is known (R178): a non-finite one poisons the window, its layer reported as 0xFFFE. -/
def onLoss (k : Nat) (q : QItem) (v e : Half) (bad : Bool) (s : State) : State :=
  let v := if bad then 0x7FC0 else v
  let s := s.onTrain k fun t => { t with lossVal := v, lossExp := e }
  if (bf v).finite then s else poison k 0xFFFE q.d.tag q.microNo s

/-! ### Phase 8 (R127 to R131, R134, R137 to R139) -/

/-- A square as the report gives it: one SR rounding of the vector kernel that sums a layer. -/
def layerSquare (tiles : List Num) (draw : Nat) : Half × Half :=
  let (v, e, _) := pairOf (numSum tiles) draw
  (v, e)

/-- Elements of a layer in the owned shard: of the gradient buffers of its bindings, what the job's reduce-scatters leave with this
device (R298); everything, where no reduce-scatter takes a share. -/
def State.ownedElems (s : State) (j : Job) (l : Nat) : Nat :=
  let cols := j.image.update.flatten.filter fun d => d.opcode == 6 && d.at 0x10 1 == 0
  let ranges := cols.filterMap fun d => (j.resolve 0 0 (d.at 0x14 4)).map fun a =>
    let own := (s.plan (d.at 0x1C 2)).own (d.at 0x18 4)
    (a + 64 * own.1, a + 64 * own.2)
  ((j.image.bindings.filter fun b => b.dw && b.layer == l).map fun b =>
    let n := j.weights b
    if cols.isEmpty then n
    else (ranges.map fun r => (min r.2 (b.grad + 2 * n) - max r.1 b.grad) / 2).sum).sum

/-- The record of one layer (Table 4.11); what phase 5 gives is 0 in an attempt that does not reach it (R139). -/
def layerBytes (j : Job) (s : State) (d : Draws) (l : Nat) : List Byte :=
  let t := j.train
  let none0 : LayerAcc := { rg := (0, 0), w := (0, 0), u := (0, 0), stalled := 0 }
  let acc := if t.optimizing then tabGet none0 s.layerAcc (j.part * 65536 + l) else none0
  let tiles := (t.gtiles.filter fun g => g.2 == l).map fun g =>
    pairVal (BitVec.ofNat 16 (s.num (g.1 + 4) 2)) (BitVec.ofNat 16 (s.num (g.1 + 6) 2))
  let g := layerSquare tiles (d.at l 0)
  let h (x : Half) : List Byte := leBytes 2 x.toNat
  leBytes 2 l ++ leBytes 1 (unsignedOf 8 (t.elayers.getD l 0)) ++ leBytes 1 (boolNat (t.recompute.contains l) + 2 * boolNat (t.nfLayers.contains l))
  ++ h g.1 ++ h g.2 ++ h acc.rg.1 ++ h acc.rg.2 ++ h acc.w.1 ++ h acc.w.2 ++ h acc.u.1 ++ h acc.u.2
  ++ leBytes 4 acc.stalled ++ leBytes 4 (s.ownedElems j l) ++ leBytes 4 0

/-- The clip factor of the step. -/
def State.clipFactor (s : State) (j : Job) : Half :=
  if j.record.clipEn then ((j.cores.map fun c => (s.ve c).clip).find? fun v => v != 0x3F80).getD 0x3F80 else 0x3F80

/-- The report of a step attempt (Tables 4.10 and 4.11). Of the time since phase 3 began, how much was waiting is free. -/
def reportStep (k status : Nat) (s : State) : State :=
  match s.job k with
  | some j =>
    let t := j.train
    let clip := s.clipFactor j
    let us := if t.waitStamp = 0 then 0 else (s.clock.fclk - t.waitStamp) / 1400
    let wait := Config.value s.clock.freeIdx % (us + 1)
    let unit := 8 + j.cores.headD 0
    let s := s.spend
    let d := s.draws unit
    let low := (bf clip).lt .one
    let body := leBytes 4 j.record.tag ++ leBytes 4 t.step ++ leBytes 1 status
      ++ leBytes 1 (boolNat t.probe + 2 * boolNat t.partialHist + 4 * boolNat low + 8 * boolNat (t.switchCount != 0))
      ++ leBytes 2 j.image.layers.length ++ leBytes 2 j.record.window ++ leBytes 2 t.microRun ++ leBytes 2 t.nfLayer ++ leBytes 2 t.nfMicro
      ++ leBytes 4 t.nfDesc ++ leBytes 2 t.switchLayer ++ leBytes 2 t.switchCount ++ leBytes 4 t.nfTiles ++ leBytes 2 t.lossVal.toNat
      ++ leBytes 2 t.lossExp.toNat ++ leBytes 2 clip.toNat ++ leBytes 2 (min t.replays 65535) ++ leBytes 8 t.startStamp
      ++ leBytes 8 s.clock.fclk ++ leBytes 4 wait ++ leBytes 4 0
      ++ (List.range j.image.layers.length).flatMap (layerBytes j s d)
    let s := s.drawn unit j.image.layers.length
    if s.inSlice j j.record.stepReport body.length then writeNow j.part j.record.stepReport body s else s
  | none => s

/-- The observations of a committed step enter the history at position s mod 16 (R134, R137). -/
def storeHistory (k : Nat) (s : State) : State :=
  match s.job k with
  | some j =>
    let t := j.train
    let h := s.history j.part j.image.scaled.length
    let recs := h.records.zipIdx.map fun r => listPut none r.1 (t.step % 16) (t.observed.getD r.2 none)
    { s with histories := tabPut s.histories j.part ({ imageId := t.imageId, tag := t.step, count := min 16 (h.count + 1), records := recs, check := [] } : History).sealed }
  | none => s

/-- commit_word and discards go to the training state record. -/
def writeTrain (k : Nat) (s : State) : State :=
  match s.job k with
  | some j =>
    writeNow j.part (j.record.trainState + 0x38) (leBytes 4 j.train.discards)
      (writeNow j.part j.record.trainState (leBytes 8 j.train.commitWord) s)
  | none => s

/-- The flip (R127): one write of commit_word, its count increased by one and its slot inverted. -/
def Train.flip (t : Train) : Train :=
  { t with commitWord := (t.step + 1) % 2 ^ 63 + (if t.slotB then 0 else 2 ^ 63) }

/-! ### The pair stream and the mirror: what goes out, what has come (R320, R322) -/

/-- A run (first, end) joins a rising list of separate ones. -/
def runAdd : List (Nat × Nat) → Nat × Nat → List (Nat × Nat)
  | [], r => [r]
  | x :: t, r =>
    if r.2 < x.1 then r :: x :: t
    else if x.2 < r.1 then x :: runAdd t r
    else runAdd t (min x.1 r.1, max x.2 r.2)

/-- Every number below `n` is in some run. -/
def runsCover (l : List (Nat × Nat)) (n : Nat) : Bool := n == 0 || l.any fun x => x.1 == 0 && decide (n ≤ x.2)

/-- Bytes of a parameter slot and of a moment slot that the pair stream carries; bytes of a member's mirror. -/
def State.pairPlen (s : State) (p : Nat) : Nat := s.fld (F.rdePairPlenPairPlen p) * 65536
def State.pairMlen (s : State) (p : Nat) : Nat := s.fld (F.rdePairMlenPairMlen p) * 65536
def State.mirrorLen (s : State) (p : Nat) : Nat := s.fld (F.rdeMirLenMirrorLen p) * 65536

/-- The address in the alternate slots of an offset in the pair stream: the parameters, then the moments. -/
def Train.pairAt (t : Train) (plen off : Nat) : Nat :=
  if off < plen then (if t.slotB then t.paramA else t.paramB) + off else (if t.slotB then t.momA else t.momB) + (off - plen)

/-- The parts of written ranges that the pair stream carries, as offsets in it and lengths, in whole units of 64 bytes. -/
def Train.pairParts (t : Train) (plen mlen : Nat) (rs : List (Nat × Nat)) : List (Nat × Nat) :=
  let cut (base len off : Nat) (r : Nat × Nat) : Option (Nat × Nat) :=
    let lo := (max base r.1 - base) / 64 * 64
    let hi := min len ((min (base + len) (r.1 + r.2) - base + 63) / 64 * 64)
    if lo < hi then some (off + lo, hi - lo) else none
  rs.filterMap (cut (if t.slotB then t.paramA else t.paramB) plen 0) ++ rs.filterMap (cut (if t.slotB then t.momA else t.momB) mlen plen)

/-- Bytes that the primary of a pair has written in phases 5 and 7: those of its alternate slots go to the shadow as they are written, in
MIRROR frames on the pair ports in turn (R322). -/
def pairStream (k : Nat) (rs : List (Nat × Nat)) (s : State) : State :=
  match s.job k with
  | some j =>
    if s.fld F.rdeStatusPairState != 1 || !j.training || !j.train.optimizing || j.train.phase == .voting then s
    else
      let plen := s.pairPlen j.part
      (j.train.pairParts plen (s.pairMlen j.part) rs).foldl (fun t r =>
        (List.range (ceilDiv r.2 1024)).foldl (fun u i =>
          let off := r.1 + 1024 * i
          let n := min 1024 (r.2 - 1024 * i)
          let es := [14, 15].filter u.pairPort
          let up := es.filter u.portOn
          let ports := if up.isEmpty then es else up
          match ports[off / 64 % max 1 ports.length]? with
          | some e => sendColl e 0xB (u.guarded j.part)
              { noFrame with job := j.record.collJob % 4096, src := u.position, n := n / 64, blockFirst := off / 64, step := j.train.step % 2 ^ 32
                             payload := u.bytes (j.train.pairAt plen off) n } u
          | none => u) t) s
  | none => s

/-- What the micro-steps of an attempt hold in the stash is released (Table 4.6). -/
def dropStash (k : Nat) (s : State) : State :=
  match s.job k with
  | some j => offerChanged { s with stashes := tabDel s.stashes j.part }
  | none => s

/-- Phase 8: flip or discard, scale history, step report; the status of the report. -/
def commitStep (k : Nat) (s : State) : State :=
  match s.job k with
  | some j =>
    let t := j.train
    let passed := t.vote == some true
    if passed && !t.gatherLost then
      let s := s.onTrain k fun t => { t.flip with discards := 0, commits := t.commits + 1 }
      reportStep k 0 (storeHistory k (writeTrain k s))
    else if passed then reportStep k 4 (writeTrain k s)
    else
      let s := dropStash k (s.onTrain k fun t => { t with discards := t.discards + 1 })
      reportStep k (if t.fault then 3 else if t.poisoned then 1 else 2) (writeTrain k s)
  | none => s

/-- How the job goes on after phase 8 (R131, R167, R170): the status that it ends with, if it ends. -/
def Job.endStatus (j : Job) : Option Nat :=
  if j.train.endAfter.isSome then j.train.endAfter
  else if j.train.discards ≠ 0 ∧ j.record.discardLimit ≤ j.train.discards then some 3
  else if j.record.steps ≠ 0 ∧ j.record.steps ≤ j.train.commits then some 0
  else if j.train.suspendAfter then some 2
  else none

end Sys2Proof.Machine
end

