-- ==== Sys2Proof/Machine/Coll.lean ====
section
/-! DEFINITION. Collectives (chapter 10): plans and shards, the hop of a reduction chain, READY, the running of a COLL from its
start to its end, and the contribution ledger. -/
namespace Sys2Proof.Machine

/-! ### Hops (R297, R339) -/

/-- Ports of a hop that carry frames: not down (frames wait through a change of width, R338), owned by the partition, encrypted where it
is protected, and no pair port. -/
def State.hopPorts (s : State) (part mask : Nat) : List Nat :=
  (List.range 16).filter fun e => mask.testBit e && s.portOn e && (s.partEps part).testBit e
    && (!s.guarded part || s.on (F.lnkStatusEnc e)) && !s.pairPort e

/-- The masks of the hops that a plan names. -/
def Plan.hops (p : Plan) : List Nat :=
  ((List.range p.dims).flatMap fun k => [p.mask k false, p.mask k true]).filter fun m => m != 0

/-- Every port that the plan names is up. -/
def State.planUp (s : State) (part : Nat) (p : Plan) : Bool :=
  p.hops.all fun m => (s.hopPorts part m).length == popCount m 16

/-- Every hop that the plan names still has a port (R339). -/
def State.hopsOpen (s : State) (part : Nat) (p : Plan) : Bool := p.hops.all fun m => !(s.hopPorts part m).isEmpty

/-! ### The hop (R294, R305, R308 to R311) -/

/-- s_local of a block with largest magnitude `amax` (Table 10.1). -/
def ownScale (fmt h : Nat) (amax : Rat) : Option Nat :=
  if amax = 0 then none
  else if fmt = 0 then some 127
  else some (min (max (ilog2 amax - fmtEmax fmt + 127 + h) 0) 254).toNat

def amaxOf (l : List Rat) : Rat := l.foldl (fun m q => let a := if q < 0 then -q else q; if m < a then a else m) 0

/-- The contribution of a chain's originator before it adds its own: S = 0, G = 0, a received +0. -/
def noContribution : Contribution :=
  { vals := some (List.replicate 32 0), own := some 0, agreed := 0, saturated := false, escalated := false, count := 0 }

/-- Draws of the RDE for one job (R296). -/
def State.rdeDraws (s : State) (k : Nat) : Draws :=
  { forced := if s.on F.rdeRngCtrlFixedEn then some (s.fld F.rdeRngCtrlFixedDraw) else none
    state := tabGet 1 s.rde.gens k, idx := s.clock.freeIdx }

/-- The cycles of an act have passed for a job's generator. -/
def State.rdeDrawn (s : State) (k n : Nat) : State :=
  let g := genRun (Config.elapsed s.clock.freeIdx) (tabGet 1 s.rde.gens k)
  { s with rde := { s.rde with gens := tabPut s.rde.gens k g }, clock := { s.clock with freeIdx := s.clock.freeIdx + n + 1 } }

/-- The elements of a block at scale `a`, none where one does not fit. -/
def elemsAt (fmt a : Nat) (x : List Rat) (draw : Nat → Nat) : Option (List Nat) :=
  (x.zipIdx.map fun v => roundFin fmt (v.1 * pow2 (127 - (a : Int))) false (.sr (draw v.2))).foldr
    (fun b acc => match acc, b with | some l, some b => some (b :: l) | _, _ => none) (some [])

/-- An element at scale `a`, clamped at the largest magnitude. -/
def clampElem (fmt a : Nat) (x : Rat) (r : Nat) : Nat :=
  let m := roundMag (fmtMant fmt) (fmtEmin fmt) (magOf (fmtMax fmt)) .rne
  (roundFin fmt (x * pow2 (127 - (a : Int))) false (.sr r)).getD (encodeMag fmt (decide (x < 0)) m.1 m.2)

def clampedAt (fmt a : Nat) (x : List Rat) (draw : Nat → Nat) : List Nat := x.zipIdx.map fun v => clampElem fmt a v.1 (draw v.2)

/-- The loop of R308: scale, elements, escalated, saturated. -/
def escalate (fmt g : Nat) (x : List Rat) (draw : Nat → Nat → Nat) : Nat → Nat → Bool → Nat × List Nat × Bool × Bool
  | 0, a, esc => (a, clampedAt fmt a x (draw 0), esc, true)
  | n + 1, a, esc =>
    match elemsAt fmt a x (draw (n + 1)) with
    | some l => (a, l, esc, false)
    | none => if decide (g + 8 < a + 1) || decide (254 < a + 1) then (a, clampedAt fmt a x (draw (n + 1)), esc, true)
      else escalate fmt g x draw n (a + 1) true

/-- A block as it travels: its information entry, its elements as bytes, its count; and as a contribution to what follows. -/
structure Sent where
  block : Nat
  info : BlockInfo
  data : List Byte
  count : Nat
deriving DecidableEq, Repr

/-- Bytes of one element of a reduction format. -/
def elemBytes (fmt : Nat) : Nat := if fmt ≤ 1 then 2 else 1

/-- A hop of the chain: the received block and this device's contribution (R308). -/
def hopBlock (fmt block : Nat) (r l : Contribution) (draw : Nat → Nat → Nat) : Sent :=
  let g := max r.agreed l.agreed
  match r.vals, l.vals with
  | some xs, some ys =>
    let x := xs.zipWith (· + ·) ys
    let a := max (r.own.getD 0) (l.own.getD 0)
    let (sc, el, esc, sat) := escalate fmt g x (fun n j => draw n (32 * (block % 40) + j)) 10 a (r.escalated || l.escalated)
    { block := block, info := { scale := sc, agreed := g, saturated := r.saturated || l.saturated || sat, escalated := esc },
      data := el.flatMap (leBytes (elemBytes fmt)), count := r.count + l.count }
  | _, _ =>
    { block := block, info := { scale := 255, agreed := r.agreed, saturated := r.saturated, escalated := r.escalated },
      data := List.replicate (32 * elemBytes fmt) 0, count := r.count + l.count }

/-- A travelling block read back: its true values and its scale. -/
def contributionOf (fmt : Nat) (i : BlockInfo) (data : List Byte) (count : Nat) : Contribution :=
  let el := (List.range 32).map fun j => decodeElem fmt (leAt data (elemBytes fmt * j) (elemBytes fmt))
  let ok := i.scale != 255 && el.all (·.finite)
  { vals := if ok then some (el.map fun v => v.val * pow2 ((i.scale : Int) - 127)) else none
    own := some i.scale, agreed := i.agreed, saturated := i.saturated, escalated := i.escalated, count := count }

/-- A partial block that closes becomes the local contribution of the next phase; an all-zero one constrains no alignment (R311). -/
def partialOf (fmt : Nat) (x : Sent) : Contribution :=
  let c := contributionOf fmt x.info x.data x.count
  match c.vals with
  | some l => if l.all fun v => v = 0 then { c with own := none } else c
  | none => c

/-- BF16 bytes of a closed block: rounded once by SR, beyond the range an infinity, canonical NaN for a non-finite one (R310, R311). -/
def closedBytes (block : Nat) (r l : Contribution) (draw : Nat → Nat) : List Byte :=
  match r.vals, l.vals with
  | some xs, some ys =>
    ((xs.zipWith (· + ·) ys).zipIdx.map fun v =>
      (convert 0 (.fin v.1 false) (.sr (draw (2048 + 32 * (block % 40) + v.2)))).1).flatMap (leBytes 2)
  | _, _ => (List.replicate 32 0x7FC0).flatMap (leBytes 2)

/-! ### A running COLL -/

/-- How many phases a COLL has, and what phase `i` is: gather or reduce, and its dimension (R299). -/
def Coll.phases (x : Coll) (p : Plan) : Nat := if x.op = 2 then 2 * p.dims else p.dims
def Coll.stage (x : Coll) (p : Plan) (i : Nat) : Bool × Nat :=
  if x.op = 1 then (true, p.dims - 1 - i) else if i < p.dims then (false, i) else (true, 2 * p.dims - 1 - i)

/-- The phase in which frames of a type and dimension are processed. -/
def Coll.phaseOf (x : Coll) (p : Plan) (gather : Bool) (k : Nat) : Nat :=
  if gather then (if x.op = 1 then p.dims - 1 - k else 2 * p.dims - 1 - k) else k

/-- The job's window is poisoned: its blocks go out with scale 0xFF (R129, R167). -/
def State.jobPoisoned (s : State) (k : Nat) : Bool := match s.job k with | some j => j.train.poisoned | none => false

/-- The local block of the first phase (R305): stored values × 2^tile_exp. -/
def localBlock (x : Coll) (b : Nat) (s : State) : State × Contribution :=
  let dead : Contribution := { vals := none, own := none, agreed := 0, saturated := false, escalated := false, count := 1 }
  if !x.scalar.isEmpty then
    let v := x.scalar.map bf
    if v.all (·.finite) then
      let q := v.map (·.val)
      let o := ownScale x.fmt x.headroom (amaxOf q)
      (s, { dead with vals := some q, own := o, agreed := o.getD 0 })
    else (s, dead)
  else
    let (s, bs, bad) := readNow x.part (x.buf + 64 * b) 64 s
    let (s, tile, tbad) := if x.expAddr = 0 then (s, [], false) else readNow x.part (x.expAddr + 8 * (b / 8192)) 8 s
    let t := leNat tile
    let v := (List.range 32).map fun i => bf (BitVec.ofNat 16 (leAt bs (2 * i) 2))
    if bad || tbad || bitAt t 17 || bitAt t 20 || s.jobPoisoned x.key || v.any (fun n => !n.finite) then (s, dead)
    else
      let q := v.map fun n => n.val * pow2 (signedOf 16 t)
      let o := ownScale x.fmt x.headroom (amaxOf q)
      (s, { dead with vals := some q, own := o, agreed := o.getD 0 })

/-- This device's contribution to a block in the phase of dimension k. -/
def contribution (x : Coll) (k b : Nat) (s : State) : State × Contribution :=
  if k = 0 then localBlock x b s
  else (s, tabGet { vals := none, own := none, agreed := 0, saturated := false, escalated := false, count := 0 } x.parts b)

/-- Runs of consecutive blocks with one count, at most `m` long: the blocks of one frame. -/
def runsOf (m : Nat) (l : List Sent) : List (List Sent) :=
  (l.foldl (fun (acc : List (List Sent)) v =>
    match acc with
    | (y :: ys) :: rest => if y.block + 1 = v.block ∧ y.count = v.count ∧ (y :: ys).length < m then (v :: y :: ys) :: rest
                           else [v] :: (y :: ys) :: rest
    | _ => [v] :: acc) []).reverse.map List.reverse

/-- A frame goes out on its hop: blocks are spread over the ports by block index (R297). -/
def emitFrame (x : Coll) (mask type : Nat) (f : Frame) (s : State) : State :=
  let up := s.hopPorts x.part mask
  match up[f.blockFirst % max 1 up.length]? with
  | some e => sendColl e type (s.guarded x.part) f s
  | none => s

/-- Blocks go out along a dimension; REDUCE frames wait for the READY of their peer (R300). -/
def sendBlocks (x : Coll) (p : Plan) (gather : Bool) (k : Nat) (prev : Bool) (hops : Nat) (l : List Sent) (s : State) : Coll × State :=
  let mask := p.mask k prev
  let m := if (s.hopPorts x.part mask).length ≤ 1 then 16 else 1
  (runsOf m l).foldl (fun (y : Coll × State) g =>
    let f : Frame := { noFrame with
      fmt := if gather then 0 else x.fmt, job := x.job, pace := y.2.paced, bucket := x.bucket, n := g.length, dim := k, prev := prev,
      blockFirst := (g.head?.map (·.block)).getD 0, count := if gather then 0 else (g.head?.map (·.count)).getD 0,
      src := y.2.position, dst := p.peer k prev, hops := hops, attempt := x.attempt % 2 ^ 32,
      step := (match y.2.job x.key with | some j => if j.training then j.train.step else 0 | none => 0) % 2 ^ 32,
      info := g.map (·.info), payload := g.flatMap (·.data) }
    if gather || y.1.readyRx.contains (k, prev) then (y.1, emitFrame y.1 mask (if gather then 2 else 1) f y.2)
    else ({ y.1 with waiting := y.1.waiting ++ [f] }, y.2)) (x, s)

/-- Where the all-gather's blocks are, and the owned shard's first block. -/
def Coll.gatherAddr (x : Coll) (b : Nat) : Nat := (if x.op = 1 then x.buf else x.out) + 64 * b
def Coll.outAddr (x : Coll) (p : Plan) (b : Nat) : Nat := x.out + 64 * (if x.op = 2 then b else b - (p.part x.blocks p.dims).1)

/-- A block of a reduction closes at this device (R311, R312): a partial one enters the next phase, a whole one goes to out, and its
count is checked against the group. -/
def closeBlock (p : Plan) (k b port : Nat) (r : Contribution) (rk : Nat) (y : Coll × State) : Coll × State :=
  let (x, s) := y
  let (s, l) := contribution x k b s
  let d := s.rdeDraws x.key
  if k + 1 < p.dims then
    let v := hopBlock x.fmt b r l (fun n site => d.at (16 * rk + n) site)
    ({ x with next := tabPut x.next b (partialOf x.fmt v), done := b :: x.done }, s)
  else
    let bytes := closedBytes b r l (fun site => d.at (16 * rk) site)
    let n := r.count + l.count
    let live := r.vals.isSome && l.vals.isSome
    let sat := r.saturated || (live && l.saturated)
    let esc := r.escalated || (live && l.escalated)
    let (x, s) := if x.scalar.isEmpty then (x, pairStream x.key [(x.outAddr p b, 64)] (writeNow x.part (x.outAddr p b) bytes s))
      else ({ x with scalar := (List.range 32).map fun i => BitVec.ofNat 16 (leAt bytes (2 * i) 2) }, s)
    let s := s.bump64 .rdeBlkClosedLo .rdeBlkClosedHi 1
    let s := s.setFld F.rdeCntDeltaDelta (unsignedOf 32 ((s.fld F.rdeCntDeltaDelta : Int) + n - x.group))
    let s := if esc then s.bump F.rdeEscalatedEsc else s
    let s := if sat then (s.bump F.rdeSaturatedSat).onTrain x.key fun t => { t with replays := t.replays + 1 } else s
    let s := if n = x.group then s
      else errRecord { bank := 8, unit := port, cause := 1, cls := 3,
                       jobTag := (match s.job x.key with | some j => j.record.tag | none => 0),
                       address := x.bucket * 2 ^ 16 + b * 2 ^ 32, detail := n % 2 ^ 32 + x.group * 2 ^ 32 } s
    ({ x with done := b :: x.done }, s)

/-- The originator's blocks of one direction. -/
def originate (p : Plan) (k : Nat) (prev : Bool) (y : Coll × State) : Coll × State :=
  let (x, s) := y
  let d := p.d k
  let r := if prev then (p.c k + 1) % d else (p.c k + d - 1) % d
  let bs := blocksOf (p.half (p.sub x.blocks k r) prev)
  let (s, out) := bs.foldl (fun (z : State × List Sent) b =>
    let (s, l) := contribution x k b z.1
    let dr := s.rdeDraws x.key
    (s, hopBlock x.fmt b noContribution l (fun n site => dr.at (16 * z.2.length + n) site) :: z.2)) (s, [])
  let s := if bs.isEmpty then s else s.rdeDrawn x.key (16 * bs.length)
  sendBlocks { x with done := bs ++ x.done } p false k prev 1 out.reverse s

/-- The copies of this device's own sub-part go out in one direction. -/
def copyOut (p : Plan) (k : Nat) (prev : Bool) (y : Coll × State) : Coll × State :=
  let (x, s) := y
  let bs := blocksOf (p.half (p.sub x.blocks k (p.c k)) prev)
  let (s, out) := bs.foldl (fun (z : State × List Sent) b =>
    let (s, data, _) := if x.scalar.isEmpty then readNow x.part (x.gatherAddr b) 64 z.1
      else (z.1, x.scalar.flatMap (fun h => leBytes 2 h.toNat), false)
    (s, { block := b, info := { scale := 0, agreed := 0, saturated := false, escalated := false }, data := data, count := 0 } :: z.2)) (s, [])
  sendBlocks { x with done := bs ++ x.done } p true k prev 1 out.reverse s

/-- A REDUCE or GATHER frame of the phase at hand, block by block (R299, R306, R308): repeats are counted and left out. -/
def takeBlocks (p : Plan) (type : Nat) (f : Frame) (port : Nat) (y : Coll × State) : Coll × State :=
  let (x, s) := y
  let gather := type == 2
  let k := f.dim
  let ph := x.phaseOf p gather k
  let (lo, hi) := p.part x.blocks k
  let size := if gather then 64 else 32 * elemBytes x.fmt
  let own := p.half (p.sub x.blocks k (p.c k)) f.prev
  let (x, s, out) := (List.range f.n).foldl (fun (z : Coll × State × List Sent) i =>
    let (x, s, out) := z
    let b := f.blockFirst + i
    if x.seen.contains (ph, f.prev, b) then (x, s.bump (F.lnkDupDup port), out)
    else if b < lo ∨ hi ≤ b ∨ x.done.contains b then z
    else
      let x := { x with seen := (ph, f.prev, b) :: x.seen }
      let data := (f.payload.drop (size * i)).take size
      let info := f.info.getD i { scale := 0, agreed := 0, saturated := false, escalated := false }
      if gather then
        let (x, s) := if x.scalar.isEmpty then (x, pairStream x.key [(x.gatherAddr b, 64)] (writeNow x.part (x.gatherAddr b) data s))
          else ({ x with scalar := (List.range 32).map fun i => BitVec.ofNat 16 (leAt data (2 * i) 2) }, s)
        ({ x with done := b :: x.done }, s, { block := b, info := info, data := data, count := 0 } :: out)
      else
        let r := contributionOf x.fmt info data f.count
        if own.1 ≤ b ∧ b < own.2 then
          let (x, s) := closeBlock p k b port r i (x, s)
          (x, s, out)
        else
          let (s, l) := contribution x k b s
          let d := s.rdeDraws x.key
          ({ x with done := b :: x.done }, s, hopBlock x.fmt b r l (fun n site => d.at (16 * i + n) site) :: out)) (x, s, [])
  let s := s.rdeDrawn x.key (16 * f.n)
  if out.isEmpty || (gather && decide (p.d k ≤ f.hops + 1)) then (x, s)
  else sendBlocks x p gather k f.prev (f.hops + 1) out.reverse s

/-- A phase begins: what this device originates or sends goes out, a ring of one closes alone. -/
def beginPhase (p : Plan) (y : Coll × State) : Coll × State :=
  let (x, s) := y
  let (gather, k) := x.stage p x.phase
  let x := { x with opened := true, done := [] }
  if p.d k = 1 then
    if gather then ({ x with done := blocksOf (p.part x.blocks k) }, s)
    else
      let bs := blocksOf (p.part x.blocks k)
      let (x, s) := bs.zipIdx.foldl (fun z b => closeBlock p k b.1 0 noContribution b.2 z) (x, s)
      (x, s.rdeDrawn x.key (16 * bs.length))
  else if gather then copyOut p k true (copyOut p k false (x, s))
  else originate p k true (originate p k false (x, s))

/-- The phases that can begin or end now do so. -/
def runPhases (p : Plan) : Nat → Coll × State → Coll × State
  | 0, y => y
  | n + 1, y =>
    let (x, s) := y
    if x.phases p ≤ x.phase then y
    else
      let (x, s) := if x.opened then (x, s) else
        let (x, s) := beginPhase p (x, s)
        -- frames that came too early
        let mine := x.held.filter fun h => x.phaseOf p (h.1 == 2) h.2.1.dim == x.phase
        mine.foldl (fun z h => takeBlocks p h.1 h.2.1 h.2.2 z)
          ({ x with held := x.held.filter fun h => x.phaseOf p (h.1 == 2) h.2.1.dim != x.phase }, s)
      let (_, k) := x.stage p x.phase
      let (lo, hi) := p.part x.blocks k
      if hi - lo ≤ x.done.length then
        runPhases p n ({ x with phase := x.phase + 1, opened := false, done := [], parts := x.next, next := [] }, s)
      else (x, s)

/-! ### The end of a COLL (R306) -/

/-- A frame of the bucket waits at some port: the link layer has not taken it. -/
def State.framesQueued (s : State) (job bucket : Nat) : Bool :=
  (List.range 16).any fun e => (s.ep e).txq.any fun f => f.vc == 1 && (leAt f.bytes 0 1 == 1 || leAt f.bytes 0 1 == 2)
    && leAt f.bytes 2 2 % 4096 == job && leAt f.bytes 4 2 == bucket

/-- The same COLL: one runs per job, bucket and operation of an attempt. -/
def Coll.same (x y : Coll) : Bool := x.key == y.key && x.bucket == y.bucket && x.op == y.op && x.attempt == y.attempt

def State.putColl (s : State) (x : Coll) : State :=
  { s with rde := { s.rde with colls := s.rde.colls.map fun y => if y.same x then x else y } }
def State.dropColl (s : State) (x : Coll) : State :=
  { s with rde := { s.rde with colls := s.rde.colls.filter fun y => !y.same x } }

/-- A member's moments are mirrored (R320). -/
def State.mirrors (s : State) (j : Job) : Bool := s.on F.rdeGroupCtrlMirrorEn && decide (1 < j.record.groupSize) && s.mirrorLen j.part != 0

/-- The moments of the step go to the mirror holder as phase 7 begins (R320): the next peer of dimension 0 of plan 0. With no port to it
nothing goes out, and phase 7 does not end. -/
def sendMirror (k : Nat) (s : State) : State :=
  match s.job k with
  | some j =>
    let n := s.mirrorLen j.part
    let dest := (s.plan 0).peer 0 false
    if !s.mirrors j || ((s.portsTo dest).filter fun e => !s.guarded j.part || s.on (F.lnkStatusEnc e)).isEmpty then s
    else
      let base := if j.train.slotB then j.train.momA else j.train.momB
      let s := s.onTrain k fun t => { t with mirrorSent := true }
      (List.range (n / 1024)).foldl (fun t i =>
        let (t, bs, _) := readNow j.part (base + 1024 * i) 1024 t
        sendTo dest 0xB (t.guarded j.part) { noFrame with job := j.record.collJob, n := 16, blockFirst := 16 * i, step := j.train.step % 2 ^ 32, payload := bs } t) s
  | none => s

/-- The vote result is known (R126, R167): the sequencer that holds the STEP goes on, or skips up to COMMIT. -/
def voteDone (k c : Nat) (passed : Bool) (s : State) : State :=
  match s.job k with
  | some j =>
    let s := s.onTrain k fun t => { t with vote := some passed, phase := .voted }
    let s := completeHere c s
    if passed then sendMirror k s
    else j.cores.foldl (fun t o => let q := t.sq o; t.setSq o { q with skipping := true }) s
  | none => s

/-- A COLL ends without completing (R234, R297, R339): its job ends with COLL_FAULT, a training job after phase 8. Its signal is
raised, so that the stream reaches COMMIT; an all-gather of phase 7 is lost. -/
def collFault (x : Coll) (s : State) : State :=
  let s := s.dropColl x
  match s.job x.key with
  | none => s
  | some j =>
    let tag := match x.item with | some q => q.d.tag | none => 0
    let layer := match x.item with | some q => q.d.layer | none => 0xFFFF
    if !j.training then endJob x.key 0x14 tag 0 s
    else
      let s := if j.train.vote == some true then s.onTrain x.key fun t => { t with gatherLost := true } else s
      let s := failJob x.key 0x14 layer tag 0xFFFF 0 s
      match x.item with
      | some q => signalDesc j q.d s
      | none => voteDone x.key x.core false s

/-- A COLL that has ended all its phases, and whose frames the link layer has taken, is complete. -/
def settleColl (x : Coll) (s : State) : State :=
  let p := s.plan x.plan
  if !s.hopsOpen x.part p then collFault x s
  else if x.phase < x.phases p ∨ !x.waiting.isEmpty ∨ s.framesQueued x.job x.bucket = true then s.putColl x
  else
    let s := s.dropColl x
    match x.item, s.job x.key with
    | some q, some j => settle x.core .coll (signalDesc j q.d s)
    | none, some _ => voteDone x.key x.core ((x.scalar.map bf).all fun v => v.isZero) s
    | _, none => s

/-- A COLL goes on as far as it can. -/
def runColl (x : Coll) (s : State) : State :=
  let p := s.plan x.plan
  if !s.hopsOpen x.part p then collFault x s
  else let (x, s) := runPhases p (x.phases p + 1) (x, s); settleColl x s

/-- Every COLL that can end does so: after frames have left a port, or a port has gone down. -/
def settleColls (s : State) : State := s.rde.colls.foldl (fun t x => match t.rde.colls.find? (·.same x) with
  | some y => settleColl y t
  | none => t) s

/-! ### READY (R300, R301, R303) -/

/-- Dimensions and directions in which this device receives REDUCE frames. -/
def Coll.inward (x : Coll) (p : Plan) : List (Nat × Bool) :=
  if x.op = 1 then []
  else (List.range p.dims).flatMap fun k => if p.d k = 1 then [] else (k, false) :: (if p.both then [(k, true)] else [])

/-- READY goes to the peer that sends REDUCE frames in the direction, on the lowest port of that hop. -/
def sendReady (x : Coll) (p : Plan) (d : Nat × Bool) (s : State) : State :=
  match s.hopPorts x.part (p.mask d.1 (!d.2)) with
  | e :: _ => sendColl e 3 (s.guarded x.part)
      { noFrame with fmt := x.fmt, job := x.job, bucket := x.bucket, dim := d.1, prev := d.2, src := s.position, dst := p.peer d.1 (!d.2),
                     attempt := x.attempt % 2 ^ 32 } s
  | [] => s

/-- READY_REPEAT: every READY not answered goes out again. -/
def readyRepeat (s : State) : State :=
  if !s.live then s
  else s.rde.colls.foldl (fun t x => x.readyTx.foldl (fun u d => sendReady x (u.plan x.plan) d u) t) s

/-- The running job of a collective job ID. -/
def State.collJob (s : State) (id : Nat) : Option (Nat × Job) := s.jobs.find? fun x => x.2.record.collJob % 4096 == id

/-- A frame is stale (R303): no such job, another attempt, or a bucket that the job's table does not list; the vote's is its training job's
own (R126). -/
def State.stale (s : State) (f : Frame) : Bool :=
  match s.collJob f.job with
  | none => true
  | some (_, j) => f.attempt != (if j.training then j.train.attempt else 0) % 2 ^ 32
      || !(j.training && f.bucket == 0xFFFF || j.image.buckets.any fun b => b.id == f.bucket)

/-- A READY that arrives (R300, R301). -/
def takeReady (port : Nat) (f : Frame) (s : State) : State :=
  let d := (f.dim, f.prev)
  match s.rde.colls.find? fun x => x.job == f.job && x.bucket == f.bucket && x.op != 1 with
  | some x =>
    if x.readyRx.contains d then s
    else
      let p := s.plan x.plan
      let go := x.waiting.filter fun w => (w.dim, w.prev) == d
      let x := { x with readyRx := d :: x.readyRx, waiting := x.waiting.filter fun w => (w.dim, w.prev) != d }
      settleColl x (go.foldl (fun t w => emitFrame x (p.mask w.dim w.prev) 1 w t) (s.putColl x))
  | none =>
    let same (e : EarlyFrame) : Bool := e.type == 3 && e.frame.job == f.job && e.frame.bucket == f.bucket && e.frame.attempt == f.attempt
      && e.frame.dim == f.dim && e.frame.prev == f.prev
    let done := match s.collJob f.job with
      | some (_, j) => j.train.collsDone.contains f.bucket
      | none => false
    if done || s.rde.early.any same then s
    else if 16384 ≤ (s.rde.early.filter fun e => e.type == 3).length then s.bump F.rdeReadyDropDrop
    else { s with rde := { s.rde with early := s.rde.early ++ [{ type := 3, port := port, frame := f }] } }

/-- A REDUCE or GATHER frame that arrives: it is processed in its phase, or held for it. -/
def takeCollFrame (port type : Nat) (f : Frame) (s : State) : State :=
  let gather := type == 2
  match s.rde.colls.find? fun x => x.job == f.job && x.bucket == f.bucket && (if gather then x.op != 0 else x.op != 1) with
  | some x =>
    let p := s.plan x.plan
    let x := if gather then x else { x with readyTx := x.readyTx.filter fun d => d != (f.dim, f.prev) }
    let ph := x.phaseOf p gather f.dim
    if p.dims ≤ f.dim then s
    else if x.phase < ph ∨ !x.opened then settleColl { x with held := x.held ++ [(type, f, port)] } s
    else let (x, s) := takeBlocks p type f port (x, s); runColl x s
  | none => if gather then { s with rde := { s.rde with early := s.rde.early ++ [{ type := 2, port := port, frame := f }] } } else s

/-! ### The start of a COLL (R296, R297, R300, R307) -/

/-- The generator of a job is seeded as its first COLL of a step, or of the job, starts. -/
def seedRde (k : Nat) (s : State) : State :=
  match s.job k with
  | some j =>
    if j.seeded.contains 12 then s
    else
      let step := if j.training then j.train.step else 0
      let s := { s with rde := { s.rde with gens := tabPut s.rde.gens k (seedUnit j.record.seed s.position 12 step) } }
      s.setJob k { j with seeded := 12 :: j.seeded }
  | none => s

/-- The slot difference that a bucket's code adds to buf (Table 10.5, Table 6.3). -/
def Job.slotShift (j : Job) (code : Nat) : Int :=
  let d : Int := if code ≤ 2 then (j.train.paramB : Int) - j.train.paramA else (j.train.momB : Int) - j.train.momA
  if !j.training || code == 0 then 0
  else if (code % 2 == 1) == j.train.slotB then d else 0

/-- A COLL starts: READY goes out for every phase and direction, records that came before it are taken, the first phase begins. -/
def startColl (x : Coll) (s : State) : State :=
  let p := s.plan x.plan
  let bad := p.dims = 0 ∨ 3 < p.dims ∨ p.total ≠ x.group ∨ s.planUp x.part p = false
  let s := seedRde x.key s
  let s := { s with rde := { s.rde with colls := s.rde.colls ++ [x] } }
  if bad then collFault x s
  else
    let mine (e : EarlyFrame) : Bool := e.frame.job == x.job && e.frame.bucket == x.bucket && e.frame.attempt == x.attempt % 2 ^ 32
      && (if e.type == 3 then x.op != 1 else x.op != 0)
    let early := s.rde.early.filter mine
    let x := { x with readyRx := (early.filter fun e => e.type == 3).map fun e => (e.frame.dim, e.frame.prev)
                      held := (early.filter fun e => e.type == 2).map fun e => (2, e.frame, e.port)
                      readyTx := x.inward p }
    let s := { s with rde := { s.rde with early := s.rde.early.filter fun e => !mine e } }
    let s := x.readyTx.foldl (fun t d => sendReady x p d t) (s.putColl x)
    runColl x s

/-- The COLL that a descriptor names, as it starts. -/
def collOfItem (k c : Nat) (j : Job) (q : QItem) (s : State) : Option Coll :=
  let b := (j.image.buckets.find? fun b => b.id == q.d.at 0x12 2).getD { id := 0, gradient := false, headroom := 0, slot := 0, expAddr := 0 }
  let op := q.d.at 0x10 1
  let blocks := q.d.at 0x18 4
  let p := s.plan (q.d.at 0x1C 2)
  let buf := j.addrOf q 0x14
  let out := j.addrOf q 0x20
  let need := (op = 2 ∨ buf.isSome) ∧ (op = 1 ∨ out.isSome) ∧ (op = 1 ∨ buf.isSome)
  let base : Int := ((buf.getD 0 : Nat) : Int) + (if op = 1 then j.slotShift b.slot else 0)
  let own := p.part blocks p.dims
  let x : Coll := {
    core := c, key := k, part := j.part, job := j.record.collJob % 4096, attempt := (if j.training then j.train.attempt else 0),
    bucket := q.d.at 0x12 2, op := op, fmt := q.d.at 0x11 1, plan := q.d.at 0x1C 2, buf := base.toNat, out := out.getD 0, blocks := blocks,
    weight := q.d.at 0x1E 1, headroom := b.headroom, expAddr := b.expAddr, group := (if j.training then j.record.groupSize else p.total),
    item := some q, scalar := [], phase := 0, opened := false, done := [], held := [], parts := [], next := [], seen := [], readyRx := [],
    readyTx := [], waiting := [] }
  let inSpan := s.inSlice j x.buf (64 * blocks) && (op == 1 || s.inSlice j x.out (64 * (if op = 2 then blocks else own.2 - own.1)))
    && (b.expAddr == 0 || op == 1 || s.inSlice j b.expAddr (8 * ceilDiv blocks 8192))
  if need ∧ 0 ≤ base ∧ inSpan = true then some x else none

/-- REDUCE_SCATTER, ALL_GATHER, ALL_REDUCE: the COLL at the head of a core's queue starts; at most 256 run (R307). -/
def collRow (c op : Nat) (s : State) : State :=
  match s.ready c .coll 6 with
  | some (k, j, q) =>
    if q.d.at 0x10 1 != op || decide (256 ≤ s.rde.colls.length) then s
    else
      let s1 := popHead c .coll s
      match collOfItem k c j q s with
      | none =>
        -- an operand outside the span, or an address that is none
        collFault {
                    core := c, key := k, part := j.part, job := 0, attempt := 0, bucket := q.d.at 0x12 2, op := 3, fmt := 0, plan := 0, buf := 0,
                    out := 0, blocks := 0, weight := 0, headroom := 0, expAddr := 0, group := 0, item := some q, scalar := [], phase := 0,
                    opened := false, done := [], held := [], parts := [], next := [], seen := [], readyRx := [], readyTx := [], waiting := [] } s1
      | some x =>
        let own := (s.plan x.plan).part x.blocks (s.plan x.plan).dims
        let shard := 64 * (own.2 - own.1)
        let writes := if op = 1 then [] else [(x.out, if op = 2 then 64 * x.blocks else shard)]
        let reads := [if op = 1 then (x.buf + 64 * own.1, shard) else (x.buf, 64 * x.blocks)] ++ (if x.expAddr = 0 ∨ op = 1 then [] else [(x.expAddr, 8 * ceilDiv x.blocks 8192)])
        match touch j.part { reads := reads, writes := writes } s with
        | .wait t => t
        | .ok t _ => startColl x ((popHead c .coll t).onTrain k fun u => { u with collsDone := x.bucket :: u.collsDone })
  | none => s

def execReduceScatter (c : Fin 4) (s : State) : Res := go s (collRow c 0)
def execAllGather (c : Fin 4) (s : State) : Res := go s (collRow c 1)
def execAllReduce (c : Fin 4) (s : State) : Res := go s (collRow c 2)
def execReadyRepeat (s : State) : Res := go s readyRepeat

end Sys2Proof.Machine
end

