-- ==== Sys2Proof/Machine/Lend.lean ====
section
/-! DEFINITION. Lending and borrowing (R258 to R264, R343, R344): the messages of Table 11.5 at both ends, the loss of a lender or of
a borrower. -/
namespace Sys2Proof.Machine

/-! ### Receiving a lending message -/

/-- A received message leaves the port's inbox. -/
def takeLend (ep type : Nat) (m : LendMsg) (s : State) : State :=
  let x := s.ep ep
  s.setEp ep { x with inbox := x.inbox.erase (.lend type m) }

/-- A message number is taken once (R343): the pair with it noted, none for a repeat. -/
def LendPair.note (l : LendPair) (seq : Nat) : Option LendPair :=
  if seq ≤ l.rxSeq ∨ l.seen.contains seq then none
  else
    let seen := seq :: l.seen
    -- the received numbers without a gap move up
    let rx := (List.range seen.length).foldl (fun r _ => if seen.contains (r + 1) then r + 1 else r) l.rxSeq
    some { l with rxSeq := rx, seen := seen.filter fun q => decide (rx < q) }

/-- A received message is acted on once; a repeat is counted (R339). -/
def lendOnce (ep type : Nat) (m : LendMsg) (f : State → State) (s : State) : State :=
  if !s.live then s
  else
    let s := heardPort ep (takeLend ep type m s)
    match (s.lendPair m.src).note m.seq with
    | some l => f (s.setLendPair m.src l)
    | none => s.bump (F.lnkDupDup ep)

/-- A part of a PLACE or TAKEN is held until the others have come (R344): the whole payload once it is complete. -/
def addPart (m : LendMsg) (s : State) : State × Option (List Byte) :=
  let l := s.lendPair m.src
  let ps := l.parts ++ [(m.part, m.lastPart, m.payload)]
  match ps.find? fun x => x.2.1 with
  | some last =>
    let got := (List.range (last.1 + 1)).filterMap fun i => (ps.find? fun x => x.1 == i).map (·.2.2)
    if got.length = last.1 + 1 then (s.setLendPair m.src { l with parts := [] }, some got.flatten)
    else (s.setLendPair m.src { l with parts := ps }, none)
  | none => (s.setLendPair m.src { l with parts := ps }, none)

/-! ### The lender -/

/-- OFFER_TIMER: the offers are repeated, and a pool whose partition is short of T1 is reclaimed. -/
def offerTimer (s : State) : State :=
  if !s.live then s
  else
    let s := (List.range 4).foldl (fun t p => if t.partValid p then reclaimBlocks p (reclaimPool p t) else t) s
    if (List.range 4).any fun p => s.partValid p && s.on (F.spnLendLendEn p) then s.lendPeers.foldl (fun t q => sendOffer q t) s else s

/-- Devices that borrow here. -/
def State.borrowers (s : State) : List Nat :=
  s.lentPages.foldl (fun l x => if l.contains x.2.borrower then l else l ++ [x.2.borrower]) []

/-- A place of `n` granules in a partition's pool, clear of lent pages and of ranges under reclaim. -/
def State.poolPlace (s : State) (p n : Nat) : Option Nat :=
  let base := s.poolBase p
  let cap := s.t1Linear p
  let used := (0, base) :: s.t1Holes p ++ ((s.lentOf p).map fun x => (x.1 % 2 ^ 30, x.2.granules))
    ++ ((s.reclaims.filter fun r => r.first / 2 ^ 30 == p).map fun r => (r.first % 2 ^ 30, r.count))
  if n ≤ s.offerOf p then freePlace used (base + s.pick (cap - base)) cap n 1 else none

def addLent (d : Int) (s : State) : State :=
  s.setFld F.spnLentOutLent (unsignedOf 32 (s.fld F.spnLentOutLent + d))

/-- A whole PLACE is answered with a handle, or with a refusal (R259). -/
def acceptPlace (m : LendMsg) (bytes : List Byte) (s : State) : State :=
  let known := s.borrowers.contains m.src || decide (s.borrowers.length < 16)
  let spot := (List.range 4).findSome? fun p => (s.poolPlace p m.arg).map fun g => (p, g)
  match (if known && decide (1 ≤ m.arg) && decide (m.arg ≤ 16) then spot else none) with
  | some (p, g) =>
    let h := handleOf p g
    let lent : LentPage := { borrower := m.src, granules := m.arg, packed := m.packed, bytes := padTo (m.arg * 4096) bytes }
    let s := t1Write p ((List.range (2 * m.arg)).map fun i => (2 * g + i, 0, 32)) { s.spend with lentPages := tabPut s.lentPages h lent }
    offerChanged (sendLend m.src 3 (s.guarded p) (lendMsg h m.arg) (addLent m.arg s))
  | none => sendLend m.src 3 false (lendMsg 0 0) s

/-- One stripe of a lent page, as a packed payload or 2 KiB plain. -/
def LentPage.stripe (x : LentPage) (k : Nat) : List Byte :=
  if x.packed then
    let h := leAt x.bytes (8 * k) 8
    (x.bytes.drop (64 * bitsAt h 21 11)).take (64 * (bitsAt h 16 5 + 1))
  else (x.bytes.drop (2048 * k)).take 2048

/-- FETCH is answered with DATA. -/
def answerFetch (m : LendMsg) (s : State) : State :=
  match tabFind s.lentPages m.handle with
  | some x =>
    if x.borrower = m.src then
      sendLend m.src 5 (s.guarded (m.handle / 2 ^ 30)) { lendMsg m.handle m.arg with packed := x.packed, payload := x.stripe (m.arg % 32) } s
    else s
  | none => s

/-- FREE: the granules are free on arrival. -/
def takeFree (m : LendMsg) (s : State) : State :=
  match tabFind s.lentPages m.handle with
  | some x =>
    if x.borrower = m.src then
      finishRetires (offerChanged (addLent (-(x.granules : Int)) { s with lentPages := tabDel s.lentPages m.handle }))
    else s
  | none => s

/-- The range of a reclaim is the lender's again: pages still held there go, and the count of lent granules changes. -/
def endReclaim (r : ReclaimOut) (s : State) : State :=
  let mine := s.lentPages.filter fun x => x.2.borrower == r.borrower && overlaps x r.first r.count
  let n : Nat := mine.foldl (fun n x => n + x.2.granules) 0
  let s := { s with lentPages := s.lentPages.filter fun x => !(x.2.borrower == r.borrower && overlaps x r.first r.count)
                    reclaims := s.reclaims.filter fun q => q != r }
  finishRetires (offerChanged (giveBack (r.first / 2 ^ 30) r.first r.count (addLent (-(n : Int)) s)))

/-- RETURNED ends the reclaim (R261). -/
def takeReturned (m : LendMsg) (s : State) : State :=
  match s.reclaims.find? fun r => r.borrower == m.src && r.first == m.handle && r.count == m.arg with
  | some r => endReclaim r s
  | none => s

/-- RECLAIM_DEADLINE: the lender takes the range and says which handles were still held (R261, R344). -/
def reclaimDeadline (peer : Nat) (s : State) : State :=
  if !s.live then s
  else match s.reclaims.find? fun r => r.borrower == peer with
    | none => s
    | some r =>
      let held := (s.lentPages.filter fun x => x.2.borrower == peer && overlaps x r.first r.count).map (·.1)
      let bytes := held.flatMap (leBytes 4)
      let parts := max 1 (ceilDiv bytes.length 8192)
      let s := (List.range parts).foldl (fun t i =>
        sendLend peer 9 (t.guarded (r.first / 2 ^ 30))
          { lendMsg r.first r.count with part := i, lastPart := decide (i + 1 = parts), payload := (bytes.drop (8192 * i)).take 8192 } t) s
      endReclaim r s

/-! ### The borrower -/

/-- OFFER updates what a named lender offers. -/
def takeOffer (m : LendMsg) (s : State) : State :=
  if (List.range 8).any fun n => s.on (F.spnLendPeerValid n) && s.fld (F.spnLendPeerPos n) == m.src then
    s.setLendPair m.src { s.lendPair m.src with offered := m.arg }
  else s

/-- The class keeps a T3 copy of every T2 page: it is written to a T3 slot, and the page is backed once the host has acknowledged
it (R264). -/
def backPage (p pg : Nat) (s : State) : State :=
  let x := s.page pg
  if !(s.policy p x.cls).backed || x.backSlot.isSome then s
  else match s.t3Place p, s.t3Region p with
    | some k, some (q, va, rk) =>
      let form := (packForm s p pg x.layout).2
      issueWrite q (va + k * 65536) rk form none (.t3 p pg) (s.spend.setPage pg { x with backSlot := some k })
    | _, _ => s

/-- The page, packed with layout `l`, has a place at the lender: the entry changes at once, the old place is free. -/
def pagePlaced (p pg l : Nat) (m : LendMsg) (s : State) : State :=
  let x := s.page pg
  let s := freeHome p x s
  let s := addBorrowed m.src m.arg s
  let y := { s.repacked pg { x with layout := l } with
    layout := x.layout, home := .t2, lender := m.src, location := m.handle, moving := false, moveTo := none, moveHit := false
    backed := x.backed && x.home == .t2 }
  offerChanged (backPage p pg ({ s with flips := s.flips.filter fun f => f.1 / 1024 != pg }.setPage pg y))

/-- A refused page: it waits for room if it moves; one that has no other home goes to T3, or to T1, or is lost. -/
def pageRefused (p pg : Nat) (s : State) : State :=
  let x := s.page pg
  if x.home != .t2 || x.location != 0 then s.setPage pg { x with moving := false }
  else match newHome p pg .t3 s with
    | some t => t
    | none => match newHome p pg .t1 s with
      | some t => t
      | none => losePage p pg true s

/-- PLACED answers the oldest PLACE to that lender. A page unmapped or written in the meantime gives the new handle back. -/
def takePlaced (m : LendMsg) (s : State) : State :=
  let l := s.lendPair m.src
  match l.placing with
  | [] => s
  | (pg, lay) :: rest =>
    let s := s.setLendPair m.src { l with placing := rest }
    let x := s.page pg
    match s.partOfAddr (pg * 65536) with
    | none => s
    | some p =>
      if m.handle = 0 then (if x.takes then pageRefused p pg s else s)
      else if !x.takes || (x.home != .t2 && (x.moveTo != some .t2 || x.moveHit)) then
        sendLend m.src 6 (s.guarded p) (lendMsg m.handle 0)
          (if x.takes && x.moveTo == some .t2 then s.setPage pg { x with moving := false, moveHit := false } else s)
      else pagePlaced p pg lay m s

/-- DATA delivers one stripe to the fill that waits for it (R252). -/
def takeData (m : LendMsg) (s : State) : State :=
  match (s.pages.find? fun x => x.2.home == .t2 && x.2.lender == m.src && x.2.location == m.handle) with
  | none => s
  | some (pg, _) =>
    match s.partOfAddr (pg * 65536) with
    | none => s
    | some p =>
      let k := m.arg % 32
      if s.fills.any fun f => f.page == pg && f.stripe == k then takeFill p pg k m.payload s else s

/-- Pages of this device with a granule in a range at a lender. -/
def State.heldIn (s : State) (lender first count : Nat) : List Nat :=
  (s.pages.filter fun x => x.2.home == .t2 && x.2.lender == lender && decide (x.2.location < first + count)
    && decide (first < x.2.location + (if x.2.packed then x.2.granules else 16))).map (·.1)

def Page.t2Granules (x : Page) : Nat := if x.packed then x.granules else 16

/-- A page's home becomes the T3 copy that it has beside the one in T2. -/
def useBacking (pg : Nat) (s : State) : Option State :=
  let x := s.page pg
  match x.backSlot, x.backed with
  | some k, true => some (s.setPage pg { x with home := .t3, location := k, lender := 0, backed := false, backSlot := none,
                                                moving := false, moveTo := none })
  | _, _ => none

/-- One page leaves a range under reclaim (R260): to T1 where its class and the free T1 allow, to a T3 slot, or to the T3 copy that it has;
else it is lost. An uncorrectable source cancels a move (R245). Its granules are counted when RETURNED goes out. -/
def vacate (p pg : Nat) (s : State) : State :=
  let x := s.page pg
  let s := (List.range 32).foldl (fun t k =>
    if x.valid.toNat.testBit k then t else sendLend x.lender 4 (t.guarded p) (lendMsg x.location k) t) s
  let (s, bad) := readSource pg s
  -- the old handle is the lender's again with RETURNED: no FREE
  let s := s.setPage pg { s.page pg with location := 0 }
  let moved := if bad then none
    else (if (s.policy p x.cls).takesT1 && decide (s.lowWater p ≤ s.t1Free p) then newHome p pg .t1 s else none).or (newHome p pg .t3 s)
  match moved with
  | some t => t
  | none =>
    let s := if bad then s.bump F.spnMoveAbortsAborts else s
    match useBacking pg s with
    | some t => t
    | none => losePage p pg true s

/-- RECLAIM: every page in the range is vacated, and RETURNED goes out (R260, R261). -/
def takeReclaim (m : LendMsg) (s : State) : State :=
  let pgs := s.heldIn m.src m.handle m.arg
  let n : Nat := pgs.foldl (fun n pg => n + (s.page pg).t2Granules) 0
  let sec := pgs.any fun pg => s.guarded ((s.partOfAddr (pg * 65536)).getD 0)
  let s := pgs.foldl (fun t pg => vacate ((t.partOfAddr (pg * 65536)).getD 0) pg t) s
  sendLend m.src 8 sec (lendMsg m.handle m.arg) (addBorrowed m.src (-(n : Int)) s)

/-- TAKEN: every page still held in the range is lost, with one record each (R261). -/
def takeTaken (m : LendMsg) (s : State) : State :=
  let pgs := s.heldIn m.src m.handle m.arg
  let n : Nat := pgs.foldl (fun n pg => n + (s.page pg).t2Granules) 0
  pgs.foldl (fun t pg => losePage ((t.partOfAddr (pg * 65536)).getD 0) pg true t) (addBorrowed m.src (-(n : Int)) s)

/-! ### Loss of the other end (R262, R343) -/

/-- A lender is lost: a backed page takes its T3 copy, every other page homed there is lost. -/
def lenderLost (pos : Nat) (s : State) : State :=
  let pgs := (s.pages.filter fun x => x.2.home == .t2 && x.2.lender == pos && x.2.location != 0).map (·.1)
  pgs.foldl (fun t pg =>
    let t := addBorrowed pos (-((t.page pg).t2Granules : Int)) t
    match useBacking pg t with
    | some u => u
    | none => losePage ((t.partOfAddr (pg * 65536)).getD 0) pg true t) s

/-- A borrower is lost: its granules are free and counted as reclaimed. -/
def borrowerLost (pos : Nat) (s : State) : State :=
  let n : Nat := (s.lentPages.filter fun x => x.2.borrower == pos).foldl (fun n x => n + x.2.granules) 0
  let s := { s with lentPages := s.lentPages.filter fun x => x.2.borrower != pos
                    reclaims := s.reclaims.filter fun r => r.borrower != pos }
  if n = 0 then s else finishRetires (offerChanged ((addLent (-(n : Int)) s).bump F.ldgReclaimGrGranules n))

/-- Pages that wait for an answer of a lost lender: a move is tried elsewhere; a page with no other home goes to another place. -/
def placingLost (pos : Nat) (s : State) : State :=
  ((s.lendPair pos).placing.map (·.1)).foldl (fun t pg =>
    match t.partOfAddr (pg * 65536) with
    | some p => if (t.page pg).takes then pageRefused p pg t else t
    | none => t) s

/-- The lending pair ends (R343): parts and numbers are forgotten. -/
def lendingLost (pos : Nat) (s : State) : State :=
  let s := lenderLost pos (borrowerLost pos s)
  let s := placingLost pos s
  { s with lendPairs := tabDel s.lendPairs pos }

/-! ### The rows -/

def execOffer (ep : Fin 16) (m : LendMsg) (s : State) : Res := go s (lendOnce ep 1 m (takeOffer m))
def execPlace (ep : Fin 16) (m : LendMsg) (s : State) : Res := go s (lendOnce ep 2 m fun t =>
  match addPart m t with
  | (u, some bytes) => acceptPlace m bytes u
  | (u, none) => u)
def execPlaced (ep : Fin 16) (m : LendMsg) (s : State) : Res := go s (lendOnce ep 3 m fun t => finishRetires (takePlaced m t))
def execFetch (ep : Fin 16) (m : LendMsg) (s : State) : Res := go s (lendOnce ep 4 m (answerFetch m))
def execData (ep : Fin 16) (m : LendMsg) (s : State) : Res := go s (lendOnce ep 5 m (takeData m))
def execFree (ep : Fin 16) (m : LendMsg) (s : State) : Res := go s (lendOnce ep 6 m (takeFree m))
def execReturned (ep : Fin 16) (m : LendMsg) (s : State) : Res := go s (lendOnce ep 8 m (takeReturned m))
def execTaken (ep : Fin 16) (m : LendMsg) (s : State) : Res := go s (lendOnce ep 9 m fun t =>
  match addPart m t with
  | (u, some _) => takeTaken m u
  | (u, none) => u)
def execReclaimDeadline (peer : Fin 4096) (s : State) : Res := go s (reclaimDeadline peer)
def execOfferTimer (s : State) : Res := go s offerTimer

end Sys2Proof.Machine
end

