-- ==== Sys2Proof/Machine/Fabric.lean ====
section
/-! DEFINITION. The fabric group (R313 to R326): liveness, the master, the step barrier, abort, spares, mirrors and the redundant
pair. -/
namespace Sys2Proof.Machine

/-! ### Floods and group events (R313, R326) -/

/-- Frames of a job go encrypted to a peer: its partition is protected; where the job does not run here, that of the ports tells (R341,
R403). -/
def State.secretTo (s : State) (pos job : Nat) : Bool :=
  match s.collJob job with
  | some (_, j) => s.guarded j.part
  | none => (s.portsTo pos).any fun e => match s.partOfEp e with | some p => s.guarded p | none => false

/-- A frame of a job goes on to a peer as it is: on the lowest port that may carry it. -/
def forward (pos type : Nat) (f : Frame) (s : State) : State :=
  let enc := s.secretTo pos f.job
  match (s.portsTo pos).filter fun e => !enc || s.on (F.lnkStatusEnc e) with
  | e :: _ => sendColl e type enc f s
  | [] => s

/-- A frame to every peer in the fabric group, once, on the lowest up port that reaches it (R313); LOST goes to those of the pair ports
too (R28). -/
def floodFrame (type : Nat) (f : Frame) (s : State) : State := s.peers.foldl (fun t q => sendTo q type (t.secretTo q f.job) f t) s
def floodLost (pos : Nat) (s : State) : State :=
  (s.allPeers.filter fun q => q != pos).foldl (fun t q => sendLive q 6 { noFrame with blockFirst := pos } t) s

/-- A group event record (R326, Table 10.9). -/
def groupEvent (kind pos spare job step attempt : Nat) (s : State) : State :=
  match s.cfg with
  | none => s
  | some c =>
    match c.eventQp with
    | none => s
    | some q =>
      if s.fld (F.qpCtrlState q) != 3 then s.bump F.rdeEvtDropDrop
      else
        let seq := s.rde.evtSeq
        let bytes := leBytes 1 kind ++ leBytes 1 0 ++ leBytes 2 pos ++ leBytes 2 spare ++ leBytes 2 job ++ leBytes 8 step ++ leBytes 4 attempt
          ++ leBytes 4 seq ++ leBytes 8 s.utc ++ List.replicate 32 0
        issueWrite q c.eventVa c.eventRkey bytes none .event { s with rde := { s.rde with evtSeq := seq + 1 } }

/-! ### The spanning tree (R317): dimension-ordered routing in plan 0, highest dimension first -/

/-- Coordinates of the position with an index in the membership, and back. -/
def Plan.coordsOf (p : Plan) (i : Nat) : List Nat := [i / (p.d 1 * p.d 2) % p.d 0, i / p.d 2 % p.d 1, i % p.d 2]
def Plan.indexOf (p : Plan) (c : List Nat) : Nat := (c.getD 0 0 * p.d 1 + c.getD 1 0) * p.d 2 + c.getD 2 0

/-- The neighbour of a member one hop nearer another one. -/
def State.nextHop (s : State) (here there : Nat) : Option Nat :=
  let p := s.plan 0
  match s.members.findIdx? (· == here), s.members.findIdx? (· == there) with
  | some i, some j =>
    let a := p.coordsOf i
    let b := p.coordsOf j
    match [2, 1, 0].find? fun k => decide (k < p.dims) && a.getD k 0 != b.getD k 0 with
    | some k =>
      let d := p.d k
      let fwd := (b.getD k 0 + d - a.getD k 0) % d
      let c := if fwd ≤ d - fwd then (a.getD k 0 + 1) % d else (a.getD k 0 + d - 1) % d
      s.members[p.indexOf (a.set k c)]?
    | none => none
  | _, _ => none

/-- Positions that take part in a step barrier. -/
def State.positions (s : State) : List Nat := s.members.take (s.plan 0).total

/-- The way of a position to the master passes through this one. -/
def routesVia (s : State) (via master : Nat) : Nat → Nat → Bool
  | 0, _ => false
  | n + 1, q => match s.nextHop q master with
    | some r => r == via || routesVia s via master n r
    | none => false

def State.below (s : State) (master : Nat) : List Nat :=
  s.positions.filter fun q => q != s.position && routesVia s s.position master s.members.length q
def State.children (s : State) (master : Nat) : List Nat :=
  s.positions.filter fun q => q != s.position && s.nextHop q master == some s.position

/-! ### Jobs that a lost position stops (R314) -/

/-- A job that other devices take part in. -/
def Job.grouped (j : Job) : Bool := if j.training then decide (1 < j.record.groupSize) else !j.image.buckets.isEmpty

/-- The position is one of those that run the job: the first of the membership, as many as its group is of (R314); for a job without
steps, as many as the largest plan that its COLLs name. -/
def State.holds (s : State) (j : Job) (pos : Nat) : Bool :=
  let plans := (j.image.main ++ j.image.update).flatten.filterMap fun d => if d.opcode = 6 then some (s.plan (d.at 0x1C 2)).total else none
  j.grouped && (s.members.take (if j.training then j.record.groupSize else plans.foldl max 0)).contains pos

/-- A stalled reservation is given up. -/
def unstall (x : Stalled) (s : State) : State :=
  let p := s.cxp x.part
  { (s.setCxp x.part { p with live := p.live.map fun l => if x.ids.contains l.1 then (l.1, { l.2 with stalled := false }) else l })
    with stalled := s.stalled.filter fun y => y != x }

/-- Every unit of a job stops at once. -/
def stopUnits (j : Job) (s : State) : State :=
  j.cores.foldl (fun t c =>
    let v := t.ve c
    let t := if v.running then
        ((t.setVe c { v with running := false, kernel := none }).setFld (F.veStatusState c) 0).setFld (F.veStatusMemWait c) 0
      else t
    let rs := t.requests.map fun (r : Request) => if r.owner == .xfer c then { r with owner := .event } else r
    let t := { t with requests := rs }
    let t := (t.stalled.filter fun (x : Stalled) => x.core == c).foldl (fun (u : State) (x : Stalled) => unstall x u) t
    let t := dropQueued c t
    let q := t.sq c
    t.setSq c { q with stream := .none, pos := 0, ended := false, fenceFrom := none, skipping := false, bwdPassed := false }) s

/-- Running COLLs of a job end without completing, and early records of it go. -/
def dropColls (k job : Nat) (s : State) : State :=
  { s with rde := { s.rde with colls := s.rde.colls.filter fun x => x.key != k, early := s.rde.early.filter fun e => e.frame.job != job } }

/-- The parts of the alternate slot that this device's all-gathers have left open: running ones, and those not yet started. -/
def openGathers (k : Nat) (j : Job) (s : State) : List (Nat × Nat) :=
  let running := (s.rde.colls.filter fun x => x.key == k && x.op != 0).flatMap fun x =>
    let p := s.plan x.plan
    let own := p.part x.blocks p.dims
    [(x.gatherAddr 0, 64 * own.1), (x.gatherAddr own.2, 64 * (x.blocks - own.2))]
  let later := j.cores.flatMap fun c =>
    let q := s.sq c
    let items := q.coll.map (·.d) ++ (if q.stream == .update then (j.stream (j.logical c) .update).drop q.pos else [])
    (items.filter fun d => d.opcode == 6 && d.at 0x10 1 == 1).flatMap fun d =>
      let b := (j.image.buckets.find? fun b => b.id == d.at 0x12 2).map (·.slot)
      let p := s.plan (d.at 0x1C 2)
      let own := p.part (d.at 0x18 4) p.dims
      match j.resolve 0 0 (d.at 0x14 4) with
      | some a =>
        let base := ((a : Int) + j.slotShift (b.getD 0)).toNat
        [(base, 64 * own.1), (base + 64 * own.2, 64 * (d.at 0x18 4 - own.2))]
      | none => []
  running ++ later

/-! ### The step barrier (R317) -/

def State.barrier (s : State) (job : Nat) : Barrier :=
  (s.rde.barriers.find? fun b => b.job == job).getD { job := job, arrived := [], selfArrived := false, sentUp := false }
def State.setBarrier (s : State) (b : Barrier) : State :=
  { s with rde := { s.rde with barriers := b :: s.rde.barriers.filter fun x => x.job != b.job } }

def State.setGroupStep (s : State) (job g : Nat) : State := { s with rde := { s.rde with groupStep := tabPut s.rde.groupStep job g } }

/-- Free bytes stored: what another device's memory holds. -/
def freeStore (a n : Nat) (s : State) : State :=
  let i := s.clock.freeIdx
  ({ s with clock := { s.clock with freeIdx := i + n } }).writeBytes a ((List.range n).map fun b => BitVec.ofNat 8 (Config.value (i + b)))

/-- ARRIVE of this device and of the positions below it goes up (each keeps the position it comes from). -/
def sendArrive (job master : Nat) (l : List (Nat × Nat × Nat)) (s : State) : State :=
  match s.nextHop s.position master with
  | some q => l.foldl (fun t x => forward q 7
      { noFrame with job := job, src := x.1, dst := q, attempt := x.2.1 % 2 ^ 32, step := x.2.2 % 2 ^ 32 } t) s
  | none => s

/-- A RELEASE goes down the tree, and this device's job, if it has arrived, may start phase 2 (R317, R390). No position is unfilled any more. -/
def released (job attempt step : Nat) (s : State) : State :=
  let s := match s.masterPos with
    | some m => (s.children m).foldl (fun t q => sendTo q 8 (t.secretTo q job) { noFrame with job := job, attempt := attempt % 2 ^ 32, step := step % 2 ^ 32 } t) s
    | none => s
  let s := s.setBarrier { job := job, arrived := [], selfArrived := false, sentUp := false }
  let s := { s with rde := { s.rde with unfilled := [], groupAtt := tabPut s.rde.groupAtt job attempt } }
  let s := s.setGroupStep job step
  match s.collJob job with
  | some (k, j) =>
    if j.train.phase != .barrier then s
    else
      let s := s.onTrain k fun t => { t with attempt := attempt, phase := .released }
      j.cores.foldl (fun t c => (engsOf c).foldl (fun u e => let x := u.eng e; u.setEng e { x with rampDone := false }) t) s
  | none => s

/-- A member one step behind catches up (R317): the shards that it lacks come from a neighbour, the step is flipped and reported. -/
def catchUp (k : Nat) (s : State) : State :=
  match s.job k with
  | some j =>
    let s := j.last.lacks.foldl (fun t x => freeStore x.1 x.2 t) s
    let attempt := j.train.attempt
    let s := s.onJob k fun j => { j with train := { j.last.flip with discards := 0, commits := j.last.commits + 1, attempt := attempt } }
    let s := reportStep k 0 (storeHistory k (writeTrain k s))
    match (s.job k).bind Job.endStatus with
    | some st => s.onJob k fun j => { j with ending := some st, train := { j.train with phase := .done } }
    | none => s
  | none => s

/-- The master itself is one step behind: it catches up and arrives again. -/
def masterBehind (job g : Nat) (s : State) : State :=
  match s.collJob job with
  | some (k, j) =>
    if !((s.barrier job).arrived.any fun x => x.1 == s.position && x.2.2 != g) || j.train.step + 1 != g then s
    else
      let s := phase1 k false (catchUp k s)
      let b := s.barrier job
      (s.onTrain k fun t => { t with phase := .barrier }).setBarrier
        { b with arrived := (s.position, j.train.attempt, g) :: b.arrived.filter fun x => x.1 != s.position }
  | none => s

/-- The barrier goes as far as it can: ARRIVE up, or at the master, which need not run the job itself, RESYNC to the members behind, or
RELEASE. -/
def barrierGo (job : Nat) (s : State) : State :=
  let b := s.barrier job
  let got (q : Nat) : Bool := b.arrived.any fun x => x.1 == q
  match s.masterPos with
  | none => s
  | some m =>
    if m != s.position then
      let below := s.below m
      if b.selfArrived && !b.sentUp && below.all got then
        sendArrive job m (b.arrived.filter fun x => x.1 == s.position || below.contains x.1) (s.setBarrier { b with sentUp := true })
      else s
    else if !(s.positions.all got) || !s.rde.unfilled.isEmpty then s
    else
      let g := b.arrived.foldl (fun n x => max n x.2.2) 0
      let s := masterBehind job g s
      let b := s.barrier job
      let att := b.arrived.foldl (fun n x => max n x.2.1) 0
      let late := b.arrived.filter fun x => x.2.2 != g
      if late.isEmpty then released job att g s
      else
        let s := s.setBarrier { b with arrived := b.arrived.filter fun x => x.2.2 == g }
        late.foldl (fun t x => match t.nextHop t.position x.1 with
          | some q => forward q 0xA { noFrame with job := job, src := t.position, dst := x.1, step := g % 2 ^ 32 } t
          | none => t) s

/-- This device arrives. -/
def arriveSelf (k : Nat) (s : State) : State :=
  match s.job k with
  | some j =>
    let job := j.record.collJob % 4096
    let b := s.barrier job
    barrierGo job ((s.onTrain k fun t => { t with phase := .barrier }).setBarrier
      { b with selfArrived := true, sentUp := false
               arrived := (s.position, j.train.attempt, j.train.step) :: b.arrived.filter fun x => x.1 != s.position })
  | none => s

/-- The job ends with COLL_FAULT after its attempt has stopped (R314, R321). -/
def abortJob (k : Nat) (s : State) : State :=
  match s.job k with
  | some j =>
    if j.ending.isSome then s
    else
      let s := if j.training then reportStep k 3 (stopUnits j (dropColls k (j.record.collJob % 4096) s)) else dropColls k (j.record.collJob % 4096) s
      let s := s.onTrain k fun t => { t with phase := .done }
      endJob k 0x14 0 0 s
  | none => s

/-- A spare, or a shadow that takes over, restores step G before it arrives (R319): the parameter replica from a neighbour, the
moments from the mirror holder, into the current slot. Where nothing is mirrored the job ends with COLL_FAULT on every member. -/
def restoreStep (k g : Nat) (s : State) : State :=
  match s.job k with
  | some j =>
    let t := j.train
    if t.step = g then s
    else if !s.mirrors j then
      let job := j.record.collJob % 4096
      let att := t.attempt % 2 ^ 32
      abortJob k (floodFrame 4 { noFrame with job := job, attempt := att, blockFirst := 4096 }
        { s with rde := { s.rde with aborts := (job, att, 4096) :: s.rde.aborts } })
    else
      let len := let n := s.pairPlen j.part; if n = 0 then max t.paramA t.paramB - min t.paramA t.paramB else n
      let s := freeStore (if t.slotB then t.paramB else t.paramA) len s
      let s := freeStore (if t.slotB then t.momB else t.momA) (s.mirrorLen j.part) s
      writeTrain k (s.onTrain k fun t => { t with commitWord := g % 2 ^ 63 + (if t.slotB then 2 ^ 63 else 0) })
  | none => s

/-- The job arrives, unless its restore has ended it. -/
def arriveUnlessEnded (k : Nat) (s : State) : State :=
  match s.job k with | some j => if j.ending.isSome then s else arriveSelf k s | none => s

/-- Phase 1 of an attempt and what follows it: the barrier, or phase 2 at once where the group is of one; a shadow's job waits. -/
def beginAttempt (k : Nat) (first : Bool) (s : State) : State :=
  let s := phase1 k first s
  match s.job k with
  | some j =>
    if s.fld F.rdeStatusPairState = 2 then s.setFld F.rdeStatusStandby 1
    else if j.record.groupSize ≤ 1 then s.onTrain k fun t => { t with phase := .micro }
    else
      let s := match tabFind s.rde.groupStep (j.record.collJob % 4096) with
        | some g => if first then restoreStep k g s else s
        | none => s
      arriveUnlessEnded k s
  | none => s

/-! ### Abort (R314) -/

/-- The attempt stops at once: COLLs end, the step report says FAULT (or ALLGATHER_LOST after a vote that passed), and the job waits at
the barrier of the next attempt. -/
def abortAttempt (k : Nat) (s : State) : State :=
  match s.job k with
  | some j =>
    let job := j.record.collJob % 4096
    if j.ending.isSome || j.train.phase == .done then s
    else if !j.training then endJob k 0x14 0 0 (dropColls k job s)
    else
      let passed := j.train.vote == some true
      let lacks := if passed then openGathers k j s else []
      let s := dropStash k (stopUnits j (dropColls k job s))
      let s := reportStep k (if passed then 4 else 3) s
      let b := s.barrier job
      let s := s.setBarrier { b with arrived := b.arrived.filter fun x => decide (j.train.attempt < x.2.1), selfArrived := false, sentUp := false }
      let s := s.onJob k fun j => { j with last := { j.train with lacks := lacks }, train := { j.train with attempt := j.train.attempt + 1 } }
      match j.train.endAfter with
      | some st => s.onJob k fun j => { j with ending := some st, train := { j.train with phase := .done } }
      | none => beginAttempt k false s
  | none => s

/-- An ABORT is acted on, and forwarded, once. `code` is its block_first: the lost position, or bit 12 for an abort that ends the job. -/
def actAbort (job attempt code : Nat) (s : State) : State :=
  if s.rde.aborts.contains (job, attempt, code) then s
  else
    let s := { s with rde := { s.rde with aborts := (job, attempt, code) :: s.rde.aborts } }
    let s := floodFrame 4 { noFrame with job := job, attempt := attempt, blockFirst := code } s
    match s.collJob job with
    | some (k, j) =>
      if bitAt code 12 then abortJob k s
      else if (if j.training then j.train.attempt else 0) % 2 ^ 32 = attempt then abortAttempt k s
      else s
    | none => if bitAt code 12 then { s with rde := { s.rde with groupStep := tabDel s.rde.groupStep job, groupAtt := tabDel s.rde.groupAtt job } } else s

/-- An ABORT that comes in: the master reports the job failures that a partition reset brings (R316). -/
def takeAbort (f : Frame) (s : State) : State :=
  let fails := bitAt f.blockFirst 12 && s.isMaster && !s.rde.aborts.contains (f.job, f.attempt, f.blockFirst)
  let t := actAbort f.job f.attempt f.blockFirst s
  if fails then groupEvent 6 0xFFFF 0xFFFF f.job (tabGet 0 s.rde.groupStep f.job) f.attempt t else t

/-! ### Spares (R318, R321) -/

/-- The roster's plan updates for a spare: every hop to the replaced position takes the ports that reach the spare. -/
def rosterPlans (e : RosterEntry) (pos : Nat) (s : State) : State :=
  match e.positions.findIdx? (· == pos) with
  | none => s
  | some i =>
    let m := e.ports.getD i (0, 0)
    (List.range 64).foldl (fun t n =>
      let p := t.plan n
      (List.range p.dims).foldl (fun u k =>
        let nx := if p.peer k false = pos ∧ p.mask k false ≠ 0 then m.1 else p.mask k false
        let pv := if p.peer k true = pos ∧ p.mask k true ≠ 0 then m.2 else p.mask k true
        u.setFld (F.rdePlanPlan n (4 + k)) (nx + pv * 65536)) t) s

/-- A spare takes the lost position for every purpose: its ID, its coordinates and peers in every plan. -/
def takePosition (pos : Nat) (s : State) : State :=
  let s := s.setFld F.rdeGroupPosition pos
  match s.members.findIdx? (· == pos) with
  | none => s
  | some i => (List.range 64).foldl (fun t n =>
      let p := t.plan n
      let c := p.coordsOf i
      let at' (k : Nat) (x : Nat) : Nat := s.members.getD (p.indexOf (c.set k x)) 0
      let t := t.setFld (F.rdePlanPlan n 2) (c.getD 0 0 + c.getD 1 0 * 65536)
      let t := t.setFld (F.rdePlanPlan n 3) (c.getD 2 0)
      (List.range p.dims).foldl (fun u k =>
        let d := p.d k
        u.setFld (F.rdePlanPlan n (8 + k)) (at' k ((c.getD k 0 + 1) % d) + at' k ((c.getD k 0 + d - 1) % d) * 65536)) t) s

/-- The neighbours of a position in the plans (R318). -/
def State.neighbours (s : State) (pos : Nat) : List Nat :=
  match s.members.findIdx? (· == pos) with
  | none => []
  | some i => (List.range 64).foldl (fun l n =>
      let p := s.plan n
      let c := p.coordsOf i
      (List.range p.dims).foldl (fun l k =>
        let d := p.d k
        [(c.getD k 0 + 1) % d, (c.getD k 0 + d - 1) % d].foldl (fun l x =>
          let q := s.members.getD (p.indexOf (c.set k x)) pos
          if q = pos || l.contains q then l else l ++ [q]) l) l) []

/-- ASSIGN goes to its receiver: on a port that reaches it, else one hop nearer it, or nearer the position that a spare is to take, whose
neighbours reach the spare. -/
def sendAssign (f : Frame) (s : State) : State :=
  match s.portsTo f.dst with
  | _ :: _ => forward f.dst 9 { f with src := s.position } s
  | [] => match s.nextHop s.position (if s.members.contains f.dst then f.dst else f.blockFirst % 4096) with
    | some q => forward q 9 { f with src := s.position } s
    | none => s

/-- An assignment takes effect at a device: the plans of a neighbour change, a spare takes the position; each job gives its step. -/
def actAssign (job pos spare step : Nat) (s : State) : State :=
  let mine := decide (s.position = spare) || s.rde.assigned.contains (spare, s.position)
  let s := if mine then s.setGroupStep job step else s
  if s.rde.assigned.contains (spare, pos) then s
  else
    let s := { s with rde := { s.rde with assigned := (spare, pos) :: s.rde.assigned, live := if s.rde.live.contains pos then s.rde.live else pos :: s.rde.live
                                          lostSeen := s.rde.lostSeen.filter fun q => q != pos } }
    let s := match s.roster.find? fun e => e.spare == spare && (s.neighbours pos).contains s.position with | some e => rosterPlans e pos s | none => s
    showMaster (if s.position = spare then takePosition pos s else s)

/-- ASSIGN that comes in. -/
def takeAssign (f : Frame) (s : State) : State :=
  let spare := f.bucket % 4096
  if f.dst = s.position ∨ spare = s.position ∨ s.rde.assigned.contains (spare, s.position) = true then
    actAssign f.job (f.blockFirst % 4096) spare f.step s
  else sendAssign f s

/-- The first spare in roster order that is live, permitted for a position, and unassigned, or (`again`) assigned to that very position. -/
def State.spareFor (s : State) (pos : Nat) (again : Bool) : Option Nat :=
  (s.roster.find? fun e => s.rde.live.contains e.spare && e.positions.contains pos
    && s.rde.assigned.all fun a => a.1 != e.spare || (again && a.2 == pos)).map (·.spare)

/-- A job that a lost position stops, as the master knows it: job ID, attempt, step, whether it is a training job. -/
structure GroupJob where
  job : Nat
  attempt : Nat
  step : Nat
  training : Bool

/-- The jobs in which a position takes part: the master's own, and those whose barrier it roots without running them. -/
def State.groupJobs (s : State) (pos : Nat) : List GroupJob :=
  let own := s.jobs.filterMap fun x =>
    if s.holds x.2 pos && x.2.ending.isNone then
      some { job := x.2.record.collJob % 4096, attempt := if x.2.training then x.2.train.attempt else 0
             step := if x.2.training then x.2.train.step else 0, training := x.2.training }
    else none
  let others := s.rde.groupStep.filterMap fun x =>
    if (s.collJob x.1).isNone && s.positions.contains pos then
      some { job := x.1, attempt := tabGet 0 s.rde.groupAtt x.1, step := x.2, training := true }
    else none
  own ++ others

/-- The master ends a job whose position nothing fills (R321, R326). -/
def failGroupJob (pos : Nat) (x : GroupJob) (s : State) : State :=
  groupEvent 6 pos 0xFFFF x.job x.step x.attempt (actAbort x.job (x.attempt % 2 ^ 32) 4096 s)

/-- The master fills a lost position with one spare, for all the jobs that it held (R318), or ends them. -/
def reassign (pos : Nat) (again : Bool) (s : State) : State :=
  let js := (s.groupJobs pos).filter (·.training)
  match js, s.spareFor pos again with
  | [], _ => s
  | x :: _, some sp =>
    let s := { s with rde := { s.rde with unfilled := pos :: s.rde.unfilled.filter fun q => q != pos } }
    let s := js.foldl (fun t y =>
      let f : Frame := { noFrame with job := y.job, blockFirst := pos, bucket := sp, step := y.step % 2 ^ 32 }
      let told := sp :: (t.neighbours pos).filter fun q => q != t.position
      actAssign y.job pos sp y.step (told.foldl (fun u q => sendAssign { f with dst := q } u) t)) s
    groupEvent 3 pos sp x.job x.step x.attempt s
  | _, none => js.foldl (fun t y => failGroupJob pos y t) { s with rde := { s.rde with unfilled := s.rde.unfilled.filter fun q => q != pos } }

/-- What the master does when a position is lost (R314, R318, R321, R326): the jobs that it held stop, those without steps for good. -/
def masterLost (pos : Nat) (s : State) : State :=
  let s := (s.groupJobs pos).foldl (fun t x =>
    let t := actAbort x.job (x.attempt % 2 ^ 32) pos t
    if x.training then t else failGroupJob pos x t) s
  reassign pos false s

/-! ### Liveness (R313, R315) -/

/-- A position is lost or has departed: the master is elected anew, and jobs in which it holds a position stop. `near`: this device
has met the loss itself. Every member keeps the positions that are to be filled: a new master starts their reassignment again (R321). -/
def learnLost (pos : Nat) (departed near : Bool) (s : State) : State :=
  if pos = s.position then s
  else
    let was := s.masterPos
    let s := { s with rde := { s.rde with live := s.rde.live.filter fun q => q != pos } }
    let s := (List.range 16).foldl (fun t e => if (t.ep e).peerPos == some pos then t.setFld (F.rdePeerAlive e) 0 else t) s
    let s := showMaster (if departed then s else lendingLost pos s)
    let open' := s.rde.unfilled.filter fun q => q != pos
    let s := if was == some pos && s.isMaster then
        let s := (s.children s.position).foldl (fun t q => sendTo q 8 false { noFrame with none := true } t) s
        open'.foldl (fun t q => reassign q true t) (groupEvent 7 s.position 0xFFFF 0xFFFF 0 0 s)
      else s
    if s.isMaster then
      let s := if s.isMember pos then groupEvent (if departed then 2 else 1) pos 0xFFFF 0xFFFF 0 0 s else s
      masterLost pos s
    else
      let jobs := s.jobs.filter fun x => s.holds x.2 pos && x.2.ending.isNone
      let s := if jobs.any fun x => x.2.training then { s with rde := { s.rde with unfilled := pos :: open' } } else s
      if near then jobs.foldl (fun t x => abortAttempt x.1 t) s else s

/-- PEER_LOSS: 64 µs without a frame from a peer. -/
def declareLost (pos : Nat) (s : State) : State :=
  let s := s.bump F.rdeLostLost
  let s := { s with rde := { s.rde with lostSeen := pos :: s.rde.lostSeen.filter fun q => q != pos
                                        declared := pos :: s.rde.declared.filter fun q => q != pos } }
  learnLost pos false true (floodLost pos s)

def peerLoss (pos : Nat) (s : State) : State :=
  if s.up && (List.range 16).any fun e => (s.ep e).peerPos == some pos && s.on (F.rdePeerAlive e) then declareLost pos s else s

/-- A received frame leaves the port's inbox, and shows its peer alive. -/
def takeFrame (ep type : Nat) (f : Frame) (act : State → State) (s : State) : State :=
  if !s.up then s
  else
    let x := s.ep ep
    act (heardPort ep (s.setEp ep { x with inbox := x.inbox.erase (.coll type f) }))

/-- A frame of the group's own traffic from a device that the image does not list is dropped (R315). -/
def memberFrame (ep type : Nat) (f : Frame) (act : State → State) (s : State) : State :=
  takeFrame ep type f (fun t => if t.isMember f.src && t.live then act t else t) s

/-- LOST: acted on and forwarded once. -/
def takeLost (f : Frame) (s : State) : State :=
  let pos := f.blockFirst % 4096
  if s.rde.lostSeen.contains pos then s
  else
    let s := { s with rde := { s.rde with lostSeen := pos :: s.rde.lostSeen } }
    learnLost pos false false (floodLost pos s)

/-- ARRIVE: held for the barrier; a position that a spare has filled arrives with it. One that arrives again, after its RESYNC, goes up on
its own. -/
def takeArrive (f : Frame) (s : State) : State :=
  let b := s.barrier f.job
  let s := { s with rde := { s.rde with unfilled := s.rde.unfilled.filter fun q => q != f.src } }
  let s := s.setBarrier { b with arrived := (f.src, f.attempt, f.step) :: b.arrived.filter fun x => x.1 != f.src }
  match s.masterPos with
  | some m =>
    if b.sentUp && m != s.position then
      sendArrive f.job m [(f.src, f.attempt, f.step)] s
    else barrierGo f.job s
  | none => s

/-- RELEASE: an announcement goes on down the tree; a release of the barrier is adopted. -/
def takeRelease (f : Frame) (s : State) : State :=
  if f.none then
    match s.masterPos with
    | some m => (s.children m).foldl (fun t q => sendTo q 8 false { noFrame with none := true } t) (showMaster s)
    | none => s
  else released f.job f.attempt f.step s

/-- RESYNC: the missing shards come from a neighbour, the step is flipped and reported, and the device arrives again (R317); one for
another device goes on towards it. -/
def takeResync (f : Frame) (s : State) : State :=
  if f.dst != s.position then
    match s.nextHop s.position f.dst with
    | some q => forward q 0xA f s
    | none => s
  else match s.collJob f.job with
    | some (k, j) =>
      if j.train.phase != .barrier || j.train.step + 1 != f.step then s
      else
        let s := catchUp k s
        match s.job k with
        | some j => if j.ending.isSome then s else beginAttempt k false s
        | none => s
    | none => s

/-! ### Mirrors and the pair (R320 to R325) -/

/-- MIRROR: moments of the peer go into the alternate half of the mirror area; the pair stream into the alternate slots. The parts received
are counted once each; a stream of another step starts anew. -/
def takeMirror (ep : Nat) (f : Frame) (s : State) : State :=
  match (if s.pairPort ep then s.jobs.find? fun x => x.2.training else s.collJob f.job) with
  | some (k, j) =>
    let t := j.train
    let off := f.blockFirst * 64
    let run := (f.blockFirst, f.blockFirst + f.n)
    if s.pairPort ep then
      if s.fld F.rdeStatusPairState != 2 then s
      else
        let got := if f.step = s.rde.pairOf then s.rde.pairGot else []
        writeNow j.part (t.pairAt (s.pairPlen j.part) off) (f.payload.take (64 * f.n))
          { s with rde := { s.rde with pairOf := f.step, pairGot := runAdd got run } }
    else
      let base := s.pair (.rdeMirAreaLo j.part) (.rdeMirAreaHi j.part)
      let s := s.onTrain k fun t => { t with mirrorGot := if f.step = t.step % 2 ^ 32 then runAdd t.mirrorGot run else t.mirrorGot }
      writeNow j.part (base + (if t.slotB then 0 else s.mirrorLen j.part) + off) (f.payload.take (64 * f.n)) s
  | none => s

/-- The flip of a shadow's job, or of one that takes over: one write of commit_word. -/
def flipWord (k : Nat) (s : State) : State :=
  match s.job k with
  | some j =>
    let s := s.onTrain k Train.flip
    match s.job k with
    | some j' => writeNow j.part j.record.trainState (leBytes 8 j'.train.commitWord) { s with rde := { s.rde with pairGot := [] } }
    | none => s
  | none => s

/-- The standby job of a shadow. -/
def State.standbyJob (s : State) : Option (Nat × Job) := s.jobs.find? fun x => x.2.training && x.2.train.phase == .window

/-- HEARTBEAT with a new step: the shadow flips its own commit_word (R322). -/
def takeHeartbeat (f : Frame) (s : State) : State :=
  if s.fld F.rdeStatusPairState != 2 || f.step == s.rde.pairStep then s
  else
    let s := { s with rde := { s.rde with pairStep := f.step } }
    match s.standbyJob with
    | some (k, j) => if (j.train.step + 1) % 2 ^ 32 = f.step then flipWord k s else s
    | none => s

/-- HEARTBEAT on both pair ports with the committed step of the training job. -/
def sendHeartbeat (s : State) : State :=
  let step := match s.jobs.find? fun x => x.2.training with | some (_, j) => j.train.step | none => 0
  [14, 15].foldl (fun t e => if t.on (F.rdePeerPair e) && t.fld (F.lnkStatusState e) == 2 then
    sendColl e 0xC false { noFrame with src := t.position, step := step % 2 ^ 32 } t else t) s

def heartbeatTimer (s : State) : State :=
  if s.live && s.fld F.rdeStatusPairState != 0 then sendHeartbeat s else s

/-- The shadow takes the primary's place and its position (R29, R323, R324): G is the group step, where a master has named it. -/
def takeOver (g : Option Nat) (s : State) : State :=
  let s := (s.setFld F.rdeStatusPairState 3).setFld F.rdeStatusStandby 0
  let s := showMaster (s.setFld F.rdeGroupPosition (s.fld F.glbPosPosCold))
  match s.standbyJob with
  | none => s
  | some (k, j) =>
    let full := (s.pairPlen j.part + s.pairMlen j.part) / 64
    let s := match g with
      | some g =>
        let whole := s.rde.pairOf = j.train.step % 2 ^ 32 ∧ runsCover s.rde.pairGot full = true
        let s := if j.train.step + 1 = g ∧ whole then flipWord k s else s
        restoreStep k g s
      | none => s
    if j.record.groupSize ≤ 1 then s.onTrain k fun t => { t with phase := .micro } else arriveUnlessEnded k s

/-- The primary loses the shadow (R325): it goes on alone, and pages that it had homed there are handled as a lost lender's. -/
def shadowLost (s : State) : State :=
  ((List.range 16).filterMap fun e => if s.pairPort e then (s.ep e).peerPos else none).foldl (fun t q => lendingLost q t)
    (s.setFld F.rdeStatusPairState 3)

/-- PAIR_SILENCE: 64 µs of silence on both pair ports. A shadow asks the master for the position of its pair (R323). -/
def pairSilence (s : State) : State :=
  if !s.live then s
  else if s.fld F.rdeStatusPairState = 1 then shadowLost s
  else if s.fld F.rdeStatusPairState != 2 then s
  else if s.fld F.rdeGroupSize ≤ 1 then takeOver none s
  else match s.masterPos with
    | some m =>
      let pos := s.fld F.glbPosPosCold
      match s.portsTo m ++ (match s.nextHop pos m with | some q => s.portsTo q | none => []) with
      | e :: _ => sendColl e 0xE false { noFrame with src := pos, dst := m, count := 2 } s
      | [] => s
    | none => s

/-- A TAKEOVER goes on towards its end; at the last hop an answer goes to the shadow, which holds no position. -/
def passTakeover (f : Frame) (toward : Option Nat) (s : State) : State :=
  match toward with
  | some q =>
    (match (if f.count ≠ 2 ∧ q = f.dst then s.portsTo noPosition else []) ++ s.portsTo q with
    | e :: _ => sendColl e 0xE false f s
    | [] => s)
  | none => s

/-- TAKEOVER: a request is answered by the master, which grants it only where it has itself declared the primary lost; an answer is acted on
by the shadow; either goes on towards its end (R323). -/
def takeTakeover (ep : Nat) (f : Frame) (s : State) : State :=
  if f.count = 2 then
    if s.isMaster then
      let lost := s.rde.declared.contains f.src
      let g := match s.jobs.find? fun x => x.2.training with
        | some (_, j) => j.train.step
        | none => (s.rde.groupStep.head?.map (·.2)).getD 0
      let s := sendColl ep 0xE false { noFrame with src := s.position, dst := f.src, count := boolNat lost, step := g % 2 ^ 32 } s
      let s := if lost then
          { s with rde := { s.rde with live := if s.rde.live.contains f.src then s.rde.live else f.src :: s.rde.live
                                       lostSeen := s.rde.lostSeen.filter fun q => q != f.src, declared := s.rde.declared.filter fun q => q != f.src } }
        else s
      groupEvent (if lost then 4 else 5) f.src f.src 0xFFFF g 0 s
    else passTakeover f (s.masterPos.bind fun m => s.nextHop s.position m) s
  else if f.dst = s.fld F.glbPosPosCold ∧ s.fld F.rdeStatusPairState = 2 then
    if f.count = 1 then takeOver (some f.step) s else s.setFld F.rdeStatusPairState 3
  else passTakeover f (s.nextHop s.position f.dst) s

/-- Every MIRROR frame that this device has sent is acknowledged; those to a shadow that is lost do not count (R325). -/
def State.mirrorsAcked (s : State) : Bool :=
  (List.range 16).all fun e =>
    let x := s.ep e
    (s.pairPort e && s.fld F.rdeStatusPairState != 1) || (!(x.txq.any fun f => f.vc == 4) && !(x.inflight.any fun f => f.2.vc == 4))

/-- Phase 7 has ended as far as mirrors go (R320, R322): what this device sends is acknowledged, and the peer's mirror is here in full. -/
def State.mirrorsDone (s : State) (j : Job) : Bool :=
  s.mirrorsAcked && (!s.mirrors j || (j.train.mirrorSent && runsCover j.train.mirrorGot (s.mirrorLen j.part / 64)))

/-- REASSIGN_TIMEOUT (R321): the master ends the job, its own or one whose barrier it roots. -/
def reassignTimeout (job : Nat) (s : State) : State :=
  if !s.live || !s.isMaster then s
  else match s.rde.unfilled with
    | [] => s
    | pos :: _ =>
      match s.collJob job with
      | some (_, j) => failGroupJob pos { job := job, attempt := j.train.attempt, step := j.train.step, training := true } s
      | none => match (s.groupJobs pos).find? fun x => x.job == job with
        | some x => failGroupJob pos x s
        | none => s

/-- PHASE2_START: (position mod 8) µs after the RELEASE (R391). -/
def phase2Start (c : Nat) (s : State) : State :=
  match s.jobAt c with
  | some (k, j) => if s.live && j.train.phase == .released then s.onTrain k fun t => { t with phase := .micro } else s
  | none => s

/-! ### Collective frames that arrive -/

/-- A REDUCE, GATHER or READY frame: a stale one is dropped and counted (R303); the master counts the paced REDUCE and GATHER frames (R392). -/
def reduceFrame (ep type : Nat) (f : Frame) (s : State) : State :=
  if !s.live then s
  else if s.stale f then s.bump F.rdeStaleStale
  else
    let s := if f.pace && (type == 1 || type == 2) && s.isMaster then s.bump F.rdePaceCntPace else s
    if type = 3 then takeReady ep f s else takeCollFrame ep type f s

def execReduce (ep : Fin 16) (f : Frame) (s : State) : Res := go s (takeFrame ep 1 f (reduceFrame ep 1 f))
def execGather (ep : Fin 16) (f : Frame) (s : State) : Res := go s (takeFrame ep 2 f (reduceFrame ep 2 f))
def execReady (ep : Fin 16) (f : Frame) (s : State) : Res := go s (takeFrame ep 3 f (reduceFrame ep 3 f))
def execAbort (ep : Fin 16) (f : Frame) (s : State) : Res := go s (memberFrame ep 4 f (takeAbort f))
def execKeepalive (ep : Fin 16) (f : Frame) (s : State) : Res := go s (takeFrame ep 5 f (heardFrom ep f.src))
def execLost (ep : Fin 16) (f : Frame) (s : State) : Res := go s (takeFrame ep 6 f fun t => takeLost f (heardFrom ep f.src t))
def execArrive (ep : Fin 16) (f : Frame) (s : State) : Res := go s (memberFrame ep 7 f (takeArrive f))
def execRelease (ep : Fin 16) (f : Frame) (s : State) : Res := go s (memberFrame ep 8 f (takeRelease f))
def execAssign (ep : Fin 16) (f : Frame) (s : State) : Res := go s (memberFrame ep 9 f (takeAssign f))
def execResync (ep : Fin 16) (f : Frame) (s : State) : Res := go s (memberFrame ep 0xA f (takeResync f))
def execMirror (ep : Fin 16) (f : Frame) (s : State) : Res := go s (takeFrame ep 0xB f fun t => if t.live then takeMirror ep f t else t)
def execHeartbeat (ep : Fin 16) (f : Frame) (s : State) : Res := go s (takeFrame ep 0xC f (takeHeartbeat f))
def execDepart (ep : Fin 16) (f : Frame) (s : State) : Res := go s (takeFrame ep 0xD f fun t => if t.live then learnLost f.src true true t else t)
def execTakeover (ep : Fin 16) (f : Frame) (s : State) : Res := go s (memberFrame ep 0xE f (takeTakeover ep f))
def execPeerLoss (pos : Fin 4096) (s : State) : Res := go s (peerLoss pos)
def execReassignTimeout (job : Fin 4096) (s : State) : Res := go s (reassignTimeout job)
def execHeartbeatTimer (s : State) : Res := go s heartbeatTimer
def execPairSilence (s : State) : Res := go s pairSilence
def execPhase2Start (c : Fin 4) (s : State) : Res := go s (phase2Start c)

end Sys2Proof.Machine
end

