-- ==== Sys2Proof/Machine/Engines.lean ====
section
/-! DEFINITION. The matrix engines (chapters 2 and 3): stationary loads, streamed rows, chunk folds, the function stage, drain
conversion, tile records, replay and pre-emption. A LOAD is one act, with the first fill of the transpose buffer. A PASS streams in as
many acts as its sender says, each up to a segment; its segments commit in order, and the next LOAD may come while its tail drains. -/
namespace Sys2Proof.Machine

/-! ### Elements in memory (R37, R38) -/

/-- Element `i` of a storage row. -/
def elemAt (c : Nat) (bs : List Byte) (i : Nat) : Nat :=
  match fmtBits c with
  | 16 => leAt bs (2 * i) 2
  | 4 => leAt bs (i / 2) 1 / (if i % 2 = 1 then 16 else 1) % 16
  | _ => leAt bs i 1 % (if c = 6 ∨ c = 7 then 64 else 256)

/-- Bytes that `n` elements take. -/
def rowBytes (c n : Nat) : Nat := ceilDiv (n * fmtBits c) 8

/-- A stored element with its block scale. -/
def elemVal (c v scale : Nat) : Num := if fmtMx c then (decodeElem c v).mul (e8m0 scale) else decodeElem c v

/-- A row of output codes as bytes; `old` is what the destination held, of which an odd nibble keeps its neighbour (R75). -/
def packRow (c : Nat) (codes : List Nat) (old : List Byte) : List Byte :=
  match fmtBits c with
  | 16 => codes.flatMap fun v => leBytes 2 v
  | 4 => (List.range (rowBytes c codes.length)).map fun i =>
      let hi := if 2 * i + 1 < codes.length then natAt codes (2 * i + 1) else leAt old i 1 / 16
      BitVec.ofNat 8 (natAt codes (2 * i) % 16 + 16 * (hi % 16))
  | _ => codes.map fun v => BitVec.ofNat 8 v

/-! ### Stationary loads (R36, R41, R224) -/

/-- Fields of a plan entry (Table 7.8). -/
def planKind (pl : List Byte) : Nat := leAt pl 0 1
def planG (pl : List Byte) : Nat := max 1 (leAt pl 3 1)

/-- Where a load reads: the extents in force, its storage rows, the column scales, the enabled vectors. -/
structure LoadMap where
  kExt : Nat
  nExt : Nat
  rows : List Nat
  rowLen : Nat
  scales : Option Nat
  vecs : Option Nat
  vecCount : Nat

/-- The map of a LOAD; none when an address it needs is none. A plan entry that is VISIBLE or DIAGONAL gathers the operand from page
frames, but a rotary pass reads only positions from its entry (R223, R224). -/
def loadMap (j : Job) (q : QItem) (pl : List Byte) (rotary : Bool) : Option LoadMap :=
  let fmt := q.d.at 0x20 1
  let trans := bitAt (q.d.at 0x21 1) 0
  let ve := q.d.at 0x22 1
  let gathered := !pl.isEmpty && planKind pl != 0 && !rotary
  let keys := leAt pl 8 2
  let kExt := if gathered && !trans then min keys (q.d.at 0x1C 2) else q.d.at 0x1C 2
  let nExt := if gathered && trans then min keys (q.d.at 0x1E 2) else q.d.at 0x1E 2
  let outer := if trans then nExt else kExt
  let inner := if trans then kExt else nExt
  let pageBytes := 1024 * 2 ^ leAt pl 0xA 1
  let base := if gathered then some 0 else j.addrOf q 0x10
  let row (i : Nat) : Nat :=
    if gathered then
      leAt pl 0x20 8 + leAt pl (0x40 + 4 * (i / 16)) 4 * pageBytes + (if trans then 0 else pageBytes / 2) + i % 16 * (pageBytes / 32)
        + 64 * (q.d.at 0x10 4 % 2 ^ 28)
    else base.getD 0 + i * q.d.at 0x18 4
  let sc := if fmtMx fmt then j.addrOf q 0x14 else none
  let vc := ((List.range 4).filter fun b => bitAt ve b).length
  let va := if vc = 0 then none else j.addrOf q 0x24
  if base.isNone ∨ (fmtMx fmt ∧ sc.isNone) ∨ (vc ≠ 0 ∧ va.isNone) then none
  else some { kExt := kExt, nExt := nExt, rows := (List.range outer).map row, rowLen := rowBytes fmt inner, scales := sc, vecs := va,
              vecCount := vc }

def LoadMap.ranges (m : LoadMap) : List (Nat × Nat) :=
  m.rows.map (fun a => (a, m.rowLen)) ++ (match m.scales with | some a => [(a, 64 * m.nExt)] | none => [])
  ++ (match m.vecs with | some a => [(a, 1024 * m.vecCount)] | none => [])

/-- The stationary registers after a load (Table 2.3): 0 outside the extent. -/
def stationOf (s : State) (fmt : Nat) (trans : Bool) (m : LoadMap) : List (List (List Nat)) :=
  let rows := m.rows.map fun a => s.bytes a m.rowLen
  let p := fmtPerCell fmt
  let cell (k n : Nat) : Nat :=
    if k < m.kExt ∧ n < m.nExt then (if trans then elemAt fmt (rows.getD n []) k else elemAt fmt (rows.getD k []) n) else 0
  (List.range 512).map fun r => (List.range 512).map fun n => (List.range p).map fun i => cell (r * p + i) n

/-- The column scale store: 64 entries a column, which lie in one 64 B line of the array (log entry 26). -/
def scalesOf (s : State) (m : LoadMap) : List (List Nat) :=
  match m.scales with
  | some a => (List.range m.nExt).map fun n => (s.bytes (a + 64 * n) 64).map (·.toNat)
  | none => []

/-- The enabled vectors, by their place in vec_en: 512 BF16 values, or 256 frequencies. -/
def vecsOf (s : State) (q : QItem) (m : LoadMap) : List (List Nat) :=
  let ve := q.d.at 0x22 1
  (List.range 4).map fun b =>
    if !bitAt ve b then []
    else
      let a := m.vecs.getD 0 + 1024 * ((List.range b).filter fun i => bitAt ve i).length
      if b = 3 then (List.range 256).map fun i => s.num (a + 4 * i) 4 else (List.range 512).map fun i => s.num (a + 2 * i) 2

/-- The PASS that belongs to a LOAD: in the queue behind it, or still in the stream. -/
def State.passOf (s : State) (e : Nat) (l : QItem) : Option QItem :=
  let c := e / 2
  match s.queuedPass e with
  | some q => some q
  | none => match s.jobAt c with
    | some (_, j) =>
      let q := s.sq c
      (((j.stream (j.logical c) q.stream).drop q.pos).find? fun d => d.opcode == 2 && d.unit == e % 2).map fun d => { l with d := d }
    | none => none

/-! ### Time and cost (R59, R60, R72) -/

/-- Eclk withheld while `adv` eclk advance, the issue rate being `n` of 64 (R60). -/
def withheldAt (n adv : Nat) : Nat := adv * (64 - n) / max 1 n

/-- Eclk withheld while `adv` eclk advance after `from0`: the issue rate is `n` at first, and takes each value of `rates` once so many
have advanced. -/
def withheldFrom (from0 n : Nat) : List (Nat × Nat) → Nat → Nat
  | [], adv => withheldAt n (adv - from0)
  | (at0, m) :: rest, adv => if adv ≤ at0 then withheldAt n (adv - from0) else withheldAt n (at0 - from0) + withheldFrom at0 m rest adv

def withheldBy (n : Nat) (rates : List (Nat × Nat)) (adv : Nat) : Nat := withheldFrom 0 n rates adv

/-- Two costs together. -/
def Spent.add (a b : Spent) : Spent :=
  { load := a.load + b.load, fill := a.fill + b.fill, feed := a.feed + b.feed, held := a.held + b.held, drain := a.drain + b.drain,
    throttle := a.throttle + b.throttle }

/-- Engine `e` was busy for `n` eclk: the life counter behind Table 14.10 takes their length at the clock in force. DESIGN CHOICE
(log 158): an engine is busy in every eclk of a load, of a pass and of its tail. -/
def engBusy (e n : Nat) (s : State) : State :=
  let l := s.aoc.life
  { s with aoc := { s.aoc with life := { l with
      busyNs := (List.range 8).map fun i => natAt l.busyNs i + (if i = e then n * 1000 / s.eclkMhz else 0) } } }

/-- The cumulative registers count freezes and withheld eclk; eclk in which a PASS's wait held its first row are neither (R72). -/
def countSpent (e : Nat) (t : Spent) (s : State) : State :=
  let s := engBusy e (t.load + t.fill + t.feed + t.held + t.drain + t.throttle) s
  (s.bump64 (.engFreezeLo e) (.engFreezeHi e) (t.feed + t.drain)).bump64 (.engThrottleLo e) (.engThrottleHi e) t.throttle

/-! ### How a pass ends (R67 to R72) -/

/-- The LOAD goes back in front of its PASS: the pass runs again from it (R69, R103). -/
def requeue (e : Nat) (l : QItem) (s : State) : State :=
  let c := e / 2
  let q := s.sq c
  engineIdle e (s.setSq c (q.setQueue (engUnit e) (l :: q.queue (engUnit e))))

/-- The PASS of a LOAD whose plan entry says SKIPPED leaves its queue with its signal raised, now or when it is dispatched (R225). -/
def skipPass (e : Nat) (l : QItem) (s : State) : State :=
  let c := e / 2
  let q := s.sq c
  match q.queue (engUnit e) with
  | h :: t => if h.d.opcode == 2 then settle c (engUnit e) (s.setSq c (q.setQueue (engUnit e) ({ h with skipped := true } :: t)))
              else s
  | [] => s.setEng e { s.eng e with loaded := some { l with skipped := true } }

/-- The PASS of an abandoned LOAD leaves its queue without its signal (R65), now or when it is dispatched. -/
def dropPass (e : Nat) (s : State) : State :=
  let c := e / 2
  let q := s.sq c
  match q.queue (engUnit e) with
  | h :: t => if h.d.opcode == 2 then settle c (engUnit e) (s.setSq c (q.setQueue (engUnit e) t)) else s
  | [] => s.setEng e { s.eng e with dropNext := true }

/-- A pass ends ABANDONED: its error record and its report (R71, R72). `k` and `n` are the extents in force. -/
def abandonReport (e : Nat) (j : Job) (k n : Nat) (l : QItem) (p : Option QItem) (r : PassRun) (s : State) : State :=
  let s := errRecord { bank := 0x10 + e / 2, unit := e % 2, cause := r.cause, cls := 2, part := some j.part, tenant := j.record.tenant,
                       jobTag := j.record.tag, descTag := (p.getD l).d.tag } s
  match p with
  | some q => endRun j e k n l q { r with status := 2 } s
  | none => s

/-- What its job does about a pass that has ended ABANDONED (R129, R180). -/
def abandonJob (k : Nat) (j : Job) (l : QItem) (p : Option QItem) (cause : Nat) (s : State) : State :=
  let d := (p.getD l).d
  if j.training && !l.upd then poison k d.layer d.tag l.microNo s else failJob k 0x10 d.layer d.tag 0xFFFF cause s

/-- A pass ends ABANDONED during its load, or before its first row. -/
def abandonLoad (e key : Nat) (j : Job) (k n : Nat) (l : QItem) (r : PassRun) (s : State) : State :=
  let p := s.passOf e l
  let s := abandonJob key j l p r.cause (engineIdle e (abandonReport e j k n l p r s))
  if j.training && l.upd then dropPass e s else s

/-- The first of some events: advancing eclk and cause. -/
def firstEvent (l : List (Nat × Nat)) : Option (Nat × Nat) :=
  l.foldl (fun b x => match b with | some y => if x.1 < y.1 then some x else some y | none => some x) none

/-- The lines that the transpose buffer takes for a block of the moving operand, one for each k (R45). -/
def bufferLines (j : Job) (p : QItem) (kExt block : Nat) : List (Nat × Nat) :=
  let fmt := p.d.at 0x38 1
  let len := rowBytes fmt (min 512 (p.d.at 0x1C 4 - 512 * block))
  (List.range kExt).map fun k => ((j.addrOf p 0x10).getD 0 + k * p.d.at 0x18 4 + 512 * block * fmtBits fmt / 8, len)

/-- What a load and a first fill read, with the advancing eclk in which each is read (Table 2.4, R42, R45): rows of the stationary
operand, column scales, vectors (log entry 187), and the lines of the transpose buffer. -/
def LoadMap.timeline (m : LoadMap) (j : Job) (l p : QItem) (vecAt : Nat) : List (Nat × Nat × Nat) :=
  let per := if bitAt (l.d.at 0x21 1) 0 then 1 else fmtPerCell (l.d.at 0x20 1)
  (m.rows.zipIdx.map fun r => (r.2 / per, r.1, m.rowLen))
  ++ (match m.scales with | some a => (List.range m.nExt).map fun n => (n, a + 64 * n, 64) | none => [])
  ++ (match m.vecs with | some a => [(vecAt, a, 1024 * m.vecCount)] | none => [])
  ++ (if bitAt (p.d.at 0x3A 1) 2 then (bufferLines j p m.kExt l.resume).zipIdx.map fun r => (512 + r.2 / fmtPerCell (p.d.at 0x38 1), r.1.1, r.1.2) else [])

/-- The engine takes a LOAD: it is idle, or every row of the pass under way has entered and nothing pre-empts it (R44). -/
def State.takesLoad (s : State) (e : Nat) : Bool :=
  match (s.eng e).run with
  | none => s.fld (F.engStatusState e) == 0
  | some r => decide (r.p.segments ≤ r.next) && r.limit.isNone

/-- LOAD: the stationary registers are loaded for the pass that follows, and the transpose buffer is filled if the pass needs it. -/
def loadAct (e : Nat) (env : LoadEnv) (s : State) : State :=
  let c := e / 2
  let x := s.eng e
  if !s.present e || !s.takesLoad e || x.loaded.isSome then s
  else match s.ready c (engUnit e) 1 with
  | none => s
  | some (k, j, q) =>
    match s.passOf e q with
    | none => s
    | some p =>
      let s := seedFirst k e s
      let x := s.eng e
      let s := s.setEng e { x with dusk := false, rampDone := true }
      let s := if x.rampDone && !(x.dusk && s.on F.pwrIdleDuskRamp) then s else startRamp e 0 s
      let (e0, _, _) := s.passRange j p.d
      let l := if q.replays = 0 then { q with ePass := e0 } else q
      let func := p.d.at 0x3C 2
      let rate := s.engineLimit e
      let spent (t : Nat) : Spent :=
        { Spent.none with load := min t 512, fill := t - 512, feed := env.feed, throttle := withheldBy rate env.rates t - min env.both env.feed }
      let fail (kx nx t cause : Nat) (u : State) : State :=
        abandonLoad e k j kx nx l (PassRun.spend { status := 2, resume := l.resume, cause := cause } (spent t))
          (popHead c (engUnit e) (countSpent e (spent t) u))
      let fail0 (cause : Nat) (u : State) : State := fail (l.d.at 0x1C 2) (l.d.at 0x1E 2) 0 cause u
      let start (pl : List Byte) (s : State) : State :=
        match loadMap j l pl (bitAt func 4) with
        | none => fail0 6 s
        | some m =>
          let line := m.timeline j l p (s.pick 512)
          if (match j.addrOf p 0x34 with | some a => !s.inSlice j a 64 | none => true) then fail m.kExt m.nExt 0 6 s
          else match touch j.part { reads := (line.map (·.2)).filter fun r => s.inSlice j r.1 r.2, writes := [] } s with
            | .wait t => t.setFld (F.engStatusFreezeCause e) 1
            | .ok t bad =>
              let t := m.rows.foldl (fun u a => streamLoad j.part a u) t
              let y := t.eng e
              let fmt := l.d.at 0x20 1
              let t := t.setEng e { y with
                station := stationOf t fmt (bitAt (l.d.at 0x21 1) 0) m, scales := scalesOf t m, vecs := vecsOf t l m, plan := pl,
                kExt := m.kExt, nExt := m.nExt
                tbuf := if bitAt (p.d.at 0x3A 1) 2 then (bufferLines j p m.kExt l.resume).map fun r => t.bytes r.1 r.2 else [] }
              -- the first fault of the data, of an address or of a stationary register, and a pre-emption request
              let total := if bitAt (p.d.at 0x3A 1) 2 then 1024 else 512
              let data := line.filterMap fun r =>
                if !t.inSlice j r.2.1 r.2.2 then some (r.1, 6) else if t.bad bad r.2.1 r.2.2 then some (r.1, 2) else none
              let hw := match env.hwFault with | some n => if n < total then [(n, 1)] else [] | none => []
              match firstEvent (data ++ hw), env.preemptAt.filter (fun n => decide (n < total)) with
              | some (n, cause), ask =>
                if (match ask with | some a => decide (a < n) | none => false) then
                  let n := ask.getD 0
                  engineIdle e (endRun j e m.kExt m.nExt l p (PassRun.spend { status := 1, resume := l.resume, flags := 1 } (spent n)) (countSpent e (spent n) t))
                else fail m.kExt m.nExt n cause t
              | none, some n =>
                engineIdle e (endRun j e m.kExt m.nExt l p (PassRun.spend { status := 1, resume := l.resume, flags := 1 } (spent n)) (countSpent e (spent n) t))
              | none, none =>
                let t := popHead c (engUnit e) (countSpent e (spent total) t)
                (((t.setEng e { t.eng e with loaded := some l, spent := spent total }).setFld (F.engStatusState e)
                  (if total = 1024 then 2 else 1)).setFld (F.engStatusFreezeCause e) 0).setFld (F.engStatusSegIndex e) l.resume
      match (if l.d.at 0x28 4 = noAddr then none else some (j.addrOf l 0x28)) with
      | none => start [] s
      | some none => fail0 6 s
      | some (some a) =>
        if !s.inSlice j a 256 then fail0 6 s
        else match touch j.part { reads := [(a, 256)], writes := [] } s with
          | .wait t => t.setFld (F.engStatusFreezeCause e) 1
          | .ok t bad =>
            let pl := t.bytes a 256
            if t.bad bad a 256 then fail0 2 t
            else if planKind pl = 0 then skipPass e l (popHead c (engUnit e) t)
            else start pl t

/-! ### Rows through the array (R39, R91, R92) -/

/-- What one PASS works with. -/
structure PassCtx where
  e : Nat
  k : Nat
  j : Job
  p : QItem
  l : QItem
  x : Eng
  draws : Draws
  acc : Bool
  final : Bool
  rows : Nat
  /-- the block that the transpose buffer holds -/
  block : Nat

def PassCtx.func (c : PassCtx) : Nat := c.p.d.at 0x3C 2
def PassCtx.addr (c : PassCtx) (o : Nat) : Option Nat := c.j.addrOf c.p o
def PassCtx.base (c : PassCtx) (o : Nat) : Nat := (c.addr o).getD 0
/-- A rounding in row `m`, `r` cycles after it enters. -/
def PassCtx.sr (c : PassCtx) (m r site : Nat) : Rm := .sr (c.draws.at (128 * m + r) site)
/-- The index of a free approximation in row `m`. -/
def PassCtx.idx (c : PassCtx) (m i : Nat) : Nat := c.draws.idx + 2 ^ 24 + 2048 * m + i
/-- Free values that a pass takes. -/
def PassCtx.span : Nat := 2 ^ 24 + 2 ^ 27

/-- An exact zero is +0. -/
def plusZero (x : Num) : Num := if x.isZero then .zero else x

/-- Element k of streamed row m. -/
def PassCtx.aVal (c : PassCtx) (s : State) (m k : Nat) : Num :=
  let fmt := c.p.d.at 0x38 1
  let pitch := c.p.d.at 0x18 4
  let sc := if fmtMx fmt then s.num (c.base 0x14 + 64 * m + k / 32) 1 else 0
  let v := if bitAt (c.p.d.at 0x3A 1) 2 then
             if m / 512 = c.block then elemAt fmt (c.x.tbuf.getD k []) (m % 512)
             else elemAt fmt (s.bytes (c.base 0x10 + k * pitch + m * fmtBits fmt / 8) 2) (if fmtBits fmt = 4 then m % 2 else 0)
           else elemAt fmt (s.bytes (c.base 0x10 + m * pitch) (rowBytes fmt c.x.kExt)) k
  elemVal fmt v sc

/-- Stationary element (k, n). -/
def Eng.bVal (x : Eng) (fmt k n : Nat) : Num :=
  let p := fmtPerCell fmt
  elemVal fmt (natAt ((x.station.getD (k / p) []).getD n []) (k % p)) (natAt (x.scales.getD n []) (k / 32))

/-- The carried sum that leaves column n for row m. -/
def PassCtx.column (c : PassCtx) (a : List Num) (m n : Nat) : Num :=
  let fmt := c.l.d.at 0x20 1
  (List.range (ceilDiv c.x.kExt 32)).foldl (fun carried ch =>
    let ks := (List.range 32).filterMap fun i => if 32 * ch + i < c.x.kExt then some (32 * ch + i) else none
    let sum := plusZero (numSum (ks.map fun k => (a.getD k .zero).mul (c.x.bVal fmt k n)))
    toBf (plusZero (carried.add (sum.scale (-c.l.ePass)))) (c.sr m ch (512 * ch + n))) Num.zero

/-! ### The function stage (R52 to R58, R97, R223 to R228) -/

/-- A row-statistics record (Table 2.7). -/
structure RowRec where
  max : Num
  sum : Num
  factor : Num
  sumsq : Num

def rowRecOf (bs : List Byte) : RowRec :=
  let h (o : Nat) : Num := bf (BitVec.ofNat 16 (leAt bs o 2))
  { max := h 0, sum := h 2, factor := h 4, sumsq := h 6 }

/-- A value BF16 holds, as its bytes. -/
def bfBytes (x : Num) : List Byte := leBytes 2 (convert 0 x .rne).1

def RowRec.bytes (r : RowRec) : List Byte := bfBytes r.max ++ bfBytes r.sum ++ bfBytes r.factor ++ bfBytes r.sumsq

/-- exp2 as the drain forms it (R55). -/
def exp2Num (x : Num) (idx : Nat) : Num :=
  match x with
  | .nan i => .nan i
  | .inf true _ => .zero
  | .inf false i => .inf false i
  | .fin q _ => exp2Bf q idx

/-- The larger of two values; NaN wins (Table 3.6). -/
def maxNum (a b : Num) : Num := if a.isNan then a else if b.isNan then b else if a.lt b then b else a

/-- Query position of row m (R223). -/
def PassCtx.query (c : PassCtx) (m : Nat) : Nat := (leAt c.x.plan 0xC 4 + m / planG c.x.plan) % 2 ^ 32

/-- The index mask (R53, R225). -/
def PassCtx.visible (c : PassCtx) (m n : Nat) : Bool :=
  let pl := c.x.plan
  let fl := leAt pl 1 1
  let q := c.query m
  let t := leAt pl 4 4 + n
  !(bitAt fl 1 && decide (q < t)) && !(bitAt fl 2 && decide (t + leAt pl 0x14 4 ≤ q)) && !(bitAt fl 3 && decide (t < leAt pl 0x18 4))

/-- The factor of row normalise (R56, Table 3.6): within 2^−20 of the exact value, 0 where the rules make it 0, 1 for a sum of 1 (R229);
and the mean. With a sum or sumsq that is infinite the mean term of the layer kind is 0 (log entry 188). -/
def PassCtx.norm (c : PassCtx) (m : Nat) (r : RowRec) : Num × Num :=
  let kind := bitsAt c.func 7 2
  let n : Rat := max 1 (c.l.d.at 0x30 4)
  let eps := bf (BitVec.ofNat 16 (c.l.d.at 0x2E 2))
  let used := if kind = 0 then [r.sum] else if kind = 1 then [r.sumsq, eps] else [r.sum, r.sumsq, eps]
  let near (v : Iv) : Num := .fin ((v.rel (pow2 (-20))).point (c.idx m 513)) false
  if used.any Num.isNan then (.nan true, .zero)
  else if used.any fun v => !v.finite then (.zero, .zero)
  else if kind = 0 then
    let v := r.sum.val
    (if v = 0 then .zero else if v = 1 then .one else near { lo := 1 / v, hi := 1 / v }, .zero)
  else
    let mean := if kind = 2 then r.sum.val / n else 0
    let var := r.sumsq.val / n - mean * mean
    let x := (if kind = 2 ∧ var < 0 then 0 else var) + eps.val
    if x = 0 then (.zero, .fin mean false)
    else if x < 0 then (bf (BitVec.ofNat 16 (Config.value (c.idx m 514))), .fin mean false)
    else let v := sqrtIv x; (near { lo := 1 / v.hi, hi := 1 / v.lo }, .fin mean false)

/-- One row after the function stage: outputs, its record, whether it is empty. -/
structure RowOut where
  xs : List Num
  record : RowRec
  empty : Bool

/-- The function stage on one row: `raw` the carried sums, `old` the existing values, `r` its record, exponents of R50. The softmax
group works on the row's values rounded to BF16, to nearest even (log entry 189). -/
def PassCtx.stage (c : PassCtx) (m : Nat) (raw old : List Num) (r : RowRec) (eTile eNew : Int) : RowOut :=
  let fn := c.func
  let vec (b n : Nat) : Num := bf (BitVec.ofNat 16 (natAt (c.x.vecs.getD b []) n))
  let idx (l : List Num) : List (Num × Nat) := l.zipIdx
  let masking := bitAt fn 2 && planKind c.x.plan == 2
  -- 1, 2: scale, bias, mask
  let xs := if !bitAt fn 0 then raw else (idx raw).map fun x =>
    internal (x.1.mul (if bitAt (c.l.d.at 0x22 1) 0 then vec 0 x.2 else bf (BitVec.ofNat 16 (c.l.d.at 0x2C 2))))
  let xs := if !bitAt fn 1 then xs else (idx xs).map fun x => internal (x.1.add ((vec 1 x.2).scale (-c.l.ePass)))
  let xs := if !masking then xs else (idx xs).map fun x => if c.visible m x.2 then x.1 else .inf true true
  -- 3: softmax group or rotary rotation
  let (xs, r, empty) :=
    if bitAt fn 3 then
      let xs := xs.map fun v => toBf v .rne
      let top := maxNum r.max (xs.foldl maxNum (.inf true true))
      let none := match top with | .inf true _ => true | _ => false
      let f := if none then .one else exp2Num (r.max.sub top) (c.idx m 512)
      let ps := if none then xs.map fun _ => Num.zero else (idx xs).map fun x => exp2Num (x.1.sub top) (c.idx m x.2)
      let sum := toBf ((r.sum.mul f).add (numSum ps)) (c.sr m 127 33280)
      (ps, { r with max := top, sum := sum, factor := f }, none)
    else if bitAt fn 4 then
      let one (i : Nat) : List Num :=
        let a := xs.getD (2 * i) .zero
        let b := xs.getD (2 * i + 1) .zero
        if !a.finite || !b.finite then [.nan (a.tag || b.tag), .nan (a.tag || b.tag)]
        else
          let turn : Rat := ((c.query m * natAt (c.x.vecs.getD 3 []) i % 2 ^ 32 : Nat) : Rat) / (2 ^ 32 : Nat)
          let cs : Num := .fin (((cosTurns turn).abs (pow2 (-16))).point (c.idx m (600 + i))) false
          let sn : Num := .fin (((sinTurns turn).abs (pow2 (-16))).point (c.idx m (900 + i))) false
          [(a.mul cs).sub (b.mul sn), (a.mul sn).add (b.mul cs)]
      (((List.range (ceilDiv xs.length 2)).flatMap one).take xs.length, r, false)
    else (xs, r, false)
  -- 4: accumulate (R50)
  let xs := if !c.acc then xs else (idx xs).map fun x =>
    let o := (old.getD x.2 .zero).scale (eTile - eNew)
    plusZero ((if bitAt fn 5 then o.mul r.factor else o).add (x.1.scale (c.l.ePass - eNew)))
  -- 5: row normalise
  let bottom : Bool := match r.max with | .inf true _ => true | _ => false
  let kind := bitsAt fn 7 2
  let normed := bitAt fn 6 && (c.x.plan.isEmpty || bitAt (leAt c.x.plan 1 1) 0)
  let empty := empty || (bottom && (bitAt fn 5 || (normed && kind == 0)))
  let xs :=
    if normed then
      if kind == 0 && bottom then xs.map fun _ => Num.zero
      else
        let (g, mean) := c.norm m r
        (idx xs).map fun x =>
          let y := x.1.mul g
          internal (if kind = 2 then y.sub ((mean.mul g).mul (vec 2 x.2)) else y)
    else xs
  -- 6: moments
  let r := if !bitAt fn 9 then r
    else { r with sum := toBf (r.sum.add (numSum xs)) (c.sr m 127 33281)
                  sumsq := toBf (r.sumsq.add (numSum (xs.map fun v => v.mul v))) (c.sr m 127 33282) }
  { xs := xs, record := r, empty := empty }

/-- The conversion of one row (R48, R98 to R100): scale bytes, codes, overflow. -/
def PassCtx.convertRow (c : PassCtx) (m : Nat) (xs : List Num) : List Nat × List Nat × Bool :=
  let fo := c.p.d.at 0x39 1
  let rm (n : Nat) : Rm := if c.acc || bitAt (c.p.d.at 0x3A 1) 1 then c.sr m 127 (32768 + n) else .rne
  if fmtMx fo then
    let bl := (List.range (ceilDiv xs.length 32)).map fun b =>
      mxBlock fo (((xs.zipIdx.drop (32 * b)).take 32).map fun x => (x.1, rm x.2))
    (bl.map (·.1), bl.flatMap (·.2.1), bl.any (·.2.2))
  else
    let cs := xs.zipIdx.map fun x => convert fo x.1 (rm x.2)
    ([], cs.map (·.1), cs.any (·.2))

/-! ### Segments (R61 to R63) -/

/-- The row statistics are read, are written. -/
def PassCtx.readsStat (c : PassCtx) : Bool := bitAt c.func 3 || bitAt c.func 5 || bitAt c.func 6 || bitAt c.func 9
def PassCtx.writesStat (c : PassCtx) : Bool := bitAt c.func 3 || bitAt c.func 9

/-- Rows of a segment. -/
def PassCtx.segRows (c : PassCtx) (seg : Nat) : List Nat := (List.range (min 512 (c.rows - 512 * seg))).map fun i => 512 * seg + i
def PassCtx.segments (c : PassCtx) : Nat := ceilDiv c.rows 512

def PassCtx.dstRow (c : PassCtx) (m : Nat) : Nat × Nat := (c.base 0x20 + m * c.p.d.at 0x28 4, rowBytes (c.p.d.at 0x39 1) c.x.nExt)
def PassCtx.statRow (c : PassCtx) (m : Nat) : Nat × Nat := (c.base 0x2C + 8 * m, 8)
def PassCtx.tileAt (c : PassCtx) (seg : Nat) : Nat := c.base 0x30 + 8 * seg

/-- What the feeder reads as row m enters: the row, or with a transposed feed the lines of the next block (R45), and the row's scales, 32 B
in the 8-bit class and 64 B in the 4-bit class (R47). -/
def PassCtx.feed (c : PassCtx) (m : Nat) : List (Nat × Nat) :=
  let fmt := c.p.d.at 0x38 1
  let sc := if fmtMx fmt then [(c.base 0x14 + 64 * m, if fmtBits fmt = 4 then 64 else 32)] else []
  if bitAt (c.p.d.at 0x3A 1) 2 then
    let per := fmtPerCell fmt
    (if m / 512 + 1 < c.segments then (bufferLines c.j c.p c.x.kExt (m / 512 + 1)).drop (m % 512 * per) |>.take per else []) ++ sc
  else (c.base 0x10 + m * c.p.d.at 0x18 4, rowBytes fmt c.x.kExt) :: sc

/-- What the drain reads for row m. -/
def PassCtx.drain (c : PassCtx) (m : Nat) : List (Nat × Nat) :=
  (if c.acc then c.dstRow m :: (if m % 512 = 0 then [(c.tileAt (m / 512), 8)] else []) else [])
  ++ (if c.readsStat then [c.statRow m] else [])

/-- What the copy-out of a segment writes. -/
def PassCtx.stores (c : PassCtx) (seg : Nat) : List (Nat × Nat) :=
  (c.tileAt seg, 8) :: (c.segRows seg).flatMap fun m =>
    c.dstRow m :: ((if c.writesStat then [c.statRow m] else [])
      ++ (if fmtMx (c.p.d.at 0x39 1) then [(c.base 0x24 + 64 * m, ceilDiv c.x.nExt 32)] else []))

/-- Every address that the pass needs is named. -/
def PassCtx.named (c : PassCtx) : Bool :=
  (c.addr 0x10).isSome && (c.addr 0x20).isSome && (c.addr 0x30).isSome && (!c.readsStat || (c.addr 0x2C).isSome)
  && (!fmtMx (c.p.d.at 0x38 1) || (c.addr 0x14).isSome) && (!fmtMx (c.p.d.at 0x39 1) || (c.addr 0x24).isSome)

/-- The first row whose reads fail: its cause. -/
def PassCtx.firstFault (c : PassCtx) (s : State) (bad : List Nat) (reads : Nat → List (Nat × Nat)) (cause : Nat) (ms : List Nat) :
    Option (Nat × Nat) :=
  ms.findSome? fun m =>
    let r := reads m
    if r.any fun x => !s.inSlice c.j x.1 x.2 then some (m, 6)
    else if r.any fun x => s.bad bad x.1 x.2 then some (m, cause) else none

/-- A carried sum as the drain buffer holds it, and back. -/
def heldSum (x : Num) : Half × Bool := (BitVec.ofNat 16 (convert 0 x .rne).1, x.tag)
def sumHeld (h : Half × Bool) : Num :=
  match bf h.1 with
  | .nan _ => .nan h.2
  | .inf n _ => .inf n h.2
  | x => x

/-- The carried sums of a segment's rows, as they reach the drain buffer. -/
def PassCtx.sums (c : PassCtx) (s : State) (seg : Nat) : List (List (Half × Bool)) :=
  (c.segRows seg).map fun m =>
    let a := (List.range c.x.kExt).map fun k => c.aVal s m k
    (List.range c.x.nExt).map fun i => heldSum (c.column a m i)

/-- A segment as staged: destination rows, scale bytes, records, tile record, and what it means. -/
structure SegOut where
  stores : List (Nat × List Byte)
  tile : List Byte
  overflow : Bool
  finite : Bool
  empty : Nat
  top : Option Int

/-- The values that a row holds once converted: what its codes and scales stand for. -/
def PassCtx.stored (c : PassCtx) (scales codes : List Nat) : List Num :=
  let fo := c.p.d.at 0x39 1
  codes.zipIdx.map fun x => elemVal fo x.1 (natAt scales (x.2 / 32))

/-- The results of one segment (R50, R58, R101, R104): `raw` its carried sums. The tile sum of squares is over the values that the tile
holds (log entry 190). -/
def PassCtx.segment (c : PassCtx) (s : State) (seg : Nat) (raw : List (List (Half × Bool))) (ue : Bool) : SegOut :=
  let n := c.x.nExt
  let fo := c.p.d.at 0x39 1
  let eTile : Int := if c.acc then signedOf 16 (s.num (c.tileAt seg) 2) else c.l.ePass
  let eNew : Int := if c.acc then max eTile c.l.ePass else c.l.ePass
  let row (m : Nat) (sums : List (Half × Bool)) : RowOut × List Nat × List Nat × Bool × List Byte :=
    let oldBytes := s.bytes (c.dstRow m).1 (c.dstRow m).2
    let old := if c.acc then (List.range n).map fun i => bf (BitVec.ofNat 16 (leAt oldBytes (2 * i) 2)) else []
    let o := c.stage m (sums.map sumHeld) old (if c.readsStat then rowRecOf (s.bytes (c.statRow m).1 8) else rowRecOf []) eTile eNew
    let (sc, codes, ov) := c.convertRow m o.xs
    (o, sc, codes, ov, oldBytes)
  let rows := (c.segRows seg).zipIdx.map fun m => (m.1, row m.1 (raw.getD m.2 []))
  let ovf := rows.any fun r => r.2.2.2.2.1
  let all := rows.flatMap fun r => r.2.1.xs
  let ssq := (numSum ((rows.flatMap fun r => c.stored r.2.2.1 r.2.2.2.1).map fun v => v.mul v)).scale (2 * eNew)
  let (v, x, _) := if bitAt c.func 10 || c.j.training then pairOf ssq (c.draws.at (128 * c.rows + seg) 33283) else (0, 0, false)
  let top := all.foldl (fun (b : Option Int) (y : Num) => match y with
    | .fin q _ =>
      if q = 0 then b
      else
        let g := ilog2 (if q < 0 then -q else q)
        some (match b with | some h => max h g | none => g)
    | _ => b) none
  { stores := rows.flatMap fun r =>
      ((c.dstRow r.1).1, packRow fo r.2.2.2.1 r.2.2.2.2.2)
      :: ((if fmtMx fo then [(c.base 0x24 + 64 * r.1, r.2.2.1.map fun b => BitVec.ofNat 8 b)] else [])
          ++ (if c.writesStat then [((c.statRow r.1).1, r.2.1.record.bytes)] else []))
    tile := leBytes 2 (unsignedOf 16 eNew)
      ++ leBytes 2 (boolNat ovf + 2 * boolNat (ovf && c.final) + 4 * (c.l.replays % 4) + 16 * boolNat ue) ++ leBytes 2 v.toNat ++ leBytes 2 x.toNat
    overflow := ovf, finite := (bf v).finite, empty := (rows.filter fun r => r.2.1.empty).length, top := top }

/-! ### The pass (R67 to R72, R103, R104)

Row time: eclk that advance, counted so that row m enters in eclk m; its outputs reach the drain buffer in eclk m + 1,024 (R61). -/

/-- When the last output of a segment reaches the buffer, and its copy-out begins. -/
def PassCtx.outAt (c : PassCtx) (seg : Nat) : Nat := min (512 * seg + 511) (c.rows - 1) + 1024

/-- The eclk in which the copy-out of a segment ends. -/
def PassCtx.copied (c : PassCtx) (seg : Nat) : Nat := c.outAt seg + (c.segRows seg).length - 1

/-- A run during one act: the state, segments committed by the act, and how the run stops if it does. -/
structure PassRunSt where
  s : State
  /-- lowest segment not committed -/
  done : Nat
  empty : Nat
  ue : Bool
  /-- segments from here on do not commit: a fault discards them, or a pre-emption keeps them from opening -/
  limit : Nat
  /-- a pre-emption that came with a tile (R129) -/
  asked : Bool
  /-- status, cause and row time of an end that a segment met -/
  stop : Option (Nat × Nat × Nat)

/-- One segment commits, or ends the run. -/
def PassCtx.commitSeg (c : PassCtx) (stagedUe : List Nat) (bad : List Nat) (r : PassRunSt) (seg : Nat) (raw : List (List (Half × Bool))) : PassRunSt :=
  if r.stop.isSome || decide (r.limit ≤ seg) then r
  else
    let stop (status cause row : Nat) : PassRunSt := { r with limit := seg, stop := some (status, cause, row + 1024) }
    match c.firstFault r.s bad c.drain 3 (c.segRows seg) with
    | some (m, cause) => stop 2 cause m
    | none =>
      if (c.stores seg).any fun x => !r.s.inSlice c.j x.1 x.2 then stop 2 6 (512 * seg + (c.segRows seg).length - 1)
      else
        let rowUe := (c.segRows seg).filter fun m => stagedUe.contains m
        let o := c.segment r.s seg raw (!rowUe.isEmpty)
        if o.overflow && !c.final then stop 3 0 (512 * seg + (c.segRows seg).length - 1)
        else
          let was := (r.s.job c.k).any fun j => j.train.poisoned
          let s := o.stores.foldl (fun t x => t.writeBytes x.1 x.2) r.s
          let s := s.writeBytes (c.tileAt seg) o.tile
          let s := rowUe.foldl (fun t m => t.poisonRange (c.dstRow m).1 (c.dstRow m).2) s
          let s := match o.top with | some g => observe c.k c.p.d.tag (g + c.l.ePass) s | none => s
          let s := onTile c.k c.p (c.base 0x20) (c.tileAt seg) (o.overflow && c.final) o.finite (c.l.replays != 0) s
          let now := (s.job c.k).any fun j => j.train.poisoned
          let r := { r with s := s, done := seg + 1, empty := r.empty + o.empty, ue := r.ue || !rowUe.isEmpty }
          -- a window poisoned by this tile pre-empts the pass while a later segment is open
          if !was && now && decide (seg + 4 < r.limit) then { r with limit := seg + 4, asked := true } else r

/-- A pass that has ended DONE: its gradient tiles are written (R117), its signal is raised. -/
def passDone (c : PassCtx) (s : State) : State :=
  let s := if c.j.training && (c.j.gradAt (c.base 0x20)).isSome && !c.p.upd then
      s.onTrain c.k fun t => { t with dwSeen := if t.dwSeen.contains (c.base 0x20) then t.dwSeen else c.base 0x20 :: t.dwSeen }
    else s
  releaseStash c.k (settle (c.e / 2) (engUnit c.e) (signalDesc c.j c.p.d s))

/-- The job still wants the pass that a run carries. -/
def State.wants (s : State) (r : EngRun) : Bool :=
  !r.dead && (match s.job r.key with | some j => j.ending.isNone && !(j.training && !r.p.upd && j.train.poisoned) | none => false)

/-- The next pass that was loaded behind a tail is withdrawn, as if it had not started (R103). -/
def withdraw (e : Nat) (s : State) : State :=
  match (s.eng e).loaded with
  | some l => if l.skipped then s else requeue e l s
  | none => s

/-- The LOAD and the PASS of a run go back to the head of their queue. -/
def requeueRun (e : Nat) (l p : QItem) (s : State) : State :=
  let c := e / 2
  let s := withdraw e s
  let q := s.sq c
  engineIdle e (s.setSq c (q.setQueue (engUnit e) (l :: p :: q.queue (engUnit e))))

/-- What a run works with. -/
def runCtx (e : Nat) (j : Job) (r : EngRun) (s : State) : PassCtx :=
  { e := e, k := r.key, j := j, p := r.p, l := r.l, x := { s.eng e with kExt := r.kExt, nExt := r.nExt, vecs := r.vecs, plan := r.plan },
    draws := s.draws e, acc := r.acc, final := r.final, rows := r.p.d.at 0x1C 4, block := r.next }

/-- How a run ends: report, then the engine's next state and the job's. -/
def runEnds (e : Nat) (j : Job) (c : PassCtx) (r : EngRun) (status cause rows tail : Nat) (seen : Bool) (s : State) : State :=
  let run : PassRun := PassRun.spend {
    status := status, cause := cause, rows := rows, resume := r.done, committed := r.done - r.l.resume, emptyRows := r.empty, tail := tail
    flags := boolNat seen + 8 * boolNat r.ue } r.spent
  let x := s.eng e
  let s := ((s.setEng e { x with run := none }).setFld (F.engStatusPreemptPending e) 0).setFld (F.engStatusFreezeCause e) 0
  let s := if x.loaded.isSome then s else engineIdle e s
  if status = 2 then abandonJob r.key j r.l (some r.p) cause (abandonReport e j r.kExt r.nExt r.l (some r.p) run s)
  else
    let s := endRun j e r.kExt r.nExt r.l r.p run s
    if !s.wants r then s
    else if status = 0 then passDone c s
    else if status = 1 then requeueRun e { r.l with resume := r.done } r.p s
    else
      let s := withdraw e s
      let q := (s.sq (e / 2))
      let s := s.setSq (e / 2) (q.setQueue (engUnit e) (r.p :: q.queue (engUnit e)))
      (s.setEng e { s.eng e with loaded := some r.l, kExt := r.kExt, nExt := r.nExt, replayAt := some r.done }).setFld (F.engStatusState e) 4

/-- A run goes on: rows stream up to where the act ends, segments commit, and the run ends or stands there. `begin` does what the first
row's entry does. -/
def runOn (e : Nat) (env : PassEnv) (j : Job) (r : EngRun) (begin : State → State) (s : State) : State :=
  let c := runCtx e j r s
  let k0 := r.l.resume
  -- no later segment opens after the one in which a pre-emption request arrives
  let ask := match r.limit, env.preemptIn with
    | some g, _ => some g
    | none, some g => if r.next ≤ g ∧ g + 1 < c.segments then some (g + 1) else none
    | none, none => none
  let last := ask.getD c.segments
  let goal := match env.upTo with | some u => max r.next (min u last) | none => max r.next last
  let ends := env.upTo.isNone
  let from0 := min c.rows (512 * r.next)
  let entered := min c.rows (512 * goal)
  let fresh := (List.range goal).filter fun g => decide (r.next ≤ g)
  let due := ((List.range goal).filter fun g => decide (r.done ≤ g)).filter fun g => ends || decide (c.outAt g < entered)
  let inside (x : Nat × Nat) : Bool := s.inSlice j x.1 x.2
  let acc : Access := {
    reads := ((fresh.flatMap c.segRows).flatMap c.feed ++ (due.flatMap c.segRows).flatMap c.drain).filter inside
    writes := (due.flatMap c.stores).filter inside }
  match touch j.part acc s with
  | .wait t => t.setFld (F.engStatusFreezeCause e) 1
  | .ok t bad =>
    let t := begin (t.drawn e PassCtx.span)
    -- a fault discards the segments that are OPEN, CLOSED or STAGED when it strikes
    let feedF := c.firstFault t bad c.feed 2 (fresh.flatMap c.segRows)
    let hwF := match env.hwFault with
      | some (cause, n) => if from0 ≤ n ∧ (ends ∨ n < entered) ∧ n ≤ c.copied (last - 1) then [(n, cause)] else []
      | none => []
    let first := firstEvent (feedF.toList ++ hwF)
    let limit := match first with
      | some (n, _) => r.done + (((List.range goal).filter fun g => decide (r.done ≤ g)).filter fun g => decide (c.outAt g ≤ n)).length
      | none => goal
    let staged := r.staged ++ fresh.map (c.sums t)
    let o := due.foldl (fun a g => c.commitSeg env.stagedUe bad a g (staged.getD (g - r.done) []))
      { s := t, done := r.done, empty := 0, ue := false, limit := limit, asked := false, stop := none }
    let stop : Option (Nat × Nat × Nat) := match o.stop, first with
      | some x, _ => some x
      | none, some (n, cause) => some (2, cause, n)
      | none, none => none
    let lim := match ask with | some g => some g | none => if o.asked then some o.limit else none
    let goal := match stop, lim with | none, some g => if ends then min goal g else goal | _, _ => goal
    -- rows that have entered when the act, or the run, ends
    let rowsIn := match stop with | some (_, _, n) => max from0 (min (min c.rows (512 * last)) n) | none => min c.rows (512 * goal)
    let adv := rowsIn - from0
    let wait := if r.next = k0 then env.held else 0
    let rate := s.engineLimit e
    let cost : Spent := { Spent.none with
      feed := env.feed, held := wait, drain := env.drain, throttle := withheldBy rate env.rates adv - min env.both (env.feed + env.drain) }
    let ended := stop.isSome || ends
    let tailAdv :=
      if !ended || rowsIn = 0 then 0
      else
        let copyEnd := if o.done = k0 then 0 else c.copied (o.done - 1)
        max (match stop with | some (_, _, n) => n - 1 | none => 0) copyEnd - (rowsIn - 1)
    let tailThr := if ended then withheldBy rate env.rates (adv + tailAdv) - withheldBy rate env.rates adv else 0
    let tail := tailAdv + (if ended then env.tailFreeze else 0) + tailThr
    let u := o.s.bump64 (.engRowsLo e) (.engRowsHi e) adv
    let u := engBusy e (adv + tailAdv) u
    let u := countSpent e { cost with feed := cost.feed + (if ended then env.tailFreeze else 0), throttle := cost.throttle + tailThr } u
    let r1 : EngRun := { r with
      next := goal, done := o.done, staged := staged.drop (o.done - r.done), empty := r.empty + o.empty, ue := r.ue || o.ue
      limit := lim, spent := r.spent.add cost }
    let seen := lim.isSome
    match stop with
    | some (status, cause, _) => runEnds e j c r1 status cause (rowsIn - 512 * k0) tail (seen || (env.preemptIn.isSome && status == 3)) u
    | none =>
      if ends then
        let early := decide (goal < c.segments)
        runEnds e j c r1 (if early then 1 else 0) 0 (rowsIn - 512 * k0) tail early u
      else
        let open' := decide (goal < lim.getD c.segments)
        let u := u.setEng e { u.eng e with
          run := some r1
          tbuf := if bitAt (r.p.d.at 0x3A 1) 2 ∧ goal < c.segments then (bufferLines j r.p r.kExt goal).map fun x => u.bytes x.1 x.2 else [] }
        let u := if (u.eng e).loaded.isSome then u else u.setFld (F.engStatusState e) (if open' then 3 else 4)
        ((u.setFld (F.engStatusPreemptPending e) (boolNat (lim.isSome && open'))).setFld (F.engStatusFreezeCause e) 0).setFld (F.engStatusSegIndex e) r1.done

/-- A layer that the forward pass of a training job is stashing finds the T0 quota full and its spill not done (R113). -/
def State.stashFull (s : State) (j : Job) (p : QItem) : Bool :=
  let x := s.stash j.part
  j.training && !p.upd && !(j.cores.any fun c => (s.sq c).bwdPassed) && (x.layers.any fun y => y.layer == p.d.layer)
  && decide (s.stashQuotaMib j.part * mib < x.t0Bytes)

/-- The run that the loaded operand `l` and its pass `p` begin. -/
def startRun (e k : Nat) (j : Job) (l p : QItem) (s : State) : EngRun :=
  let x := s.eng e
  { key := k, l := l, p := p, acc := j.accumulates p ((j.addrOf p 0x20).getD 0), final := l.last || decide ((s.passRange j p.d).2.2 ≤ l.replays)
    kExt := x.kExt, nExt := x.nExt, vecs := x.vecs, plan := x.plan, next := l.resume, done := l.resume, staged := [], empty := 0, ue := false
    limit := none, dead := false, spent := x.spent }

/-- The first row enters: the PASS leaves its queue, and the operand belongs to the run. -/
def firstRow (e : Nat) (s : State) : State :=
  let c := e / 2
  let q := s.sq c
  let s := s.setSq c (q.setQueue (engUnit e) (q.queue (engUnit e)).tail)
  (s.setEng e { s.eng e with loaded := none, spent := Spent.none }).setFld (F.engStatusState e) 3

/-- PASS: the rows of the loaded operand's pass stream, and its segments commit; a pass under way goes on. -/
def passAct (e : Nat) (env : PassEnv) (s : State) : State :=
  let core := e / 2
  let x := s.eng e
  match x.run with
  | some r =>
    (match s.job r.key with
    | some j => if s.live then runOn e env j r id s else s
    | none => s)
  | none =>
    match x.loaded, s.ready core (engUnit e) 2 with
    | some l, some (k, j, p) =>
      if l.skipped || x.replayAt.isSome then s
      else if s.stashFull j p then s.setFld (F.engStatusFreezeCause e) 2
      else
        let r := startRun e k j l p s
        if !(runCtx e j r s).named then abandonLoad e k j x.kExt x.nExt l (PassRun.spend { status := 2, resume := l.resume, cause := 6 } x.spent) s
        else runOn e env j r (firstRow e) s
    | _, _ => s

/-- PASS_REPLAY: the overflowed pass runs again from its LOAD with a larger exponent offset (R103). -/
def passReplay (e : Nat) (s : State) : State :=
  let x := s.eng e
  match x.loaded, x.replayAt, s.jobAt (e / 2) with
  | some l, some seg, some (_, j) =>
    match s.passOf e l with
    | none => s
    | some p =>
      if !s.live || j.ending.isSome then s
      else
        let (_, step, _) := s.passRange j p.d
        let tile := (j.addrOf p 0x30).map fun a => signedOf 16 (s.num (a + 8 * seg) 2)
        let e1 := (if j.accumulates p ((j.addrOf p 0x20).getD 0) then max l.ePass (tile.getD l.ePass) else l.ePass) + step
        requeue e { l with resume := seg, replays := l.replays + 1, ePass := min e1 127, last := l.last || decide (127 < e1) } s
  | _, _, _ => s

/-- A pre-emption request (R68, R69): a pass whose operand is loaded and whose first row has not entered stops PREEMPTED, and stands in
its queue again from its LOAD; one that has overflowed stands there for its replay; a run stops at its next segment boundary. -/
def preemptPass (e : Nat) (s : State) : State :=
  let x := s.eng e
  match x.loaded, s.jobAt (e / 2) with
  | some l, some (_, j) =>
    if l.skipped then requeue e { l with skipped := false } s
    else if x.replayAt.isSome then passReplay e s
    else match s.passOf e l with
      | some p => requeue e l (endRun j e x.kExt x.nExt l p (PassRun.spend { status := 1, resume := l.resume, flags := 1 } x.spent) s)
      | none => s
  | _, _ => match x.run with
    | some r => (s.setEng e { x with run := some r.preempted }).setFld (F.engStatusPreemptPending e) (boolNat r.preempted.limit.isSome)
    | none => s

/-- PREEMPT: CORE_ENG_CTRL preempt. -/
def preemptWrite (e : Nat) (s : State) : State :=
  if (s.eng e).replayAt.isSome then s else preemptPass e s

/-- What engine `e` runs, drains or has loaded ends ABANDONED with a cause from outside (R71): each pass has its record and its report.
A pass that stands for its replay has reported. -/
def abandonEngine (e cause : Nat) (s : State) : State :=
  let x := s.eng e
  let s := match x.run with
    | some r =>
      (match s.job r.key with
      | some j =>
        abandonReport e j r.kExt r.nExt r.l (some r.p) (PassRun.spend {
          status := 2, cause := cause, rows := min (r.p.d.at 0x1C 4) (512 * r.next) - 512 * r.l.resume, resume := r.done
          committed := r.done - r.l.resume, emptyRows := r.empty, flags := boolNat r.limit.isSome + 8 * boolNat r.ue } r.spent) s
      | none => s)
    | none => s
  let s := match x.loaded, s.jobAt (e / 2) with
    | some l, some (_, j) =>
      if l.skipped || x.replayAt.isSome then s
      else abandonReport e j x.kExt x.nExt l (s.passOf e l) (PassRun.spend { status := 2, resume := l.resume, cause := cause } x.spent) s
    | _, _ => s
  if x.run.isSome || x.loaded.isSome then
    let s := engineIdle e ((s.setEng e { s.eng e with run := none, dropNext := false }).setFld (F.engStatusPreemptPending e) 0)
    if (match x.loaded, s.jobAt (e / 2) with | some l, some (_, j) => j.training && l.upd && !l.skipped | _, _ => false) then dropPass e s else s
  else s

/-- CNT_CLEAR: CORE_ENG_CTRL cnt_clear. -/
def cntClear (e : Nat) (s : State) : State :=
  [Reg.engRowsLo e, .engRowsHi e, .engFreezeLo e, .engFreezeHi e, .engThrottleLo e, .engThrottleHi e].foldl (fun t r => t.setReg r 0) s

/-- A write to a register of engine `e`: ignored where the engine is absent (R73). -/
def onEngine (e : Nat) (f : State → State) (s : State) : State := if s.present e then onWrite (.engCtrl e) f s else s

def execLoad (env : LoadEnv) (s : State) : Res := go s (loadAct env.engine env)
def execPass (e : Fin 8) (env : PassEnv) (s : State) : Res := go s (passAct e env)
def execPassReplay (e : Fin 8) (s : State) : Res := go s (passReplay e)
def execPreempt (e : Fin 8) (s : State) : Res := go s (onEngine e (preemptWrite e))
def execCntClear (e : Fin 8) (s : State) : Res := go s (onEngine e (cntClear e))

end Sys2Proof.Machine
end

