-- ==== Sys2Proof/Machine/Loader.lean ====
section
/-! DEFINITION. The loader (R140, R147 to R162, R172): the checks of Table 5.12 from 0x40 to 0x55. Every check gives what it finds;
the lowest code is the job's status, and the first item found under that code its fail_tag and fail_detail. -/
namespace Sys2Proof.Machine

/-- A check that failed: status code, desc_tag, fail_detail. -/
structure LoadFail where
  code : Nat
  tag : Nat
  detail : Nat
deriving DecidableEq, Repr

/-- One check. -/
def failIf (b : Bool) (code : Nat) (tag : Nat := 0) (detail : Nat := 0) : List LoadFail :=
  if b then [{ code := code, tag := tag, detail := detail }] else []

/-- Of the failures the one the job ends with (R172). -/
def worstFail (l : List LoadFail) : Option LoadFail :=
  l.foldl (fun m f => match m with | none => some f | some g => if f.code < g.code then some f else some g) none

/-- Some byte of a field is not 0. -/
def anyByte (bs : List Byte) (o n : Nat) : Bool := ((bs.drop o).take n).any fun b => b != 0

/-! ### The record (R140, R405, R406, R460) -/

/-- A queue pair of the job's partition and tenant slot. -/
def State.qpOwned (s : State) (p tenant q : Nat) : Bool :=
  s.qpList.contains q && s.fld (F.qpPartPartition q) == p && s.fld (F.secQpTsTenant q) == tenant

def checkRecord (s : State) (p : Nat) (bs : List Byte) : List LoadFail :=
  let r := parseRec bs
  let mask := leAt bs 5 1
  let rl := leAt bs 0x63 1
  let bad := decide (2 < leAt bs 4 1) || decide (16 ≤ mask) || decide (16 ≤ leAt bs 6 1) || anyByte bs 7 1 || r.imageAddr % 64 != 0
    || decide (r.imageLen < 256) || decide (2 ^ 30 < r.imageLen) || decide (4096 ≤ r.collJob) || anyByte bs 0x3C 4 || anyByte bs 0x78 128
    || anyByte bs 0xFC 4 || decide (8 < leAt bs 0x62 1) || rl % 128 / 4 != 0 || mask % 16 == 0
    || ((maskCores mask).any fun c => !(s.partCores p).testBit c)
  let badTrain := r.kind == 1 &&
    (r.window == 0 || decide (256 < r.window) || r.groupSize == 0 || decide (4096 < r.groupSize) || decide (1 < r.optClass)
     || leAt bs 0x64 1 % 128 / 8 != 0 || decide (2 ≤ leAt bs 0x65 1) || anyByte bs 0x66 2)
  failIf (bad || badTrain) 0x40
  ++ failIf (s.tsState p (r.tenant % 16) != 1) 0x42
  ++ failIf (!s.qpOwned p (r.tenant % 16) r.compQp) 0x43
  ++ failIf ((maskCores mask).any s.coreFenced) 0x49

/-- An engine in self-test, or fenced (R459, R460). -/
def State.engFenced (s : State) (e : Nat) : Bool := s.fld (F.engStatusState e) == 5 || s.fld (F.engStatusState e) == 6

/-! ### Descriptors (R151 to R162, R504) -/

/-- Reserved bytes of a body, as (offset, length). -/
def reservedBody (op : Nat) : List (Nat × Nat) :=
  match op with
  | 1 => [(0x23, 1), (0x34, 12)]
  | 2 => [(0x3E, 2)]
  | 3 => [(0x1C, 36)]
  | 4 => [(0x11, 1), (0x34, 12)]
  | 5 => [(0x11, 1), (0x30, 16)]
  | 6 => [(0x1F, 1), (0x24, 28)]
  | 8 => [(0x14, 44)]
  | 9 => [(0x11, 1), (0x14, 44)]
  | 0xA => [(0x11, 47)]
  | 0xB => [(0x11, 47)]
  | 0xF => [(0x10, 48)]
  | _ => []

/-- The packed addresses of a body (R149); a scale array counts where the format has one (R504). -/
def packedFields (op : Nat) (d : Nat → Nat → Nat) : List Nat :=
  match op with
  | 1 => [0x10, 0x24, 0x28] ++ (if fmtMx (d 0x20 1) then [0x14] else [])
  | 2 => [0x10, 0x20, 0x2C, 0x30, 0x34] ++ (if fmtMx (d 0x38 1) then [0x14] else []) ++ (if fmtMx (d 0x39 1) then [0x24] else [])
  | 3 => [0x10, 0x14]
  | 4 => [0x14, 0x18, 0x30]
  | 5 => [0x1C, 0x20, 0x24]
  | 6 => [0x14, 0x20]
  | _ => []

/-- The opcodes of Table 5.5. -/
def knownOpcode (op : Nat) : Bool := [1, 2, 3, 4, 5, 6, 8, 9, 0xA, 0xB, 0xF].contains op

/-- Fields of a CTXQ that Table 7.5 does not name for its operation, or an operation that it does not list (R159). -/
def badCtxq (d : Nat → Nat → Nat) : Bool :=
  let op := d 0x10 1
  let layer := d 0x12 2 != 0
  let arg := d 0x18 4
  let keys := d 0x1C 4 != 0
  let out := d 0x20 4 != 0
  let qf := d 0x28 4 != 0
  let qc := d 0x2C 4 != 0
  decide (2 ^ 20 ≤ d 0x14 4) ||
  match op with
  | 1 => layer || out || qc || arg % 256 / 8 != 0 || decide (2 ^ 29 ≤ arg)
  | 2 => out || qc || (d 0x12 2 == 0xFFFF && qf)
  | 3 | 4 | 6 => layer || keys || out || qf || qc
  | 5 => layer || keys || out || qf || qc || decide (4 ≤ arg)
  | 7 => layer || keys || out || qf || qc || decide (2 ≤ arg)
  | 8 => keys || arg % 65536 / 128 != 0
  | _ => true

/-- What the checks of a descriptor rest on. -/
structure LoadCtx where
  part : Nat
  record : JobRec
  image : JobImage
  cores : List Nat

/-- The checks of one descriptor: its 64 bytes, its offset in the image, the logical core of its stream. A LOAD's pitch is R155's
(log entry 191), a counter is checked where its field is enabled (log entry 193). -/
def checkDesc (s : State) (x : LoadCtx) (l off : Nat) (bs : List Byte) : List LoadFail :=
  let d := leAt bs
  let op := d 0 1
  let tag := d 4 4
  let flags := d 2 2
  let f (b : Bool) (code : Nat) : List LoadFail := failIf b code tag off
  let far (v : Nat) : Bool := v != noAddr && decide (x.image.bases.length ≤ v / 2 ^ 28)
  if !knownOpcode op then f true 0x45
  else
    f (decide (128 ≤ flags) || decide (1024 ≤ d 8 2) || decide (1024 ≤ d 0xA 2) || ((reservedBody op).any fun r => anyByte bs r.1 r.2)) 0x45
    ++ f ((op == 8 && !bitAt flags 0) || (op == 9 && !bitAt flags 1)) 0x45
    ++ f ((bitAt flags 0 && decide (x.cores.length ≤ d 8 2 / 256)) || (bitAt flags 1 && decide (x.cores.length ≤ d 0xA 2 / 256))) 0x4F
    ++ f ((packedFields op d).any fun o => far (d o 4)) 0x44
    ++ (match op with
      | 1 =>
        let fmt := d 0x20 1
        let e := 2 * x.cores.getD l 0 + d 1 1 % 2
        f (decide (1 < d 1 1)) 0x45
        ++ f (!s.present e) 0x48 ++ f (s.engFenced e) 0x49
        ++ f (decide (2 ≤ d 0x21 1) || decide (16 ≤ d 0x22 1) || decide (9 < fmt) || (fmtMx fmt && d 0x14 4 == noAddr)) 0x45
        ++ f (d 0x1C 2 == 0 || decide (512 * fmtPerCell fmt < d 0x1C 2) || d 0x1E 2 == 0 || decide (512 < d 0x1E 2) || d 0x18 4 % 64 != 0) 0x4C
      | 2 =>
        let fa := d 0x38 1
        let fo := d 0x39 1
        let mode := d 0x3A 1
        let fn := d 0x3C 2
        let acc := bitAt mode 0
        let e := 2 * x.cores.getD l 0 + d 1 1 % 2
        let lim := if trueUnits fn then 0 else x.record.replayLimit
        let ep := signedOf 8 (d 0x3B 1)
        f (decide (1 < d 1 1)) 0x45
        ++ f (!s.present e) 0x48 ++ f (s.engFenced e) 0x49
        ++ f (decide (8 ≤ mode) || decide (2 ^ 11 ≤ fn) || bitsAt fn 7 2 == 3 || decide (9 < fa) || decide (9 < fo) || (acc && fo != 0)
              || (fmtMx fa && d 0x14 4 == noAddr) || (fmtMx fo && d 0x24 4 == noAddr)) 0x45
        ++ f (d 0x1C 4 == 0 || decide (65536 < d 0x1C 4)) 0x4C
        ++ f (d 0x18 4 % 64 != 0 || d 0x28 4 % 64 != 0) 0x4B
        ++ f ((bitAt fn 3 && bitAt fn 4) || (acc && (bitAt fn 0 || bitAt fn 2 || bitAt fn 3)) || (!acc && bitAt fn 5)
              || ((bitAt fn 3 || bitAt fn 4) && d 0x2C 4 == noAddr)) 0x4D
        ++ f ((trueUnits fn && ep != 0) || decide ((127 : Int) < ep + (lim * x.record.replayStep : Nat))) 0x4E
      | 3 =>
        let at0 := x.record.imageAddr + x.image.kernelAt
        f (match x.image.bases[d 0x10 4 / 2 ^ 28]? with
          | some b =>
            let a := b.addr + d 0x10 4 % 2 ^ 28 * 64
            d 0x10 4 == noAddr || decide (a < at0) || decide (at0 + x.image.kernelLen < a + 8) || (a - at0) % 8 != 0
          | none => true) 0x41
        ++ f (d 0xE 2 == 0xFFFE && d 0x14 4 == noAddr) 0x45
      | 4 =>
        f (decide (4 < d 0x10 1) || d 0x1C 4 == 0 || d 0x1C 4 % 64 != 0) 0x45
        ++ f (decide (2 ≤ d 0x10 1) && decide (d 0x10 1 ≤ 4) && !s.qpOwned x.part x.record.tenant (d 0x12 2)) 0x43
      | 5 => f (badCtxq d) 0x45
      | 6 =>
        f (decide (2 < d 0x10 1) || !([0, 1, 4, 5, 9].contains (d 0x11 1)) || d 0x1E 1 == 0 || decide (15 < d 0x1E 1)) 0x45
        ++ f (!(x.image.buckets.any fun b => b.id == d 0x12 2)) 0x41
      | 9 => f (decide (1 < d 0x10 1)) 0x45
      | 0xA => f (decide (64 ≤ d 0x10 1)) 0x45
      | 0xB => f (d 0x10 1 == 0 || decide (2 < d 0x10 1)) 0x45
      | _ => [])

/-- What a LOAD brings to the checks of its PASS (R35, R56, R156). -/
def checkPair (ld ps : Nat → Nat → Nat) (off : Nat) : List LoadFail :=
  let fn := ps 0x3C 2
  let kind := bitsAt fn 7 2
  let ve := ld 0x22 1
  let f (b : Bool) (code : Nat) : List LoadFail := failIf b code (ps 4 4) off
  f (decide (ld 0x20 1 ≤ 9) && decide (ps 0x38 1 ≤ 9) && fmtPerCell (ld 0x20 1) != fmtPerCell (ps 0x38 1)) 0x4A
  ++ f (((bitAt fn 2 || bitAt fn 4) && ld 0x28 4 == noAddr) || (bitAt fn 1 && !bitAt ve 1) || (bitAt fn 4 && !bitAt ve 3)
        || (bitAt fn 6 && kind == 2 && !bitAt ve 2)) 0x4D
  ++ f (bitAt fn 6 && (kind == 1 || kind == 2) && ld 0x30 4 == 0) 0x45

/-- The checks of pairing along a stream (R154): `ld` is the LOAD that stands open on each engine, with its offset. -/
def checkPairs : List (Nat × List Byte) → (Nat → Option (Nat × List Byte)) → List LoadFail
  | [], ld => ([0, 1].filterMap ld).flatMap fun x => failIf true 0x46 (leAt x.2 4 4) x.1
  | (off, bs) :: rest, ld =>
    let u := leAt bs 1 1 % 2
    let tag := leAt bs 4 4
    match leAt bs 0 1 with
    | 1 =>
      (match ld u with | some x => failIf true 0x46 (leAt x.2 4 4) x.1 | none => [])
      ++ failIf (bitAt (leAt bs 2 2) 1) 0x46 tag off ++ checkPairs rest fun v => if v = u then some (off, bs) else ld v
    | 2 =>
      (match ld u with | some x => checkPair (leAt x.2) (leAt bs) off | none => failIf true 0x46 tag off)
      ++ checkPairs rest fun v => if v = u then none else ld v
    | _ => checkPairs rest ld

/-- The raw descriptors of a stream, with their offsets. -/
def rawStream (img : List Byte) (hdr : Nat) : List (Nat × List Byte) :=
  let off := leAt img hdr 4
  (tableRows img off (leAt img (hdr + 4) 4) 64).zipIdx.map fun x => (off + 64 * x.2, x.1)

/-- The checks of one stream (R147, R154, R166). -/
def checkStream (s : State) (x : LoadCtx) (img : List Byte) (l : Nat) (main : Bool) (training : Bool) : List LoadFail :=
  let hdr := 0x10 + 16 * l + (if main then 0 else 8)
  let n := leAt img (hdr + 4) 4
  if n = 0 then []
  else if img.length < leAt img hdr 4 + 64 * n then failIf true 0x41 0 hdr
  else
    let ds := rawStream img hdr
    ds.flatMap (fun d => checkDesc s x l d.1 d.2) ++ checkPairs ds (fun _ => none)
    ++ ds.flatMap (fun d => failIf ((training && main && leAt d.2 0 1 == 6) || ((!training || main) && leAt d.2 0 1 == 0xB)) 0x47 (leAt d.2 4 4) d.1)
    ++ (match ds.getLast? with
        | some d => failIf (leAt d.2 0 1 != 0xF) 0x47 (leAt d.2 4 4) d.1
        | none => [])

/-! ### The image (Table 5.3) -/

/-- VOTE and COMMIT stand once each, in this order, in one update stream (R167). -/
def badSteps (img : List Byte) (cores : Nat) : Bool :=
  let steps := (List.range cores).map fun l => ((rawStream img (0x18 + 16 * l)).filter fun d => leAt d.2 0 1 == 0xB).map fun d => leAt d.2 0x10 1
  (steps.filter fun x => !x.isEmpty) != [[1, 2]]

/-- The bindings with a dW pass that overlap an earlier one (R116). -/
def tied : List Binding → Option Nat
  | [] => none
  | b :: rest =>
    match rest.find? fun c => decide (b.addr < c.addr + c.bytes) && decide (c.addr < b.addr + b.bytes) with
    | some c => some c.addr
    | none => tied rest

/-- The checks of a training image (R112, R116, R133, R167, R239). -/
def checkTraining (s : State) (x : LoadCtx) (img : List Byte) : List LoadFail :=
  let i := x.image
  let p := x.part
  let passes := (i.main ++ i.update).flatten.filter fun d => d.opcode == 2
  -- the window that the job's start brings into force (R239, R257)
  let s := s.setStream p { s.stream p with window := s.reg (.spnWindow p) }
  failIf (badSteps img x.cores.length) 0x47
  ++ (match tied (i.bindings.filter fun b => b.dw && b.bytes != 0) with | some a => failIf true 0x50 0 (a % 2 ^ 32) | none => [])
  ++ failIf (decide (s.fld (F.jobStashQuotaT1Gib p) * 2 ^ 30 < (i.layers.map (·.input)).sum)
             || decide (s.t0Bytes p < s.fixedAreas p + s.stashQuotaMib p * mib + recomputeArea i + 16 * mib)) 0x51
  ++ failIf (decide (4000 < i.scaled.length)
             || (i.scaled.any fun t => passes.any fun d => d.tag == t.1 && trueUnits (d.at 0x3C 2))) 0x52

/-- An image table lies inside the image. -/
def tableOut (img : List Byte) (off n size : Nat) : Bool := decide (img.length < off + n * size)

/-- The checks of an image that could be read. A RESUME takes an image of either kind (log entry 192). -/
def checkImage (s : State) (x : LoadCtx) (img : List Byte) : List LoadFail :=
  let kind := leAt img 7 1
  let training := kind == 1
  let i := x.image
  let bad := leAt img 0 4 != 0x4A4E4931 || leAt img 4 2 != 1 || leAt img 6 1 != x.cores.length || x.cores.isEmpty
    || (if x.record.kind = 2 then decide (1 < kind) else kind != x.record.kind) || leAt img 8 4 != x.record.imageLen
    || anyByte img 0xC 4 || anyByte img 0x56 2 || anyByte img 0x66 2 || anyByte img 0x6E 2 || anyByte img 0x76 2 || anyByte img 0x80 128
  if bad then failIf true 0x41
  else
    failIf (leAt img 0x54 2 == 0 || decide (16 < leAt img 0x54 2) || tableOut img (leAt img 0x50 4) (leAt img 0x54 2) 24) 0x41 0 0x50
    ++ i.bases.zipIdx.flatMap (fun b =>
        failIf (b.1.addr % 64 != 0 || b.1.strideMicro % 64 != 0 || b.1.strideAttempt % 64 != 0) 0x4B 0 (leAt img 0x50 4 + 24 * b.2)
        ++ failIf (!inRange (s.slice x.part x.record.tenant) b.1.addr 1) 0x44 0 (leAt img 0x50 4 + 24 * b.2))
    ++ failIf (tableOut img i.kernelAt i.kernelLen 1 || decide (65536 < i.kernelLen)) 0x41 0 0x78
    ++ failIf (decide (4096 < leAt img 0x74 2) || tableOut img (leAt img 0x70 4) (leAt img 0x74 2) 16) 0x41 0 0x70
    ++ (tableRows img (leAt img 0x70 4) (leAt img 0x74 2) 16).zipIdx.flatMap (fun b =>
        failIf (((i.buckets.take b.2).any fun c => c.id == leAt b.1 0 2) || decide (1 < leAt b.1 2 1) || decide (7 < leAt b.1 3 1)
                || decide (4 < leAt b.1 4 1) || anyByte b.1 5 3) 0x41 0 (leAt img 0x70 4 + 16 * b.2)
        ++ failIf (decide (0xFFFE ≤ leAt b.1 0 2) && bitAt (leAt b.1 2 1) 0) 0x53 0 (leAt img 0x70 4 + 16 * b.2))
    ++ (if training then
          failIf (tableOut img (leAt img 0x60 4) (leAt img 0x64 2) 32
                  || ((tableRows img (leAt img 0x60 4) (leAt img 0x64 2) 32).any fun r => decide (1 < leAt r 24 1))) 0x41 0 0x60
          ++ failIf (tableOut img (leAt img 0x58 4) (leAt img 0x5C 4) 32) 0x41 0 0x58
          ++ failIf (tableOut img (leAt img 0x68 4) (leAt img 0x6C 2) 8) 0x41 0 0x68
        else [])
    ++ (List.range x.cores.length).flatMap (fun l => checkStream s x img l true training ++ checkStream s x img l false training)
    ++ (if training then checkTraining s x img else [])

/-! ### Save areas (R168, R169) -/

/-- The save area of a RESUME record matches the image and this device. -/
def State.saveOf (s : State) (p : Nat) (r : JobRec) (i : JobImage) (cores : Nat) : Option SaveInfo :=
  if r.saveAddr = 0 ∨ ¬ inRange (s.slice p r.tenant) r.saveAddr (8192 * cores) then none
  else
    let bs := s.bytes r.saveAddr (8192 * cores)
    ((s.saves.find? fun x => x.1 == bs).map (·.2)).bind fun i0 =>
      if i0.device == s.fuses.serial && i0.job.image.measure == i.measure && i0.job.cores.length == cores
        && !s.poisoned r.saveAddr (8192 * cores) then some i0 else none

/-! ### The whole load -/

/-- What the loader makes of an entry: the image as decoded, the state after its reads, and every check that failed. -/
structure Loaded where
  s : State
  record : JobRec
  cores : List Nat
  image : JobImage
  save : Option SaveInfo
  fails : List LoadFail

/-- The first sector of the image that reads poisoned. -/
def State.firstBad (s : State) (bad : List Nat) (a n : Nat) : Nat :=
  (((List.range (ceilDiv n 64)).find? fun i => s.bad bad (a + 64 * i) (min 64 (n - 64 * i))).getD 0) * 64

/-- The loader's reads and checks of one entry (R172). The tile sum of squares is enabled on every pass of a training job (R118). -/
def loadEntry (p : Nat) (bs : List Byte) (s : State) : Loaded :=
  let r := { parseRec bs with tenant := leAt bs 6 1 % 16 }
  let cores := maskCores (r.coreMask % 16)
  let fails := checkRecord s p bs
  let none0 : Loaded := { s := s, record := r, cores := cores, image := JobImage.empty, save := none, fails := fails }
  if r.imageAddr % 64 ≠ 0 ∨ r.imageLen < 256 ∨ 2 ^ 30 < r.imageLen then none0
  else if !inRange (s.slice p r.tenant) r.imageAddr r.imageLen then { none0 with fails := fails ++ failIf true 0x44 }
  else
    let (t, img, bad, extra) := match touch p { reads := [(r.imageAddr, r.imageLen)], writes := [] } s with
      | .ok t bad => (t, t.bytes r.imageAddr r.imageLen, t.bad bad r.imageAddr r.imageLen, bad)
      | .wait t => (t, t.bytes r.imageAddr r.imageLen, t.poisoned r.imageAddr r.imageLen, [])
    let i := parseImage img cores.length
    if bad then { none0 with s := t, image := { JobImage.empty with id := i.id, measure := i.measure }
                             fails := fails ++ failIf true 0x55 0 (t.firstBad extra r.imageAddr r.imageLen) }
    else
      let x : LoadCtx := { part := p, record := r, image := i, cores := cores }
      let fails := fails ++ checkImage t x img
      let save := if r.kind = 2 then t.saveOf p r i cores.length else none
      let fails := fails ++ failIf (r.kind == 2 && save.isNone) 0x54
      { s := t, record := r, cores := cores, image := i, save := save, fails := fails }

end Sys2Proof.Machine
end

