-- ==== Sys2Proof/Machine/Sequencer.lean ====
section
/-! DEFINITION. The core sequencers (chapter 5): taking a job, dispatch, the descriptors a sequencer executes itself, the runs of a
training job (R166), timeouts, cancel, suspend, and the completion record. -/
namespace Sys2Proof.Machine

/-! ### Taking an entry (R141 to R144, R172, R407) -/

/-- The entry at the head of a ring, if it is visible (R141). -/
def State.ringHead (s : State) (p r : Nat) : Option (List Byte) :=
  let n := s.fld (F.jobRingSeqNextSeq p r)
  let bs := memBytes s.rings (p * 2 ^ 20 + r * 2 ^ 16 + (n + 2 ^ 32 - 1) % 256 * 256) 256
  if leAt bs 0xF8 4 = n then some bs else none

/-- The head of a ring may be taken (R143). -/
def State.takeable (s : State) (p r : Nat) : Bool :=
  s.on (F.jobRingCtrlEnable p r) &&
  match s.ringHead p r with
  | some bs => (maskCores (leAt bs 5 1 % 16)).all fun c => (s.coreJob c).isNone
  | none => false

/-- Jobs of a partition are taken: its slots are up and its memory is ready. -/
def State.intake (s : State) (p : Nat) : Bool :=
  s.live && s.partValid p && !s.resetting p && !((List.range 24).any fun g => (s.partMcgs p).testBit g && (s.mcg g).reinit)

/-- What a core holds is cleared when its tenant slot changes (R407). -/
def clearCore (c : Nat) (s : State) : State :=
  let s := ((engsOf c).filter s.present).foldl (fun t e =>
    let t := t.setEng e { t.eng e with station := [], scales := [], vecs := [], plan := [], tbuf := [] }
    cntClear e t) s
  let s := s.setVe c { s.ve c with v := [], s := [], a := [] }
  let s := [Reg.veRetiredLo c, .veRetiredHi c, .veMemstallLo c, .veMemstallHi c].foldl (fun t r => t.setReg r 0) s
  (List.range 256).foldl (fun t n => t.setFld (F.coreCtrValue c n) 0) s

/-- The streams of a job that is not a training job begin. -/
def startPlain (j : Job) (s : State) : State :=
  j.cores.foldl (fun t c => t.setSq c { t.sq c with
    stream := .main, pos := 0, fenceFrom := some j.issued, ended := (j.stream (j.logical c) .main).isEmpty }) s

/-- A job that a suspend has saved goes on from its positions (R169): the sequencers and counters as saved. -/
def resumePlain (k : Nat) (j : Job) (i : SaveInfo) (s : State) : State :=
  j.cores.zipIdx.foldl (fun t x =>
    let q := t.sq x.1
    let o := i.sqs.getD x.2 Sq.empty
    let t := t.setSq x.1 { o with job := some k, lastTenant := q.lastTenant, dusk := false }
    ((i.counters.getD x.2 []).zipIdx).foldl (fun u v => u.setFld (F.coreCtrValue x.1 v.2) v.1) t) s

/-- The record of a resumed job: the new one, with the training fields that stand in the save area. -/
def resumedRec (r old : JobRec) : JobRec :=
  { old with tag := r.tag, coreMask := r.coreMask, tenant := r.tenant, imageAddr := r.imageAddr, imageLen := r.imageLen,
             ctrTimeout := r.ctrTimeout, seed := r.seed, compAddr := r.compAddr, compRkey := r.compRkey, compQp := r.compQp,
             collJob := r.collJob, nfAddr := r.nfAddr, nfCap := r.nfCap, saveAddr := r.saveAddr, replayStep := r.replayStep,
             replayLimit := r.replayLimit }

/-- An accepted entry becomes a job on its cores. -/
def startJob (p r seq stamp : Nat) (x : Loaded) (s : State) : State :=
  let k := x.cores.headD 0
  let s := x.cores.foldl (fun t c => if (t.sq c).lastTenant = some (p, x.record.tenant) then t else clearCore c t) s
  let at0 := x.record.imageAddr + x.image.kernelAt
  let s := x.cores.foldl (fun t c =>
    let t := t.setSq c { Sq.empty with job := some k, lastTenant := some (p, x.record.tenant) }
    let t := t.setVe c { t.ve c with store := t.bytes at0 x.image.kernelLen, storeAt := at0, running := false, kernel := none, hyper := [] }
    (t.setFld (F.jobCoreStatusState p c) 2).setFld (F.jobCoreStatusRing p c) r) s
  let fresh : Job := {
    part := p, ring := r, seq := seq, record := x.record, image := x.image, cores := x.cores, ending := none, failTag := 0
    failDetail := 0, nfOver := false, saved := false, nfTiles := 0, nfListed := 0, startStamp := stamp, issued := 0
    train := Train.empty, suspend := false, seeded := [], last := Train.empty }
  let j : Job := match x.save with
    | some i => { fresh with
        record := { resumedRec x.record i.job.record with kind := i.job.record.kind }
        issued := i.job.issued, train := { i.job.train with suspendAfter := false, endAfter := none } }
    | none => fresh
  let s := streamBoundary p (zeroCounters j (s.setJob k j))
  -- the job ID is taken anew: aborts of an earlier job do not stand against it
  let s := { s with rde := { s.rde with aborts := s.rde.aborts.filter fun a => a.1 != x.record.collJob % 4096 } }
  if j.training then beginAttempt k true s
  else match x.save with
    | some i => resumePlain k j i s
    | none => startPlain j s

/-- The completion record of a refused entry, and nothing else (R172). -/
def refuseJob (p r seq stamp : Nat) (x : Loaded) (f : LoadFail) (s : State) : State :=
  let j : Job := {
    part := p, ring := r, seq := seq, record := { x.record with kind := 0 }, image := x.image, cores := x.cores, ending := none, failTag := f.tag
    failDetail := f.detail, nfOver := false, saved := false, nfTiles := 0, nfListed := 0, startStamp := stamp, issued := 0
    train := Train.empty, suspend := false, seeded := [], last := Train.empty }
  (reportJob j f.code s).bump (F.ldgJobsEndedEnded p)

/-- JOB_TAKE: the head of the lowest ring that has one to take. -/
def jobTake (p : Nat) (s : State) : State :=
  if !s.intake p then s
  else match (List.range 16).find? (s.takeable p) with
  | none => s
  | some r =>
    let seq := s.fld (F.jobRingSeqNextSeq p r)
    let bs := (s.ringHead p r).getD []
    let stamp := s.clock.fclk
    let s := (s.setFld (F.jobRingSeqNextSeq p r) (seq + 1)).bump (F.ldgJobsTakenTaken p)
    let x := loadEntry p bs s
    match worstFail x.fails with
    | some f => refuseJob p r seq stamp x f x.s
    | none => startJob p r seq stamp x x.s

/-- RING_RESET: only while the ring is disabled (R141). -/
def ringReset (p r : Nat) (s : State) : State :=
  if s.on (F.jobRingCtrlEnable p r) then dropLogged (Reg.jobRingCtrl p r).addr s
  else
    let lo := p * 2 ^ 20 + r * 2 ^ 16
    { s.setFld (F.jobRingSeqNextSeq p r) 1 with rings := s.rings.filter fun x => !(decide (lo ≤ x.1) && decide (x.1 < lo + 65536)) }

/-! ### Dispatch (R152, R161, R107, R114) -/

/-- Every core has come to its first bwd_start, or its main stream has ended, and every unit is idle (R107, R161). -/
def State.bwdReady (s : State) (j : Job) : Bool :=
  s.unitsIdle j && j.cores.all fun c =>
    let q := s.sq c
    q.ended || (match s.atHand c with | some (_, _, d) => d.bwdStart | none => true)

/-- The fence of the first bwd_start: passed, or passed now; the stream of the slab window turns (R256). -/
def bwdFence (k c : Nat) (j : Job) (d : Desc) (s : State) : Option State :=
  let q := s.sq c
  if !d.bwdStart || q.stream != .main || q.bwdPassed then some s
  else if s.bwdReady j then
    let s := j.cores.foldl (fun t o => t.setSq o { t.sq o with bwdPassed := true }) s
    let s := if j.training then s.setStream j.part { s.stream j.part with down := true } else s
    some (releaseStash k s)
  else none

/-- The descriptor at hand is skipped (R161, R167). -/
def State.skips (s : State) (c : Nat) (j : Job) (d : Desc) : Bool :=
  let q := s.sq c
  let here := j.training && q.stream == .main && decide (d.layer < j.image.layers.length)
  let marked := j.train.recompute.contains d.layer
  (here && ((d.stashOnly && marked) || (d.recomputeOnly && !marked)))
  || (q.skipping && q.stream == .update && !(d.opcode == 0xF || (d.opcode == 0xB && d.at 0x10 1 == 2)))

/-- A descriptor of the sequencer's own that is skipped: its signal is raised. -/
def skipHere (c : Nat) (s : State) : State := completeHere c s

/-- The descriptor at hand is for the sequencer itself, its fence and its admission are passed; `none` while the fence holds it. -/
def ownHand (c opcode : Nat) (s : State) : Option (State × Nat × Job × Desc) :=
  if !s.live || s.coreFenced c then none
  else match s.atHand c with
  | some (k, j, d) =>
    if d.opcode != opcode || j.stopped then none
    else match bwdFence k c j d s with
      | some t => some ((if d.layerStart && j.training && (t.sq c).stream == .main then layerStart k d.layer t else t), k, j, d)
      | none => none
  | none => none

/-- An own descriptor: skipped, or done as soon as its wait is met. -/
def ownRow (c opcode : Nat) (act : Nat → Job → Desc → State → State) (s : State) : State :=
  match ownHand c opcode s with
  | some (t, k, _, d) =>
    match t.job k with
    | some j =>
      if t.skips c j d then skipHere c t
      else if t.waitMet j d ((t.sq c).stream == .update) then act k j d (t.setSq c { t.sq c with dusk := false }) else s
    | none => s
  | none => s

/-- DESCRIPTOR_DISPATCH. -/
def dispatch (c : Nat) (s : State) : State :=
  if !s.live || s.coreFenced c then s
  else match s.atHand c with
  | none => s
  | some (k, j, d) =>
    match d.queue with
    | none => s
    | some u =>
      if j.stopped || decide (16 ≤ ((s.sq c).queue u).length) then s
      else match bwdFence k c j d s with
        | none => s
        | some s =>
          let s := if d.layerStart && j.training && (s.sq c).stream == .main then layerStart k d.layer s else s
          match s.job k with
          | none => s
          | some j =>
            let q := s.sq c
            let main := j.training && q.stream == .main
            let e := 2 * c + d.unit % 2
            -- the second half of a pair whose LOAD found a SKIPPED plan entry (R225) ...
            let mate := d.opcode == 2 && (match (s.eng e).loaded with | some l => l.skipped | none => false)
            let s := if mate then s.setEng e { s.eng e with loaded := none } else s
            -- ... or whose LOAD was abandoned: it leaves without its signal (R65)
            let drop := d.opcode == 2 && (s.eng e).dropNext
            if drop then stepOver c (s.setEng e { s.eng e with dropNext := false }) else
            let item : QItem := {
              d := d, micro := if main then j.train.micro else 0, attempt := if main then j.train.attempt else 0
              skipped := mate || s.skips c j d, resume := 0, ePass := 0, replays := 0, last := false, upd := q.stream == .update, no := j.issued }
            let s := s.setSq c { q with dusk := false }
            let q := s.sq c
            settle c u (stepOver c (s.setSq c (q.setQueue u (q.queue u ++ [item]))))

/-! ### The sequencer's own descriptors (R153, R157) -/

def waitRow (c : Nat) (s : State) : State := ownRow c 8 (fun _ _ _ t => completeHere c t) s
def signalRow (c : Nat) (s : State) : State := ownRow c 9 (fun _ _ _ t => completeHere c t) s

/-- The units that a FENCE names. -/
def fenceUnits (scope : Nat) : List QUnit :=
  (if bitAt scope 0 then [.eng0, .eng1] else []) ++ (if bitAt scope 1 then [.ve] else []) ++ (if bitAt scope 2 then [.xfer] else [])
  ++ (if bitAt scope 3 then [.cxe] else []) ++ (if bitAt scope 4 then [.coll] else [])

/-- Every descriptor dispatched before the FENCE in its scope is complete; an engine still holds a pass that it runs or replays. -/
def State.fenceMet (s : State) (c : Nat) (j : Job) (scope : Nat) : Bool :=
  let from' := (s.sq c).fenceFrom.getD j.issued
  (if bitAt scope 5 then j.cores else [c]).all fun o => (fenceUnits scope).all fun u => (s.pendingNos o u).all fun n => decide (from' ≤ n)

def fenceRow (c : Nat) (s : State) : State :=
  ownRow c 0xA (fun _ j d t => if t.fenceMet c j (d.at 0x10 1) then completeHere c t else t) s

/-- END: the stream ends. -/
def endRow (c : Nat) (s : State) : State :=
  ownRow c 0xF (fun k _ _ t => let t := completeHere c t; releaseStash k (t.setSq c { t.sq c with ended := true })) s

/-- VOTE (R126): +0 when the window and every owned shard are finite. A group of one decides alone; any other runs the all-reduce. -/
def voteRow (c : Nat) (s : State) : State :=
  ownRow c 0xB (fun k j d t =>
    if d.at 0x10 1 != 1 || j.train.vote.isSome || (t.rde.colls.any fun x => x.key == k && x.item.isNone) then t
    else
      let bad := j.train.poisoned || j.cores.any fun o => t.on (F.veFlagsNf o)
      if j.record.groupSize ≤ 1 then voteDone k c (!bad) t
      else
        let x : Coll := {
          core := c, key := k, part := j.part, job := j.record.collJob % 4096, attempt := j.train.attempt, bucket := 0xFFFF, op := 2, fmt := 0
          plan := 0, buf := 0, out := 0, blocks := 1, weight := 1, headroom := 0, expAddr := 0, group := j.record.groupSize, item := none
          scalar := (if bad then [0x7FC0] else [0]) ++ List.replicate 31 0, phase := 0, opened := false, done := [], held := [], parts := []
          next := [], seen := [], readyRx := [], readyTx := [], waiting := [] }
        startColl x (t.onTrain k fun y => { y with phase := .voting, collsDone := 0xFFFF :: y.collsDone })) s

/-- COMMIT (R127 to R131): phase 8, once every COLL of the job and every mirror has ended; then the next attempt, or the job's end. -/
def commitRow (c : Nat) (s : State) : State :=
  ownRow c 0xB (fun k j d t =>
    let quiet := j.cores.all fun o => (t.pendingNos o .coll).isEmpty
    if d.at 0x10 1 != 2 || j.train.vote.isNone || !quiet then t
    else if !t.mirrorsDone j then t
    else
      let t := commitStep k t
      let t := if t.fld F.rdeStatusPairState == 1 then sendHeartbeat t else t
      let t := completeHere c t
      let t := t.setSq c { t.sq c with skipping := false }
      -- the attempt is over, whether or not another one follows (R149)
      let t := t.onTrain k fun y => { y with attempt := y.attempt + 1 }
      match t.job k with
      | some j =>
        (match j.endStatus with
        | some st => t.onTrain k fun y => { y with phase := .done, endAfter := some st }
        | none => beginAttempt k false t)
      | none => t) s

/-! ### Runs (R166) -/

/-- A stream begins on every core of the job. -/
def beginStream (j : Job) (r : Stream) (s : State) : State :=
  j.cores.foldl (fun t c => t.setSq c { t.sq c with
    stream := r, pos := 0, ended := (j.stream (j.logical c) r).isEmpty, fenceFrom := some j.issued, bwdPassed := r == .update, skipping := false, dusk := false }) s

/-- No stream of the job is under way. -/
def State.between (s : State) (j : Job) : Bool := j.cores.all fun c => (s.sq c).stream == .none || (s.sq c).ended

/-- MAIN_RUN_START: every unit is idle, counters are zeroed, the next micro-step begins. -/
def mainRunStart (c : Nat) (s : State) : State :=
  match s.jobAt c with
  | some (k, j) =>
    if !s.live || !j.training || j.ending.isSome || j.train.phase != .micro || j.train.poisoned || decide (j.record.window ≤ j.train.microRun)
        || !s.between j || !s.unitsIdle j then s
    else
      let s := zeroCounters j s
      let s := s.onTrain k fun t => { t with micro := t.microRun, microRun := t.microRun + 1 }
      let s := beginMicro k s
      let s := s.setStream j.part { s.stream j.part with down := false }
      beginStream j .main s
  | none => s

/-- UPDATE_STREAM_START: the last main run has ended, or the window is poisoned; of a job that is no training job, the main streams. -/
def updateStreamStart (c : Nat) (s : State) : State :=
  match s.jobAt c with
  | some (k, j) =>
    if !s.live || j.stopped || !s.between j then s
    else if j.training then
      if j.train.phase == .micro && (j.train.poisoned || decide (j.record.window ≤ j.train.microRun)) then
        beginStream j .update (s.onTrain k fun t => { t with phase := .update, waitStamp := s.clock.fclk })
      else s
    else if (s.sq c).stream == .main && j.image.update.any (fun l => !l.isEmpty) then beginStream j .update s
    else s
  | none => s

/-! ### Timeouts, cancel, suspend (R165, R168, R170) -/

/-- The limit in µs of what the sequencer waits for: a WAIT that is not met, a FENCE. -/
def State.handTimeout (s : State) (c : Nat) : Option (Nat × Nat × Job × Desc) :=
  match s.atHand c with
  | some (k, j, d) =>
    let upd := (s.sq c).stream == .update
    if j.stopped || s.skips c j d then none
    else if d.opcode = 8 ∧ s.waitMet j d upd = false then
      some ((if d.at 0x10 4 = 0 then j.record.ctrTimeout else d.at 0x10 4), k, j, d)
    else if d.opcode = 0xA ∧ (s.waitMet j d upd && s.fenceMet c j (d.at 0x10 1)) = false then some (j.record.ctrTimeout, k, j, d)
    else if s.waitMet j d upd = false then some (j.record.ctrTimeout, k, j, d)
    else none
  | none => none

/-- The limit of a queue head whose wait is not met. -/
def State.headTimeout (s : State) (c : Nat) (u : QUnit) : Option (Nat × Nat × Job × Desc) :=
  match s.jobAt c, (s.sq c).queue u with
  | some (k, j), q :: _ => if j.stopped || q.skipped || s.waitMet j q.d q.upd then none else some (j.record.ctrTimeout, k, j, q.d)
  | _, _ => none

/-- A training job that cannot go on ends after what phase 8 can still do: it flips if its vote has passed and its all-gathers and
mirrors are complete, and else reports a discarded attempt, or a lost all-gather (R127, R128, R132). -/
def endStuck (k tag : Nat) (s : State) : State :=
  match s.job k with
  | some j =>
    let passed := j.train.vote == some true
    let lost := passed && (!(openGathers k j s).isEmpty || !s.mirrorsDone j)
    let s := (dropColls k (j.record.collJob % 4096) s).onTrain k fun t => { t with gatherLost := t.gatherLost || lost, fault := t.fault || t.vote.isNone }
    endJob k (j.train.endAfter.getD 0x15) tag 0 (commitStep k s)
  | none => s

/-- COUNTER_TIMEOUT (R165): the wait or FENCE at hand of a core's sequencer, or the wait of one of its queue heads, has lasted past its
limit; the record names it, and its job ends. A training job that can still discard its step group-wide does so first. -/
def counterTimeout (c : Nat) (unit : Option Nat) (s : State) : State :=
  let found := match unit with
    | none => s.handTimeout c
    | some u => (allUnits[u]?).bind (s.headTimeout c)
  match found with
  | some (limit, k, j, d) =>
    if !s.live || limit == 0 then s
    else
      let s := errRecord { bank := 0x10 + c, unit := 3, cause := 0x10, cls := 2, part := some j.part, tenant := j.record.tenant,
                           jobTag := j.record.tag, descTag := d.tag } s
      if !j.training || j.train.phase == .done then endJob k (j.train.endAfter.getD 0x15) d.tag 0 s
      else if j.train.phase.open && !(j.train.poisoned && j.train.endAfter.isSome) then
        failJob k 0x15 d.layer d.tag (if j.train.phase == .micro then j.train.micro else 0xFFFF) 0 s
      else endStuck k d.tag s
  | none => s

/-- The jobs that a mask of cores of a partition names. -/
def State.maskJobs (s : State) (p mask : Nat) : List Nat :=
  ((List.range 4).filter fun c => mask.testBit c && (s.partCores p).testBit c).foldl (fun l c =>
    match s.coreJob c with
    | some k => if l.contains k then l else l ++ [k]
    | none => l) []

/-- A cancel of one job (R170). -/
def cancelJob (k : Nat) (s : State) : State :=
  match s.job k with
  | some j =>
    if !j.training then endJob k 1 0 0 s
    else if j.ending.isSome || j.train.endAfter.isSome then s
    else poison k 0xFFFF 0 0xFFFF (s.onTrain k fun t => { t with endAfter := some 1 })
  | none => s

/-- CANCEL. -/
def cancel (p mask : Nat) (s : State) : State := (s.maskJobs p mask).foldl (fun t k => cancelJob k t) s

/-- A suspend of one job (R168). -/
def suspendJob (p k : Nat) (s : State) : State :=
  match s.job k with
  | some j =>
    if j.record.saveAddr = 0 then dropLogged (Reg.jobCtrl p).addr s
    else if j.ending.isSome then s
    else if j.training then s.onTrain k fun t => { t with suspendAfter := true }
    else (j.cores.flatMap engsOf).foldl (fun t e => preemptPass e t) (s.setJob k { j with suspend := true })
  | none => s

/-- SUSPEND. -/
def suspend (p mask : Nat) (s : State) : State := (s.maskJobs p mask).foldl (fun t k => suspendJob p k t) s

/-! ### The end of a job (R145, R168) -/

/-- The save area: 8 KiB a core in a form of the device's own. -/
def writeSave (k : Nat) (s : State) : State :=
  match s.job k with
  | some j =>
    let n := 8192 * j.cores.length
    let bs := (List.range n).map fun i => BitVec.ofNat 8 (Config.value (s.clock.freeIdx + i))
    let s := { s with clock := { s.clock with freeIdx := s.clock.freeIdx + n } }
    if s.inSlice j j.record.saveAddr n then
      let info : SaveInfo := {
        device := s.fuses.serial, job := { j with saved := true }, sqs := j.cores.map s.sq
        counters := j.cores.map fun c => (List.range 256).map fun i => s.fld (F.coreCtrValue c i) }
      let s := writeNow j.part j.record.saveAddr bs s
      { s.setJob k { j with saved := true } with saves := (bs, info) :: s.saves.filter fun x => x.1 != bs }
    else s
  | none => s

/-- The status a job ends with now, if it ends now: every host transfer acknowledged, every unit at its point. -/
def State.endsNow (s : State) (j : Job) : Option Nat :=
  let host := s.requests.any fun r => match r.owner with | .xfer d => j.cores.contains d | _ => false
  if host then none
  else match j.ending with
  | some st => if s.atPoint j then some st else none
  | none =>
    if j.training then
      if j.train.phase == .done && s.streamsEnded j && s.unitsIdle j then some (j.train.endAfter.getD 0) else none
    else if j.suspend then (if s.atPoint j then some 2 else none)
    else if s.streamsEnded j && s.unitsIdle j
        && (j.cores.all (fun c => (s.sq c).stream == .update) || j.image.update.all (·.isEmpty)) then some 0
    else none

/-- COMPLETION_WRITE: the completion record goes out and the cores are free. -/
def completionWrite (c : Nat) (s : State) : State :=
  match s.jobAt c with
  | some (k, j) =>
    if !s.live then s
    else match s.endsNow j with
      | some st =>
        let s := if st = 2 then writeSave k s else s
        (match s.job k with
        | some j => freeJob k st (reportJob j st s)
        | none => s)
      | none => s
  | none => s

/-! ### The rows -/

def execJobTake (p : Fin 4) (s : State) : Res := go s (jobTake p)
def execRingReset (p : Fin 4) (r : Fin 16) (s : State) : Res := go s (onWrite (.jobRingCtrl p r) (ringReset p r))
def execDescriptorDispatch (c : Fin 4) (s : State) : Res := go s (dispatch c)
def execMainRunStart (c : Fin 4) (s : State) : Res := go s (mainRunStart c)
def execUpdateStreamStart (c : Fin 4) (s : State) : Res := go s (updateStreamStart c)
def execWait (c : Fin 4) (s : State) : Res := go s (waitRow c)
def execSignal (c : Fin 4) (s : State) : Res := go s (signalRow c)
def execFence (c : Fin 4) (s : State) : Res := go s (fenceRow c)
def execVote (c : Fin 4) (s : State) : Res := go s (voteRow c)
def execCommit (c : Fin 4) (s : State) : Res := go s (commitRow c)
def execEndStream (c : Fin 4) (s : State) : Res := go s (endRow c)
def execCounterTimeout (w : WaitAt) (s : State) : Res := go s (counterTimeout w.core (w.unit.map (·.val)))
def execCancel (p : Fin 4) (mask : BitVec 4) (s : State) : Res := go s (onWrite (.jobCtrl p) (cancel p mask.toNat))
def execSuspend (p : Fin 4) (mask : BitVec 4) (s : State) : Res := go s (onWrite (.jobCtrl p) (suspend p mask.toNat))
def execCompletionWrite (c : Fin 4) (s : State) : Res := go s (completionWrite c)
def execStashSpill (p : Fin 4) (s : State) : Res := go s (stashSpill p)

end Sys2Proof.Machine
end

