-- ==== Sys2Proof/Machine/Cxe.lean ====
section
/-! DEFINITION. The context engine (chapter 7): classes, contexts, pages and their states, prefix trees, the nine operations, page
plans, and page starvation. The tables of a partition are structured state; descriptors, page lists and parked records are written to
the span as the spec lays them out. -/
namespace Sys2Proof.Machine

/-! ### Statuses (Table 7.6) -/

def cxNoRecord : Nat := 1
def cxBadCtx : Nat := 2
def cxBadClass : Nat := 3
def cxLimit : Nat := 4
def cxNoPage : Nat := 5
def cxNoList : Nat := 6
def cxBadRange : Nat := 7
def cxPlanShort : Nat := 8
def cxNoParkId : Nat := 9
def cxParkFull : Nat := 0xA
def cxMemFault : Nat := 0xB
def cxIdInUse : Nat := 0xC
def cxNoPageId : Nat := 0xD

/-! ### The layout block (R200, R201) -/

def CxClass.pageBytes (c : CxClass) : Nat := 1024 * 2 ^ c.pageCode
def CxClass.rowBytes (c : CxClass) : Nat := c.pageBytes / 32
def CxClass.ok (c : CxClass) : Bool := c.frames != 0 && decide (c.pageCode ≤ 8) && decide (1 ≤ c.layers) && decide (c.layers ≤ 256) && decide (c.fmt ≤ 3)

/-- A class that is used and valid. -/
def CxPart.cls (x : CxPart) (n : Nat) : Option CxClass := (x.classes[n]?).bind fun c => if c.ok then some c else none

/-- The class of a context that exists. -/
def CxPart.clsOf (x : CxPart) (r : Ctx) : CxClass :=
  (x.cls r.cls).getD { pageCode := 0, fmt := 0, layers := 0, share := false, causal := false, windowEn := false, padEn := false, window := 0
                       frames := 0, frameBase := 0, salt := [] }

/-- The stride of park slots: one page of the largest class (log entry 69). -/
def CxPart.slotBytes (x : CxPart) : Nat := (x.classes.filter (·.ok)).foldl (fun m c => max m c.pageBytes) 1024

/-- The layout block as read (Table 7.1). -/
def parseLayout (bs : List Byte) : CxPart :=
  let f := leAt bs
  { CxPart.empty with
    valid := true
    classes := (List.range 8).map fun i =>
      let o := 32 * i
      { pageCode := f o 1, fmt := f (o + 1) 1, layers := f (o + 2) 2, share := bitAt (f (o + 4) 1) 0, causal := bitAt (f (o + 4) 1) 1,
        windowEn := bitAt (f (o + 4) 1) 2, padEn := bitAt (f (o + 4) 1) 3, window := f (o + 8) 4, frames := f (o + 0xC) 4,
        frameBase := f (o + 0x10) 8, salt := (bs.drop (o + 0x18)).take 8 }
    pageTable := f 0x100 8, pageFirst := f 0x108 4, pageCount := f 0x10C 4, nodeStore := f 0x110 8, nodeCount := f 0x118 4
    listBlocks := f 0x11C 4, listPool := f 0x120 8, parkDir := f 0x128 8, parkFirst := f 0x130 4, parkCount := f 0x134 4
    regions := [(f 0x138 8, f 0x140 8), (f 0x150 8, f 0x158 8), (f 0x168 8, f 0x170 8)] }

/-- The layout block is read at cold start and after a partial reset; without one there are no classes (R200). -/
def readLayout (p : Nat) (s : State) : State :=
  let a := s.pair (.cxePartLayoutLo p) (.cxePartLayoutHi p)
  let s := ((s.setFld (F.cxeStarveEventsEvents p) 0).setFld (F.cxeStarveFailsFails p) 0).setFld (F.cxeHashCollColl p) 0
  if a = 0 then s.setCxp p CxPart.empty
  else let (s, bs, _) := readNow p a 512 s; s.setCxp p (parseLayout bs)

/-! ### Pages (R206 to R209) -/

def Ctx.holds (r : Ctx) (id : Nat) : Bool := r.pages.any fun l => l.contains id

/-- Live and parked holders of a page. -/
def CxPart.holders (x : CxPart) (id : Nat) : Nat × Nat :=
  ((x.live.filter fun r => r.2.holds id).length, (x.parked.filter fun r => r.2.holds id).length)

def CxPart.page (x : CxPart) (id : Nat) : CxPage := tabGet { cls := 0, written := 0, node := false, region := 0, location := 0, stamp := 0 } x.pages id

/-- The state code of Table 7.3. -/
def CxPart.pageState (x : CxPart) (id : Nat) : Nat :=
  match tabFind x.pages id with
  | none => 0
  | some g =>
    if g.region = 0 then (if x.holders id = (1, 0) ∧ g.node = false then 1 else 2) else if g.region = 2 then 4 else 3

/-- Where a page's bytes are. -/
def CxPart.addrOf (x : CxPart) (g : CxPage) : Nat :=
  if g.region = 0 then match x.cls g.cls with | some c => c.frameBase + g.location * c.pageBytes | none => 0
  else (x.regions.getD (g.region - 1) (0, 0)).1 + g.location * x.slotBytes

def CxPart.sizeOf (x : CxPart) (g : CxPage) : Nat := match x.cls g.cls with | some c => c.pageBytes | none => 0

/-- Frames of a class in use, slots of a park region in use. -/
def CxPart.framesUsed (x : CxPart) (c : Nat) : List Nat := (x.pages.filter fun g => g.2.region == 0 && g.2.cls == c).map (·.2.location)
def CxPart.slotsUsed (x : CxPart) (r : Nat) : List Nat := (x.pages.filter fun g => g.2.region == r).map (·.2.location)
/-- Free frames of a class (R209): of one that is not valid, every frame. -/
def CxPart.framesFree (x : CxPart) (c : Nat) : Nat := match x.classes[c]? with | some k => k.frames - (x.framesUsed c).length | none => 0
def CxPart.idsFree (x : CxPart) : Nat := x.pageCount - x.pages.length

/-- Pages with no holder and no node bit are free, with their frame or slot. -/
def CxPart.sweep (x : CxPart) : CxPart := { x with pages := x.pages.filter fun g => g.2.node || x.holders g.1 != (0, 0) }

/-- An operation at work: the tables, copies of pages (from, to, bytes), frames whose contents are unspecified, free values used. -/
structure CxWork where
  x : CxPart
  now : Nat
  copies : List (Nat × Nat × Nat)
  fresh : List (Nat × Nat)
  idx : Nat
  coll : Nat

def CxWork.stamp (w : CxWork) : Nat := w.now / 2 ^ 20 % 2 ^ 32
def CxWork.pick (w : CxWork) (n : Nat) : Nat := Config.pick w.idx % n
def CxWork.setPage (w : CxWork) (id : Nat) (g : CxPage) : CxWork := { w with x := { w.x with pages := tabPut w.x.pages id g } }
def CxWork.setLive (w : CxWork) (id : Nat) (r : Ctx) : CxWork := { w with x := { w.x with live := tabPut w.x.live id r } }

/-- A new page of a class: a free ID and a free frame, which ones is the device's choice. -/
def CxWork.newPage (w : CxWork) (c : Nat) (written : BitVec 16) (blank : Bool) : Nat × CxWork :=
  let x := w.x
  let ids := x.pages.map fun g => g.1 - x.pageFirst
  let id := x.pageFirst + (freeSlot ids (w.pick x.pageCount) x.pageCount).getD 0
  let n := match x.cls c with | some k => k.frames | none => 0
  let fr := (freeSlot (x.framesUsed c) (Config.pick (w.idx + 1) % n) n).getD 0
  let g : CxPage := { cls := c, written := written, node := false, region := 0, location := fr, stamp := w.stamp }
  let w := ({ w with idx := w.idx + 2 }).setPage id g
  (id, if blank then { w with fresh := w.fresh ++ [(x.addrOf g, x.sizeOf g)] } else w)

/-- A page moves into a frame of its class. -/
def CxWork.promote (w : CxWork) (id : Nat) : CxWork :=
  let g := w.x.page id
  if g.region = 0 then w.setPage id { g with stamp := w.stamp }
  else
    let n := match w.x.cls g.cls with | some k => k.frames | none => 0
    let fr := (freeSlot (w.x.framesUsed g.cls) (w.pick n) n).getD 0
    let h := { g with region := 0, location := fr, stamp := w.stamp }
    ({ w with idx := w.idx + 1, copies := w.copies ++ [(w.x.addrOf g, w.x.addrOf h, w.x.sizeOf g)] }).setPage id h

/-- A page moves into a park region, none when the region is full. -/
def CxWork.demote (w : CxWork) (id r : Nat) : Option CxWork :=
  let g := w.x.page id
  let n := (w.x.regions.getD (r - 1) (0, 0)).2
  (freeSlot (w.x.slotsUsed r) (w.pick n) n).map fun k =>
    let h := { g with region := r, location := k }
    ({ w with idx := w.idx + 1, copies := w.copies ++ [(w.x.addrOf g, w.x.addrOf h, w.x.sizeOf g)] }).setPage id h

/-! ### Page lists (R205) -/

/-- Blocks of the list pool in use. -/
def CxPart.blocksUsed (x : CxPart) : List Nat :=
  (x.live ++ x.parked).flatMap fun r => (List.range (ceilDiv r.2.pages.length 8)).map (r.2.dirAt + ·) ++ r.2.lists.flatten

/-- `n` consecutive free blocks, from a free start on. -/
def freeRun (used : List Nat) (start n total : Nat) : Option Nat :=
  ((start :: List.range total)).find? fun k => decide (k + n ≤ total) && (List.range n).all fun i => !used.contains (k + i)

/-- The list blocks that a context's pages need; none when the pool has too few. A new context has no directory yet. -/
def fitLists (x : CxPart) (idx : Nat) (fresh : Bool) (r : Ctx) : Option (Ctx × Nat) :=
  let used := x.blocksUsed
  let dir := if fresh then freeRun used (Config.pick idx % max 1 x.listBlocks) (ceilDiv r.pages.length 8) x.listBlocks else some r.dirAt
  match dir with
  | none => none
  | some d =>
    let used := used ++ (List.range (ceilDiv r.pages.length 8)).map (d + ·)
    let step (a : Option (List Nat × List (List Nat) × Nat)) (y : List Nat × Nat) : Option (List Nat × List (List Nat) × Nat) :=
      a.bind fun (u, out, i) =>
        let have' := r.lists.getD y.2 []
        let need := ceilDiv y.1.length 1024
        let more := (List.range (need - have'.length)).foldl (fun (z : Option (List Nat × List Nat × Nat)) _ => z.bind fun (u, l, i) =>
          (freeSlot u (Config.pick i % max 1 x.listBlocks) x.listBlocks).map fun k => (k :: u, l ++ [k], i + 1)) (some (u, have'.take need, i))
        more.map fun (u, l, i) => (u, out ++ [l], i)
    (r.pages.zipIdx.foldl step (some (used, [], idx + 1))).map fun (_, ls, i) => ({ r with dirAt := d, lists := ls }, i)

/-! ### Hashes and trees (R211 to R214) -/

def firstWord (l : List Byte) : Nat := leAt l 0 8

/-- The root hash of a class and tenant slot. -/
def rootHash (c : CxClass) (n tenant : Nat) : Nat := firstWord (sha3 (c.salt ++ leBytes 1 n ++ leBytes 1 tenant))

def blockHash (parent : Nat) (keys : List Nat) : Nat := firstWord (sha3 (leBytes 8 parent ++ keys.flatMap (leBytes 4)))

/-- The keys of block j. -/
def keysOf (keys : List Nat) (j : Nat) : List Nat := (keys.drop (16 * j)).take 16

/-- The hash of the last of `n` full blocks. -/
def chainHash (root : Nat) (keys : List Nat) (n : Nat) : Nat := (List.range n).foldl (fun h j => blockHash h (keysOf keys j)) root

/-- The node whose pages are a block's pages. -/
def CxPart.nodeOf (x : CxPart) (r : Ctx) (j : Nat) : Option Nat :=
  let ids := r.pages.map fun l => l.getD j 0xFFFFFFFF
  (x.nodes.find? fun n => n.2.cls == r.cls && n.2.tenant == r.tenant && n.2.pages == ids).map (·.1)

/-- A lookup of R212. -/
def CxPart.lookup (x : CxPart) (cls tenant hash : Nat) (parent : Option Nat) (keys : List Nat) : Option (Nat × CxNode) :=
  x.nodes.find? fun n => n.2.hash == hash && n.2.parent == parent && n.2.keys == keys && n.2.cls == cls && n.2.tenant == tenant

/-- Parent hash, parent node and pending keys of a context as its last full block says. -/
def settleCtx (x : CxPart) (r : Ctx) : Ctx :=
  let n := r.tokens / 16
  { r with parentHash := chainHash (rootHash (x.clsOf r) r.cls r.tenant) r.pending n
           parentNode := if n = 0 then none else x.nodeOf r (n - 1) }

/-- A leaf that no context holds, the oldest stamp first. -/
def CxPart.victim (x : CxPart) (ok : CxNode → Bool) : Option Nat :=
  ((x.nodes.filter fun (n : Nat × CxNode) => ok n.2 && !(x.nodes.any fun (m : Nat × CxNode) => m.2.parent == some n.1)
    && n.2.pages.all fun (id : Nat) => x.holders id == (0, 0)).foldl
    (fun (b : Option (Nat × CxNode)) n => match b with | none => some n | some m => if n.2.stamp < m.2.stamp then some n else b) none).map (·.1)

/-- A node leaves the tree, and its pages lose their node bit. -/
def CxPart.evictNode (x : CxPart) (n : Nat) : CxPart :=
  match tabFind x.nodes n with
  | some v => ({ x with nodes := tabDel x.nodes n
                        pages := x.pages.map fun (g : Nat × CxPage) => if v.pages.contains g.1 then (g.1, { g.2 with node := false }) else g }).sweep
  | none => x

/-- Where a node lies in the node store: 2 KiB a node (log entry 68). -/
def CxPart.nodeAddr (x : CxPart) (n : Nat) : Nat := x.nodeStore + 2048 * n

/-- The bytes of a node: its keys, hash and parent, and one page ID per layer. -/
def CxNode.bytes (v : CxNode) : Nat := 80 + 4 * v.pages.length

/-- Every layer's page of block j has all its slots written. -/
def CxPart.complete (x : CxPart) (r : Ctx) (j : Nat) : Bool :=
  decide (16 * (j + 1) ≤ r.tokens) && r.pages.all fun l => match l[j]? with | some id => (x.page id).written == 0xFFFF | none => false

/-- Block j of a live context seals (R213). Where the node's pages need more frames than are free, the block stays private as well
(log entry 73). -/
def sealBlock (id j : Nat) (w : CxWork) : CxWork :=
  match tabFind w.x.live id with
  | none => w
  | some r =>
    let x := w.x
    let k := x.clsOf r
    let parent := if j = 0 then none else x.nodeOf r (j - 1)
    if !x.complete r j || (x.nodeOf r j).isSome || !k.share || !(r.chained || j == 0) || (j != 0 && parent.isNone) then w
    else
      let keys := keysOf r.pending j
      let h := blockHash (chainHash (rootHash k r.cls r.tenant) r.pending j) keys
      let ids := r.pages.map fun l => l.getD j 0
      let insert (w : CxWork) : CxWork :=
        let x := w.x
        let n := (freeSlot (x.nodes.map (·.1)) (w.pick x.nodeCount) x.nodeCount).getD 0
        let v : CxNode := { cls := r.cls, tenant := r.tenant, keys := keys, hash := h, parent := parent, pages := ids, stamp := w.now }
        { w with idx := w.idx + 1
                 x := { x with nodes := tabPut x.nodes n v
                               pages := x.pages.map fun g => if ids.contains g.1 then (g.1, { g.2 with node := true }) else g } }
      let unchain (w : CxWork) : CxWork := w.setLive id { r with chained := false }
      match x.nodes.find? fun n => n.2.hash == h with
      | some (n, v) =>
        if v.parent == parent && v.keys == keys && v.cls == r.cls && v.tenant == r.tenant then
          let r := { r with pages := r.pages.zipIdx.map fun l => listPut 0 l.1 j (v.pages.getD l.2 0) }
          let y := ({ x with live := tabPut x.live id r, nodes := tabPut x.nodes n { v with stamp := w.now } }).sweep
          if y.framesFree v.cls < (v.pages.filter fun g => (y.page g).region != 0).length then unchain w
          else v.pages.foldl (fun w g => w.promote g) { w with x := y }
        else { unchain w with coll := w.coll + 1 }
      | none =>
        if x.nodes.length < x.nodeCount then insert w
        else match x.victim (fun _ => true) with
          | some n => insert { w with x := x.evictNode n }
          | none => unchain w

/-- Blocks that seal after a write: those it has completed, and those that were complete and whose predecessor has become a node. -/
def sealBlocks (id : Nat) (old : CxPart) (w : CxWork) : CxWork :=
  match tabFind old.live id with
  | none => w
  | some r =>
    (List.range (r.tokens / 16)).foldl (fun w j =>
      let follows := match tabFind w.x.live id with
        | some q => j != 0 && (w.x.nodeOf q (j - 1)).isSome && (old.nodeOf r (j - 1)).isNone
        | none => false
      if !old.complete r j || follows then sealBlock id j w else w) w

/-! ### Operations (Table 7.5) -/

/-- How an operation ends: done with its ID and token results and bytes to store; a status; frames of a class that it lacks. -/
inductive CxRes
  | done (w : CxWork) (id tok : Nat) (out : List (Nat × List Byte))
  | fail (code : Nat)
  | short (cls n : Nat)

/-- What an operation works with: its partition, its job's tenant slot, its descriptor, the bytes of its operand area. -/
structure CxArgs where
  p : Nat
  tenant : Nat
  d : Desc
  area : List Byte
  areaAt : Nat
  liveFirst : Nat
  liveCount : Nat
  /-- live IDs that stalled reservations hold -/
  held : List Nat
  /-- page list of a parked context as the span holds it, and its list blocks -/
  listed : List (List Nat) × List (List Nat)

def CxArgs.ctx (a : CxArgs) : Nat := a.d.at 0x14 4 % 2 ^ 20
def CxArgs.arg (a : CxArgs) : Nat := a.d.at 0x18 4

/-- A live context that the job may name (R203, R210). -/
def CxArgs.live (a : CxArgs) (x : CxPart) : Except Nat Ctx :=
  match tabFind x.live a.ctx with
  | some r => if r.tenant != a.tenant || a.ctx < a.liveFirst || a.liveFirst + a.liveCount ≤ a.ctx then .error cxBadCtx
              else if r.fault then .error cxMemFault else .ok r
  | none => .error cxBadCtx

/-- The live ID that an operation takes: the one wanted, or the lowest free. One of another tenant slot may not be named (R203). -/
def CxArgs.target (a : CxArgs) (x : CxPart) (wanted : Option Nat) : Except Nat Nat :=
  let busy (n : Nat) : Bool := (tabFind x.live n).isSome || a.held.contains n
  let foreign (n : Nat) : Bool := match tabFind x.live n with | some r => r.tenant != a.tenant | none => false
  match wanted with
  | some n =>
    if n < a.liveFirst ∨ a.liveFirst + a.liveCount ≤ n ∨ foreign n = true then .error cxBadCtx
    else if busy n then .error cxIdInUse else .ok n
  | none => match (List.range a.liveCount).find? fun i => !busy (a.liveFirst + i) with
    | some i => .ok (a.liveFirst + i)
    | none => .error cxNoRecord

/-- Promotes pages if their frames are all free at once; else the class that lacks frames, and how many are needed. -/
def promoteAll (ids : List Nat) (w : CxWork) : Except (Nat × Nat) CxWork :=
  let ids := (ids.filter fun g => (tabFind w.x.pages g).isSome).eraseDups
  let need (c : Nat) : Nat := (ids.filter fun g => (w.x.page g).region != 0 && (w.x.page g).cls == c).length
  match (List.range 8).find? fun c => decide (w.x.framesFree c < need c) with
  | some c => .error (c, need c)
  | none => .ok (ids.foldl (fun w g => w.promote g) w)

/-- The matched nodes of OPEN: the longest prefix of whole blocks. -/
def matchPrefix (x : CxPart) (cls tenant : Nat) (keys : List Nat) : Nat → Nat → Nat → Option Nat → List (Nat × CxNode)
  | 0, _, _, _ => []
  | fuel + 1, j, h, parent =>
    if keys.length < 16 * (j + 1) then []
    else
      let h := blockHash h (keysOf keys j)
      match x.lookup cls tenant h parent (keysOf keys j) with
      | some n => n :: matchPrefix x cls tenant keys fuel (j + 1) h (some n.1)
      | none => []

def opOpen (a : CxArgs) (w : CxWork) : CxRes :=
  let x := w.x
  let cls := a.arg % 8
  match x.cls cls with
  | none => .fail cxBadClass
  | some k =>
    match a.target x (if a.ctx = 0xFFFFF then none else some a.ctx) with
    | .error e => .fail e
    | .ok id =>
      let keys := (List.range (a.area.length / 4)).map fun i => leAt a.area (4 * i) 4
      let root := rootHash k cls a.tenant
      let ns := matchPrefix x cls a.tenant keys (keys.length / 16) 0 root none
      let pages := (List.range k.layers).map fun l => ns.map fun n => n.2.pages.getD l 0
      let r : Ctx := {
        cls := cls, tenant := a.tenant, causal := k.causal, windowEn := k.windowEn, padEn := k.padEn, chained := true
        tokens := 16 * ns.length, window := k.window, padStart := a.d.at 0x28 4, parentHash := root, parentNode := none
        pending := keys.take (16 * ns.length), pages := pages, dirAt := 0, lists := [], stamp := w.now, stalled := false, fault := false }
      match fitLists x w.idx true r with
      | none => .fail cxNoList
      | some (r, i) =>
        match promoteAll pages.flatten { w with idx := i } with
        | .error n => .short n.1 n.2
        | .ok w =>
          let w := { w with x := { w.x with nodes := w.x.nodes.map fun (n : Nat × CxNode) => if ns.any (fun (m : Nat × CxNode) => m.1 == n.1) then (n.1, { n.2 with stamp := w.now }) else n } }
          .done (w.setLive id (settleCtx w.x r)) id r.tokens []

/-- Copies of one page's written slots below `n`: K rows and V rows. -/
def slotCopies (src dst page row n : Nat) (written : BitVec 16) : List (Nat × Nat × Nat) :=
  (List.range n).flatMap fun i => if written.toNat.testBit i then [(src + i * row, dst + i * row, row), (src + page / 2 + i * row, dst + page / 2 + i * row, row)] else []

/-- APPEND, reserve (R215, R218, R230). -/
def opReserve (a : CxArgs) (w : CxWork) : CxRes :=
  match a.live w.x with
  | .error e => .fail e
  | .ok r =>
    let c := a.arg
    let k := w.x.clsOf r
    if c = 0 then .fail cxBadRange
    else if 2 ^ 20 < r.tokens + c then .fail cxLimit
    else
      let j := r.tokens / 16
      let part := r.tokens % 16
      let shared (l : List Nat) : Bool := part != 0 && (match l[j]? with
        | some id => let (u, v) := w.x.holders id; decide (1 < u + v) || (w.x.page id).node
        | none => false)
      let new := ceilDiv (r.tokens + c) 16 - ceilDiv r.tokens 16
      let need := new * k.layers + (r.pages.filter shared).length
      if w.x.idsFree < need then .fail cxNoPageId
      else match fitLists w.x w.idx false { r with pages := r.pages.map fun l => l ++ List.replicate new 0 } with
      | none => .fail cxNoList
      | some (fit, i) =>
        if w.x.framesFree r.cls < need then .short r.cls need
        else
          let (w, pages) := r.pages.foldl (fun (y : CxWork × List (List Nat)) l =>
            let (w, out) := y
            let (w, l) := if shared l then
                let old := w.x.page (l.getD j 0)
                let keep : BitVec 16 := BitVec.ofNat 16 (old.written.toNat % 2 ^ part)
                let (id, w) := w.newPage r.cls keep true
                let cp := slotCopies (w.x.addrOf old) (w.x.addrOf (w.x.page id)) k.pageBytes k.rowBytes part keep
                ({ w with copies := w.copies ++ cp }, listPut 0 l j id)
              else (w, l)
            let (w, l) := (List.range new).foldl (fun (z : CxWork × List Nat) _ => let (id, v) := z.1.newPage r.cls 0 true; (v, z.2 ++ [id])) (w, l)
            (w, out ++ [l])) ({ w with idx := i }, [])
          let keys := (List.range c).map fun i => leAt a.area (4 * i) 4
          let r := { fit with pages := pages, tokens := r.tokens + c, pending := r.pending ++ keys, stamp := w.now, stalled := false }
          let w := w.setLive a.ctx r
          .done ({ w with x := w.x.sweep }.setLive a.ctx (settleCtx w.x r)) a.ctx r.tokens []

/-- APPEND, write (R213, R219). -/
def opWrite (a : CxArgs) (w : CxWork) : CxRes :=
  match a.live w.x with
  | .error e => .fail e
  | .ok r =>
    let k := w.x.clsOf r
    let l := a.d.at 0x12 2
    let c := a.arg
    let f := a.d.at 0x28 4
    let pg (pos : Nat) : Nat := (r.pages.getD l []).getD (pos / 16) 0
    let may (pos : Nat) : Bool := w.x.pageState (pg pos) == 1 || (w.x.pageState (pg pos) == 2 && !(w.x.page (pg pos)).written.toNat.testBit (pos % 16))
    let pos := (List.range c).map (f + ·)
    if c = 0 ∨ r.tokens < f + c ∨ k.layers ≤ l then .fail cxBadRange
    else if !pos.all may then .fail cxBadRange
    else
      let row := k.rowBytes
      let old := w.x
      let cp := pos.zipIdx.flatMap fun y =>
        let at0 := w.x.addrOf (w.x.page (pg y.1)) + y.1 % 16 * row
        [(a.areaAt + y.2 * row, at0, row), (a.areaAt + (c + y.2) * row, at0 + k.pageBytes / 2, row)]
      let w := pos.foldl (fun (w : CxWork) q => let g := w.x.page (pg q)
                                                w.setPage (pg q) { g with written := g.written ||| (1 <<< (q % 16)), stamp := w.stamp })
        { w with copies := w.copies ++ cp }
      let w := sealBlocks a.ctx old (w.setLive a.ctx { r with stamp := w.now })
      let w := match tabFind w.x.live a.ctx with | some r => w.setLive a.ctx (settleCtx w.x r) | none => w
      .done w a.ctx r.tokens []

def opFork (a : CxArgs) (w : CxWork) : CxRes :=
  match a.live w.x with
  | .error e => .fail e
  | .ok r =>
    match a.target w.x (if a.arg = 0xFFFFFFFF then none else some a.arg) with
    | .error e => .fail e
    | .ok id =>
      match fitLists w.x w.idx true { r with lists := [] } with
      | none => .fail cxNoList
      | some (t, i) => .done ({ w with idx := i }.setLive id { t with stamp := w.now, stalled := false }) id r.tokens []

def opTrim (a : CxArgs) (w : CxWork) : CxRes :=
  match a.live w.x with
  | .error e => .fail e
  | .ok r =>
    if r.tokens < a.arg then .fail cxBadRange
    else
      let t := r.tokens - a.arg
      let n := ceilDiv t 16
      let r := { r with tokens := t, pages := r.pages.map (·.take n), lists := r.lists.map (·.take (ceilDiv n 1024)), pending := r.pending.take t
                        stamp := w.now }
      let w := w.setLive a.ctx r
      let w := { w with x := w.x.sweep }
      let w := if t % 16 = 0 then w else r.pages.foldl (fun (w : CxWork) l => match l[t / 16]? with
        | some id => if w.x.pageState id = 1 then
            let g := w.x.page id
            w.setPage id { g with written := BitVec.ofNat 16 (g.written.toNat % 2 ^ (t % 16)) } else w
        | none => w) w
      .done (w.setLive a.ctx (settleCtx w.x r)) a.ctx t []

/-- A context record (Table 7.2). -/
def recordBytes (x : CxPart) (r : Ctx) (state : Nat) (parked : Nat) : List Byte :=
  let pend := r.pending.drop (16 * (r.tokens / 16))
  leBytes 1 state ++ leBytes 1 r.cls ++ leBytes 1 r.tenant
  ++ leBytes 1 (boolNat r.causal + 2 * boolNat r.windowEn + 4 * boolNat r.padEn + 8 * boolNat r.chained) ++ leBytes 4 r.tokens
  ++ leBytes 8 (x.listPool + 4096 * r.dirAt) ++ leBytes 4 r.window ++ leBytes 4 r.padStart ++ leBytes 8 r.parentHash
  ++ leBytes 4 (r.parentNode.getD 0xFFFFFFFF) ++ leBytes 4 parked ++ leBytes 8 r.stamp
  ++ (List.range 16).flatMap (fun (i : Nat) => leBytes 4 (pend.getD i 0)) ++ leBytes 4 (r.pages.map (·.length)).sum ++ List.replicate 12 (0 : Byte)

/-- PARK. -/
def opPark (a : CxArgs) (w : CxWork) : CxRes :=
  match a.live w.x with
  | .error e => .fail e
  | .ok r =>
    let reg := max 1 (a.arg % 4)
    let x := w.x
    match freeSlot (x.parked.map fun q => q.1 - x.parkFirst) (w.pick x.parkCount) x.parkCount with
    | none => .fail cxNoParkId
    | some n =>
      let id := x.parkFirst + n
      let mine := (r.pages.flatten.filter fun (g : Nat) => x.holders g == (1, 0) && !(x.page g).node).eraseDups
      if (x.regions.getD (reg - 1) (0, 0)).2 - (x.slotsUsed reg).length < mine.length then .fail cxParkFull
      else
        let r := { r with stamp := w.now, stalled := false }
        let w := mine.foldl (fun (w : CxWork) g => (w.demote g reg).getD w) { w with idx := w.idx + 1 }
        let w := { w with x := { w.x with live := tabDel w.x.live a.ctx, parked := tabPut w.x.parked id r } }
        .done w id r.tokens [(x.parkDir + 128 * n, recordBytes w.x r 3 id)]

/-- UNPARK: the record is checked as it stands in the directory, and taken as written (R204). -/
def opUnpark (a : CxArgs) (w : CxWork) : CxRes :=
  let x := w.x
  let id := a.ctx
  let b := leAt a.area
  match tabFind x.parked id with
  | none => .fail cxBadCtx
  | some r =>
    if r.tenant ≠ a.tenant ∨ b 0 1 ≠ 3 ∨ b 0x24 4 ≠ id ∨ b 2 1 ≠ a.tenant ∨ (x.cls (b 1 1)).isNone = true ∨ 2 ^ 20 < b 4 4 then .fail cxBadCtx
    else if r.fault then .fail cxMemFault
    else match a.target x (if a.arg = 0xFFFFFFFF then none else some a.arg) with
    | .error e => .fail e
    | .ok t =>
      let tok := b 4 4
      let fl := b 3 1
      let known (g : Nat) : Bool := (tabFind x.pages g).isSome
      let r := { r with
        pages := a.listed.1, lists := a.listed.2, dirAt := (b 8 8 - x.listPool) / 4096
        -- a list that names what is no page of the partition: later operations fail
        fault := a.listed.1.any fun l => l.any fun g => !known g
        cls := b 1 1, causal := bitAt fl 0, windowEn := bitAt fl 1, padEn := bitAt fl 2, chained := bitAt fl 3, tokens := tok, window := b 0x10 4
        padStart := b 0x14 4, parentHash := b 0x18 8, parentNode := if b 0x20 4 = 0xFFFFFFFF then none else some (b 0x20 4)
        pending := r.pending.take (16 * (tok / 16)) ++ (List.range (tok % 16)).map fun i => b (0x30 + 4 * i) 4
        stamp := w.now, stalled := false }
      match promoteAll r.pages.flatten w with
      | .error n => .short n.1 n.2
      | .ok w =>
        let w := { w with x := ({ w.x with parked := tabDel w.x.parked id, live := tabPut w.x.live t r }).sweep }
        .done w t tok [(x.parkDir + 128 * (id - x.parkFirst), leBytes 1 0)]

def opClose (a : CxArgs) (w : CxWork) : CxRes :=
  let x := w.x
  let parked := bitAt a.arg 0
  match tabFind (if parked then x.parked else x.live) a.ctx with
  | none => .fail cxBadCtx
  | some r =>
    if r.tenant != a.tenant || (!parked && (a.ctx < a.liveFirst || a.liveFirst + a.liveCount ≤ a.ctx)) then .fail cxBadCtx
    else
      let y := if parked then { x with parked := tabDel x.parked a.ctx } else { x with live := tabDel x.live a.ctx }
      let out := if parked then [(x.parkDir + 128 * (a.ctx - x.parkFirst), leBytes 1 0)] else []
      .done { w with x := y.sweep } (Config.value w.idx % 2 ^ 20) 0 out

/-! ### Plans (R221, R222) -/

/-- The kind of a block: 0 skipped, 1 visible, 2 diagonal. -/
def blockKind (r : Ctx) (qa qb t0 t1 : Nat) : Nat :=
  let w : Int := r.window
  if (r.causal && decide (qb < t0)) || (r.windowEn && decide ((t1 : Int) ≤ qa - w)) || (r.padEn && decide (t1 < r.padStart)) then 0
  else if (r.causal && decide (qa ≤ t1)) || (r.windowEn && decide ((t0 : Int) ≤ qb - w)) || (r.padEn && decide (t0 < r.padStart)) then 2
  else 1

/-- One entry of a plan (Table 7.8). -/
def planEntry (x : CxPart) (r : Ctx) (l g qa rows : Nat) (kind t0 t1 : Nat) (final : Bool) : List Byte :=
  let k := x.clsOf r
  let ids := ((r.pages.getD l []).drop (t0 / 16)).take ((t1 - t0) / 16 + 1)
  if kind = 0 then leBytes 3 0 ++ leBytes 1 g ++ leBytes 8 0 ++ leBytes 4 qa ++ leBytes 4 rows ++ List.replicate 236 (0 : Byte)
  else
    leBytes 1 kind ++ leBytes 1 (boolNat final + 2 * boolNat r.causal + 4 * boolNat r.windowEn + 8 * boolNat r.padEn) ++ leBytes 1 ids.length
    ++ leBytes 1 g ++ leBytes 4 t0 ++ leBytes 2 (t1 - t0 + 1) ++ leBytes 1 k.pageCode ++ leBytes 1 0 ++ leBytes 4 qa ++ leBytes 4 rows
    ++ leBytes 4 r.window ++ leBytes 4 r.padStart ++ leBytes 2 l ++ leBytes 2 0 ++ leBytes 8 k.frameBase ++ List.replicate 24 (0 : Byte)
    ++ (List.range 32).flatMap (fun (i : Nat) => leBytes 4 (match ids[i]? with | some id => (x.page id).location | none => 0xFFFFFFFF))
    ++ List.replicate 64 (0 : Byte)

/-- PLAN: the blocks that the query range sees, then SKIPPED entries up to E. -/
def opPlan (a : CxArgs) (out : Nat) (inside : Nat → Bool) (w : CxWork) : CxRes :=
  match a.live w.x with
  | .error e => .fail e
  | .ok r =>
    let l := a.d.at 0x12 2
    let g := max 1 (a.arg % 128)
    let qa := a.d.at 0x28 4
    let n := a.d.at 0x2C 4
    let qb := qa + n - 1
    let k := w.x.clsOf r
    if n = 0 ∨ r.tokens ≤ qb ∨ 65536 < n * g ∨ k.layers ≤ l then .fail cxBadRange
    else
      let blocks := (List.range (ceilDiv r.tokens 512)).map fun b => (512 * b, min (512 * b + 511) (r.tokens - 1))
      let shown := (blocks.map fun b => (blockKind r qa qb b.1 b.2, b)).filter fun b => b.1 != 0
      let e := if a.arg / 65536 = 0 then blocks.length else a.arg / 65536
      if !inside (256 * e) then .fail cxBadRange
      else if e < shown.length then .fail cxPlanShort
      else
        let entry (i : Nat) : List Byte := match shown[i]? with
          | some b => planEntry w.x r l g qa (n * g) b.1 b.2.1 b.2.2 (i + 1 == shown.length)
          | none => planEntry w.x r l g qa (n * g) 0 0 0 false
        let used := shown.flatMap fun b => ((r.pages.getD l []).drop (b.2.1 / 16)).take ((b.2.2 - b.2.1) / 16 + 1)
        let w := used.foldl (fun (w : CxWork) id => w.setPage id { w.x.page id with stamp := w.stamp }) w
        .done (w.setLive a.ctx { r with stamp := w.now }) shown.length r.tokens ((List.range e).map fun i => (out + 256 * i, entry i))

/-! ### What the CXE writes to the span (R204, R205, R207) -/

/-- A page descriptor (Table 7.4). -/
def CxPart.descBytes (x : CxPart) (id : Nat) : List Byte :=
  match tabFind x.pages id with
  | some g =>
    let (u, v) := x.holders id
    leBytes 1 (x.pageState id + 8 * boolNat g.node + 16 * g.cls) ++ leBytes 1 0 ++ leBytes 2 g.written.toNat ++ leBytes 4 (u + v)
    ++ leBytes 4 (g.location % 2 ^ 26 + g.region * 2 ^ 28) ++ leBytes 4 g.stamp
  | none => List.replicate 16 0

def syncDescs (p : Nat) (old new : CxPart) (s : State) : State :=
  ((old.pages.map (·.1) ++ new.pages.map (·.1)).eraseDups).foldl (fun t id =>
    if old.descBytes id = new.descBytes id then t else writeNow p (new.pageTable + 16 * (id - new.pageFirst)) (new.descBytes id) t) s

/-- A context's directory and list blocks. -/
def CxPart.listImage (x : CxPart) (r : Ctx) : List (Nat × List Byte) :=
  let addr (b : Nat) : Nat := x.listPool + 4096 * b
  (addr r.dirAt, padTo (4096 * ceilDiv r.pages.length 8) ((r.pages.zipIdx).flatMap fun y => (List.range 64).flatMap fun i =>
    leBytes 8 (match (r.lists.getD y.2 [])[i]? with | some b => addr b | none => 0)))
  :: r.pages.zipIdx.flatMap fun y => (r.lists.getD y.2 []).zipIdx.map fun b =>
    (addr b.1, (List.range 1024).flatMap fun i => leBytes 4 (match y.1[1024 * b.2 + i]? with | some id => id % 2 ^ 26 | none => 0xFFFFFFFF))

def syncLists (p : Nat) (old new : CxPart) (s : State) : State :=
  let changed (o n : Tab Ctx) : List Ctx := (n.filter fun r => match tabFind o r.1 with
    | some q => q.pages != r.2.pages || q.lists != r.2.lists || q.dirAt != r.2.dirAt
    | none => true).map (·.2)
  (changed old.live new.live ++ changed old.parked new.parked).foldl (fun t r =>
    (new.listImage r).foldl (fun u b => if u.bytes b.1 b.2.length = b.2 then u else writeNow p b.1 b.2 u) t) s

/-- What an operation reads of a context's directory and list blocks. -/
def CxPart.listReads (x : CxPart) (r : Ctx) : List (Nat × Nat) :=
  if r.pages.all (·.isEmpty) then []
  else (x.listPool + 4096 * r.dirAt, 512 * r.pages.length)
    :: r.pages.zipIdx.flatMap fun y => (r.lists.getD y.2 []).zipIdx.map fun b => (x.listPool + 4096 * b.1, 4 * min 1024 (y.1.length - 1024 * b.2))

/-- A page list as the span holds it: directory address, layers, pages a layer; whether some byte of it reads uncorrectable. -/
def readLists (p : Nat) (x : CxPart) (dir layers n : Nat) (s : State) : State × (List (List Nat) × List (List Nat)) × Bool :=
  (List.range layers).foldl (fun y l =>
    let (s, out, bad) := y
    let (s, es, bad1) := if n = 0 then (s, [], false) else readNow p (dir + 512 * l) (8 * ceilDiv n 1024) s
    let (s, ids, blocks, bad2) := (List.range (ceilDiv n 1024)).foldl (fun (z : State × List Nat × List Nat × Bool) i =>
      let (s, ids, blocks, b) := z
      let a := leAt es (8 * i) 8
      let m := min 1024 (n - 1024 * i)
      let (s, bs, b1) := if a = 0 then (s, List.replicate (4 * m) 0xFF, false) else readNow p a (4 * m) s
      (s, ids ++ (List.range m).map (fun k => leAt bs (4 * k) 4), blocks ++ [(a - x.listPool) / 4096], b || b1)) (s, [], [], false)
    (s, (out.1 ++ [ids], out.2 ++ [blocks]), bad || bad1 || bad2)) (s, ([], []), false)

/-- New nodes are written to the node store, in a form of the device's own: the bytes are free. -/
def syncNodes (p : Nat) (old new : CxPart) (s : State) : State :=
  (new.nodes.filter fun n => match tabFind old.nodes n.1 with | some v => v.hash != n.2.hash || v.pages != n.2.pages | none => true).foldl
    (fun t n =>
      let i := t.clock.freeIdx
      writeNow p (new.nodeAddr n.1) ((List.range n.2.bytes).map fun b => BitVec.ofNat 8 (Config.value (i + b)))
        { t with clock := { t.clock with freeIdx := i + n.2.bytes } }) s

/-- Nodes that an operation has read: they were there, and it has left its stamp. -/
def CxPart.nodeReads (old new : CxPart) : List (Nat × Nat) :=
  (old.nodes.filter fun n => match tabFind new.nodes n.1 with | some v => v.stamp != n.2.stamp | none => false).map fun n => (old.nodeAddr n.1, n.2.bytes)

/-- Bytes and poison move from one place to another. -/
def copySpan (src dst n : Nat) (s : State) : State :=
  let t := s.writeBytes dst (s.bytes src n)
  if s.poisoned src n then
    (wordsOf src n).foldl (fun u w => if s.poison.contains w then u.poisonRange (dst + (32 * w - src)) 32 else u) t
  else t

/-- Copies and unspecified contents take effect, then the tables. -/
def CxWork.apply (w : CxWork) (p : Nat) (s : State) : State :=
  let old := s.cxp p
  let s := { s with clock := { s.clock with freeIdx := w.idx } }
  let s := w.fresh.foldl (fun t f => freeStore f.1 f.2 t) s
  let s := w.copies.foldl (fun t c => copySpan c.1 c.2.1 c.2.2 t) s
  let s := if w.coll = 0 then s else s.bump (F.cxeHashCollColl p) w.coll
  syncNodes p old w.x (syncLists p old w.x (syncDescs p old w.x (s.setCxp p w.x)))

/-! ### Starvation (R230, R231) -/

/-- Demotions of Table 7.11, step 2, until `need` frames of a class are free; only where park T1 and park T2 are both full does the oldest
leaf without a holder, of whatever class, leave its tree. -/
def demoteFor (c need : Nat) (t2 : Bool) : Nat → CxWork → CxWork
  | 0, w => w
  | fuel + 1, w =>
    if need ≤ w.x.framesFree c then w
    else
      let cand := w.x.pages.filter fun g => g.2.region == 0 && g.2.cls == c && (w.x.holders g.1).1 == 0
      match cand.foldl (fun (b : Option (Nat × CxPage)) g => match b with | none => some g | some h => if g.2.stamp < h.2.stamp then some g else b) none with
      | none => w
      | some (id, _) =>
        match (match w.demote id 1 with | some v => some v | none => if t2 then w.demote id 2 else none) with
        | some v => demoteFor c need t2 fuel v
        | none =>
          let full (r : Nat) : Bool := decide ((w.x.regions.getD (r - 1) (0, 0)).2 ≤ (w.x.slotsUsed r).length)
          match (if full 1 && full 2 then w.x.victim fun _ => true else none) with
          | some n => demoteFor c need t2 fuel { w with x := w.x.evictNode n }
          | none => w

/-- Frames are made free for a shortfall; the demotions stay in force. -/
def starve (p c need : Nat) (s : State) : State :=
  let x := s.cxp p
  let w : CxWork := { x := x, now := s.clock.fclk, copies := [], fresh := [], idx := s.clock.freeIdx, coll := 0 }
  (demoteFor c need (s.on (F.cxeStarveCtrlT2En p)) (x.pages.length + x.nodes.length + 1) w).apply p s

/-! ### Running an operation (R216, R217) -/

/-- Contexts that an operation names: live IDs, and parked ones beyond 2^32. -/
def namedIds (d : Desc) : List Nat :=
  let ctx := d.at 0x14 4 % 2 ^ 20
  let arg := d.at 0x18 4
  match d.at 0x10 1 with
  | 1 => if ctx = 0xFFFFF then [] else [ctx]
  | 3 => ctx :: (if arg = 0xFFFFFFFF then [] else [arg])
  | 6 => (2 ^ 32 + ctx) :: (if arg = 0xFFFFFFFF then [] else [arg])
  | 7 => [if bitAt arg 0 then 2 ^ 32 + ctx else ctx]
  | _ => [ctx]

/-- Contexts that stalled reservations of a partition hold back. -/
def State.heldBack (s : State) (p : Nat) : List Nat := (s.stalled.filter fun y => y.part == p).flatMap (·.ids)

/-- The first operation of a core's CXE queue that no stalled reservation holds back, with its place in the queue: one held back keeps
only those behind it that name one of its contexts. -/
def firstFree (held : List Nat) : Nat → List QItem → Option (Nat × QItem)
  | _, [] => none
  | n, q :: rest =>
    let ids := namedIds q.d
    if ids.any held.contains && !q.skipped then firstFree (held ++ ids) (n + 1) rest else some (n, q)

/-- The operation that the CXE starts next for a core. -/
def State.cxeNext (s : State) (c op : Nat) : Option (Nat × Job × Nat × QItem) :=
  if !s.live || s.coreFenced c then none
  else match s.jobAt c with
    | some (k, j) =>
      match firstFree (s.heldBack j.part) 0 (s.sq c).cxe with
      | some (n, q) => if q.d.at 0x10 1 == op && !q.skipped && !j.stopped && s.waitMet j q.d q.upd then some (k, j, n, q) else none
      | none => none
    | none => none

/-- The status word, the job's fate, the signal (R159, R216). -/
def cxFinish (k c status id tok : Nat) (q : QItem) (s : State) : State :=
  match s.job k with
  | none => s
  | some j =>
    let word := leBytes 4 (status + id % 2 ^ 20 * 256) ++ leBytes 4 tok
    let at0 := (j.addrOf q 0x24).bind fun a => if s.inSlice j a 8 then some a else none
    let s := match at0 with | some a => writeNow j.part a word s | none => s
    let s := match at0 with
      | none => failJob k 0x13 q.d.layer q.d.tag q.microNo cxBadRange s
      | some _ => if status ≠ 0 ∧ q.d.stopOnStatus then failJob k 0x13 q.d.layer q.d.tag q.microNo status s else s
    releaseStash k (settle c .cxe (signalDesc j q.d s))

/-- A failed operation: what its results hold is not stated. -/
def cxFail (k c status : Nat) (q : QItem) (s : State) : State :=
  let i := s.clock.freeIdx
  cxFinish k c status (Config.value i) (Config.value (i + 1) % 2 ^ 32) q { s with clock := { s.clock with freeIdx := i + 2 } }

/-- The operand area that an operation reads: key array, staging area, record. None where it has no address. -/
def operandOf (x : CxPart) (j : Job) (q : QItem) (op : Nat) : Option (Nat × Nat) :=
  let d := q.d
  let keys := j.addrOf q 0x1C
  match op with
  | 1 => let n := d.at 0x18 4 / 256 % 2 ^ 21; if n = 0 then some (0, 0) else keys.map fun a => (a, 4 * n)
  | 2 =>
    if d.at 0x12 2 = 0xFFFF then keys.map fun a => (a, 4 * d.at 0x18 4)
    else match tabFind x.live (d.at 0x14 4 % 2 ^ 20) with
      | some r => keys.map fun a => (a, 2 * d.at 0x18 4 * (x.clsOf r).rowBytes)
      | none => some (0, 0)
  | _ => some (0, 0)

/-- What UNPARK reads of the lists that its record names; any other operation reads none here. -/
def cxListed (p : Nat) (x : CxPart) (park : Bool) (record : List Byte) (s : State) : State × (List (List Nat) × List (List Nat)) × Bool :=
  let layers := ((x.cls (leAt record 1 1)).map (·.layers)).getD 0
  if park then readLists p x (leAt record 8 8) layers (min 65536 (leAt record 0x70 4 / max 1 layers)) s else (s, ([], []), false)

/-- Page lists and nodes in the span that an operation reads on its way from `x` to `y` (Table 7.6, MEM_FAULT). -/
def CxPart.cxTables (x y : CxPart) (op ctx : Nat) : List (Nat × Nat) :=
  (match tabFind x.live ctx with | some r => if [2, 3, 4, 5, 8].contains op then x.listReads r else [] | none => []) ++ x.nodeReads y

/-- One operation run to its end, to a stall, or to a wait for data: the state, and whether the operation is over. One whose status word
lies outside the slot's span does nothing (R216). -/
def runCx (k c op : Nat) (j : Job) (q : QItem) (stalledBefore : Bool) (s : State) : State × Bool :=
  let p := j.part
  let x := s.cxp p
  let fail (code : Nat) (t : State) : State × Bool := (cxFail k c code q t, true)
  if !x.valid then fail cxBadClass s
  else if !(match j.addrOf q 0x24 with | some a => s.inSlice j a 8 | none => false) then fail cxBadRange s
  else
    let park := op == 6
    let area := if park then
        let id := q.d.at 0x14 4 % 2 ^ 20
        some (if id < x.parkFirst ∨ x.parkFirst + x.parkCount ≤ id then (0, 0) else (x.parkDir + 128 * (id - x.parkFirst), 128))
      else operandOf x j q op
    match area with
    | none => fail cxBadRange s
    | some (at0, n) =>
      if n ≠ 0 ∧ !park ∧ !s.inSlice j at0 n then fail cxBadRange s
      else match touch p { reads := if n = 0 then [] else [(at0, n)], writes := [] } s with
      | .wait t => (t, false)
      | .ok t bad =>
        let staging := op == 2 && q.d.at 0x12 2 != 0xFFFF
        let (t, listed, badList) := cxListed p x park (t.bytes at0 n) t
        if n ≠ 0 ∧ !staging ∧ t.bad bad at0 n then fail cxMemFault t
        else
          let a : CxArgs := {
            p := p, tenant := j.record.tenant, d := q.d, area := if staging then [] else t.bytes at0 n, areaAt := at0
            liveFirst := t.fld (F.cxePartIdsLiveFirst p), liveCount := t.fld (F.cxePartIdsLiveCount p)
            held := ((t.stalled.filter fun y => y.part == p && y.item.no != q.no).flatMap (·.ids)), listed := listed }
          let w : CxWork := { x := x, now := t.clock.fclk, copies := [], fresh := [], idx := t.clock.freeIdx, coll := 0 }
          let out := j.addrOf q 0x20
          let r := match op with
            | 1 => opOpen a w
            | 2 => if staging then opWrite a w else opReserve a w
            | 3 => opFork a w
            | 4 => opTrim a w
            | 5 => opPark a w
            | 6 => opUnpark a w
            | 7 => opClose a w
            | _ => opPlan a (out.getD 0) (fun m => match out with | some o => t.inSlice j o m | none => m == 0) w
          match r with
          | .fail code => fail code t
          | .short cls need =>
            let t := if stalledBefore then t
              else
                let t := t.bump (F.cxeStarveEventsEvents p)
                let y := t.cxp p
                let live := y.live.map fun l => if (namedIds q.d).contains l.1 then (l.1, { l.2 with stalled := true }) else l
                { t.setCxp p { y with live := live } with
                  stalled := t.stalled ++ [{ core := c, part := p, item := q, ids := namedIds q.d }] }
            (starve p cls need t, false)
          | .done w id tok outs =>
            let tables := x.cxTables w.x op a.ctx
            match touch p { reads := tables ++ w.copies.map fun y => (y.1, y.2.2), writes := w.copies.map fun y => (y.2.1, y.2.2) } t with
            | .wait u => (u, false)
            | .ok u bad2 =>
              if badList || (tables.any fun y => u.bad bad2 y.1 y.2) || (!staging && w.copies.any fun y => u.bad bad2 y.1 y.2.2) then
                fail cxMemFault u
              else
                let u := w.apply p u
                let u := outs.foldl (fun v o => writeNow p o.1 o.2 v) u
                (cxFinish k c 0 id tok q u, true)

/-- A CTXQ row: the operation that stands next, if it is this one. -/
def cxRow (c op : Nat) (form : Desc → Bool) (s : State) : State :=
  match s.cxeNext c op with
  | some (k, j, n, q) =>
    if !form q.d then s
    else
      -- the operation leaves its queue when it starts, and returns if it must wait for data
      let sq := s.sq c
      let out := s.setSq c { sq with cxe := sq.cxe.eraseIdx n }
      let (t, ended) := runCx k c op j q false out
      if ended || t.stalled.any (fun y => y.core == c && y.item.no == q.no) then settle c .cxe t
      else t.setSq c { t.sq c with cxe := sq.cxe }
  | none => s

/-- A stalled reservation that is over leaves the list, and its record is live again. -/
def unstallCx (y : Stalled) (s : State) : State :=
  let x := s.cxp y.part
  let live := x.live.map fun l => if y.ids.contains l.1 then (l.1, { l.2 with stalled := false }) else l
  { s.setCxp y.part { x with live := live } with stalled := s.stalled.filter fun z => z != y }

/-- STARVE_RETEST: stalled reservations are tested again, oldest first. -/
def starveRetest (p : Nat) (s : State) : State :=
  if !s.live then s
  else (s.stalled.filter fun y => y.part == p).foldl (fun t y =>
    match t.jobAt y.core with
    | some (k, j) =>
      let (u, ended) := runCx k y.core (y.item.d.at 0x10 1) j y.item true t
      if ended then unstallCx y u else u
    | none => t) s

/-- STARVE_TIMEOUT: the oldest stalled reservation of a core ends with NO_PAGE. -/
def starveTimeout (c : Nat) (s : State) : State :=
  match s.stalled.find? (fun y => y.core == c), s.jobAt c with
  | some y, some (k, _) => if !s.live then s else cxFail k c cxNoPage y.item ((unstallCx y s).bump (F.cxeStarveFailsFails y.part))
  | _, _ => s

/-! ### A reclaim of park slots (R210) -/

/-- Park T2 slots on a span page that a lender takes back move to park T3; where it is full their contents are lost, with a MEM_FAULT
record (Table 15.4; log entry 185). -/
def reclaimSlots (m : LendMsg) (s : State) : State :=
  let pgs := s.heldIn m.src m.handle m.arg
  (List.range 4).foldl (fun s p =>
    let x := s.cxp p
    let hit := x.pages.filter fun g => g.2.region == 2 && (pagesOf (x.addrOf g.2) (x.sizeOf g.2)).any pgs.contains
    hit.foldl (fun t g =>
      let y := t.cxp p
      let w : CxWork := { x := y, now := t.clock.fclk, copies := [], fresh := [], idx := t.clock.freeIdx, coll := 0 }
      match w.demote g.1 3 with
      | some w => w.apply p t
      | none =>
        let mark (l : Tab Ctx) : Tab Ctx := l.map fun r => if r.2.holds g.1 then (r.1, { r.2 with fault := true }) else r
        errRecord { bank := 5, unit := p, cause := 1, cls := 1, part := some p, address := y.addrOf g.2 }
          ((t.setCxp p { y with live := mark y.live, parked := mark y.parked }).poisonRange (y.addrOf g.2) (y.sizeOf g.2))) s) s

/-! ### The rows -/

def execCtxOpen (c : Fin 4) (s : State) : Res := go s (cxRow c 1 fun _ => true)
def execAppendReserve (c : Fin 4) (s : State) : Res := go s (cxRow c 2 fun d => d.at 0x12 2 == 0xFFFF)
def execAppendWrite (c : Fin 4) (s : State) : Res := go s (cxRow c 2 fun d => d.at 0x12 2 != 0xFFFF)
def execCtxFork (c : Fin 4) (s : State) : Res := go s (cxRow c 3 fun _ => true)
def execCtxTrim (c : Fin 4) (s : State) : Res := go s (cxRow c 4 fun _ => true)
def execCtxPark (c : Fin 4) (s : State) : Res := go s (cxRow c 5 fun _ => true)
def execCtxUnpark (c : Fin 4) (s : State) : Res := go s (cxRow c 6 fun _ => true)
def execCtxClose (c : Fin 4) (s : State) : Res := go s (cxRow c 7 fun _ => true)
def execCtxPlan (c : Fin 4) (s : State) : Res := go s (cxRow c 8 fun _ => true)
def execStarveRetest (p : Fin 4) (s : State) : Res := go s (starveRetest p)
def execStarveTimeout (c : Fin 4) (s : State) : Res := go s (starveTimeout c)
def execReclaim (ep : Fin 16) (m : LendMsg) (s : State) : Res := go s (lendOnce ep 7 m fun t => takeReclaim m (reclaimSlots m t))

end Sys2Proof.Machine
end

