-- ==== Sys2Proof/Machine/Host.lean ====
section
/-! DEFINITION. Host ports (chapter 11, R347 to R361) but for the window accesses themselves: the requester side with host transfers
(R158), queue-pair states, congestion and flow control, address resolution, echo, and the port's link. -/
namespace Sys2Proof.Machine

def State.linkUp (s : State) (h : Nat) : Bool := s.on (F.hptStatusLinkUp h)
def State.qpPort (s : State) (q : Nat) : Nat := s.fld (F.qpPartPort q)
def State.qpState (s : State) (q : Nat) : Nat := s.fld (F.qpCtrlState q)

/-- A packet of the queue pair reaches the device: the image assigns it, and its port is linked. -/
def State.hears (s : State) (q : Nat) : Bool := s.up && s.qpList.contains q && s.linkUp (s.qpPort q)

/-- Modulo 2^24, `a` is at or before `b`. -/
def psnLe (a b : Nat) : Bool := decide ((b + 2 ^ 24 - a % 2 ^ 24) % 2 ^ 24 < 2 ^ 23)

/-- Packets of a message of `n` bytes at the queue pair's PMTU. -/
def State.packets (s : State) (q n : Nat) : Nat := max 1 (ceilDiv n (1024 * 2 ^ s.fld (F.qpDestPmtu q)))

/-! ### Host transfers (R158) -/

/-- A transfer is complete: its signal is raised. -/
def xferDone (k c : Nat) (s : State) : State := releaseStash k (completeHead c .xfer s)

/-- A transfer fails: its status word, whose contents are not given, is written where one is named; the job ends where the descriptor
asks for that. -/
def xferFail (k c : Nat) (s : State) : State :=
  match s.job k, (s.sq c).xfer with
  | some j, q :: _ =>
    let st := Config.value s.clock.freeIdx
    let s := s.spend
    let s := match j.addrOf q 0x30 with
      | some a => if s.inSlice j a 8 then writeNow j.part a (leBytes 8 st) s else s
      | none => s
    let s := if q.d.stopOnStatus then failJob k 0x12 q.d.layer q.d.tag q.microNo (st % 2 ^ 32) s else s
    -- a job that ended has dropped its queues
    match (s.sq c).xfer with
    | r :: _ => if r.no = q.no then xferDone k c s else s
    | [] => s
  | _, _ => s

/-- The transfer at the head of a core's queue starts or goes on, if its mode is `mode`; `act` has its operands. -/
def xferRow (c mode : Nat) (act : Nat → Job → QItem → Nat → Nat → State → State) (s : State) : State :=
  match s.ready c .xfer 4 with
  | some (k, j, q) =>
    if q.d.at 0x10 1 != mode || s.requests.any (fun r => r.owner == .xfer c) then s
    else
      let n := q.d.at 0x1C 4
      match j.addrOf q 0x14 with
      | some a => if s.inSlice j a n then act k j q a n s else xferFail k c s
      | none => xferFail k c s
  | none => s

/-- Copy: one act for each 64 KiB of destination, after each of which it can stop (Table 5.5). -/
def xferCopy (c : Nat) (s : State) : State :=
  xferRow c 0 (fun k j q a n t =>
    match j.addrOf q 0x18 with
    | some b =>
      if !t.inSlice j b n then xferFail k c t
      else
        let o := 65536 * q.resume
        let m := min 65536 (n - o)
        match touch j.part { reads := [(b + o, m)], writes := [(a + o, m)] } t with
        | .wait u => u
        | .ok u bad =>
          if u.bad bad (b + o) m then xferFail k c u
          else
            let u := pairStream k [(a + o, m)] (u.writeBytes (a + o) (u.bytes (b + o) m))
            if n ≤ o + m then xferDone k c u else replaceHead c .xfer { q with resume := q.resume + 1 } u
    | none => xferFail k c t) s

/-- Zero fill. -/
def xferZeroFill (c : Nat) (s : State) : State :=
  xferRow c 1 (fun k j _ a n t =>
    match touch j.part { reads := [], writes := [(a, n)] } t with
    | .wait u => u
    | .ok u _ => xferDone k c (pairStream k [(a, n)] (u.writeBytes a (List.replicate n 0)))) s

/-- A host write goes out whole; it is complete once acknowledged. -/
def xferWrite (c mode : Nat) (s : State) : State :=
  xferRow c mode (fun k j q a n t =>
    let qp := q.d.at 0x12 2
    if t.qpState qp != 3 then xferFail k c t
    else match touch j.part { reads := [(a, n)], writes := [] } t with
      | .wait u => u
      | .ok u bad =>
        if u.bad bad a n then xferFail k c u
        else issueWrite qp (q.d.at 0x20 8) (q.d.at 0x28 4) (u.bytes a n) (if mode = 3 then some (BitVec.ofNat 32 (q.d.at 0x2C 4)) else none)
          (.xfer c) u) s

/-- A host read; at most 16 are outstanding on a queue pair. -/
def xferHostRead (c : Nat) (s : State) : State :=
  xferRow c 4 (fun k _ q a n t =>
    let qp := q.d.at 0x12 2
    if t.qpState qp != 3 then xferFail k c t
    else if 16 ≤ t.readsOut qp then t
    else issueRead qp (q.d.at 0x20 8) (q.d.at 0x28 4) n a (.xfer c) t) s

/-- fclk cycles in a microsecond. -/
def fclkUs : Nat := 1400

/-- A received packet marked CE is answered with a CNP, at most one every cnp_us. -/
def ceMarked (q : Nat) (ce : Bool) (s : State) : State :=
  let h := s.qpPort q
  let x := s.qp q
  let due := match x.lastCnp with
    | some t => decide (t + s.fld (F.hptCcCnpUs h) * fclkUs ≤ s.clock.fclk)
    | none => true
  if ce && due then ((s.setQp q { x with lastCnp := some s.clock.fclk }).bump (F.hptCnpTxCnpTx h)).sendQp q (.cnp q) else s

/-! ### Outstanding requests (R353) -/

/-- What a request's failure means to its owner. A completion record that cannot be delivered any more leaves an error record (R145):
the job's tenant slot is that of the queue pair. -/
def requestFails (r : Request) (s : State) : State :=
  match r.owner with
  | .xfer c => match s.jobAt c with | some (k, _) => xferFail k c s | none => s
  | .completion _ => unreportedRec (leAt r.data 7 1) (leAt r.data 6 1) (s.fld (F.secQpTsTenant r.q)) (leAt r.data 0 4) (leAt r.data 4 1) s
  | .event => s
  | .t3 _ pg =>
    if r.isRead then s
    else
      -- the host copy did not come about: a cached page stays dirty, a T2 page is not backed
      let x := s.page pg
      if x.home == .t2 then s.setPage pg { x with backSlot := if x.backed then x.backSlot else none }
      else if x.cached then s.setPage pg { x with dirty := true, dirtyStripes := x.valid } else s

/-- A queue pair enters ERROR, and every request outstanding on it fails. -/
def qpError (q : Nat) (s : State) : State :=
  let mine := s.requests.filter fun r => r.q == q
  let s := enterError q { s with requests := s.requests.filter fun r => r.q != q }
  mine.foldl (fun t r => requestFails r t) s

/-- What a request's end means to its owner: `data` is a READ's. -/
def requestDone (r : Request) (data : List Byte) (s : State) : State :=
  match r.owner with
  | .xfer c =>
    (match s.jobAt c with
    | some (k, j) => xferDone k c (if r.isRead then pairStream k [(r.dst, r.len)] (writeNow j.part r.dst (data.take r.len) s) else s)
    | none => s)
  | .completion _ | .event => s
  | .t3 p pg =>
    let x := s.page pg
    if r.isRead then takeFill p pg (r.dst % 65536 / 2048) data s
    else if x.home == .t2 && x.backSlot.isSome then s.setPage pg { x with backed := true } else s

/-- The oldest requests of a queue pair, while they are WRITEs that an acknowledged PSN covers, are over. -/
def retireRequests (q psn : Nat) : Nat → State → State
  | 0, s => s
  | fuel + 1, s =>
    match s.requests.find? fun r => r.q == q with
    | some r =>
      if r.isRead || !psnLe r.last psn then s
      else
        let x := s.qp q
        let s := { s with requests := s.requests.eraseP fun y => y.q == q }
        retireRequests q psn fuel (requestDone r [] (s.setQp q { x with retries := 0, rnr := 0 }))
    | none => s

def retireAll (q psn : Nat) (s : State) : State := retireRequests q psn s.requests.length s

def roceAck (q psn : Nat) (ce : Bool) (s : State) : State := if s.hears q && s.qpState q == 3 then retireAll q psn (ceMarked q ce s) else s

/-- Requests outstanding on a queue pair are sent again, as they were. -/
def resendRequests (q : Nat) (s : State) : State :=
  (s.requests.filter fun r => r.q == q).foldl (fun t r =>
    t.sendQp q (if r.isRead then .rdmaRead q r.psn r.va r.rkey r.len else .rdmaWrite q r.psn r.va r.rkey r.data r.imm)) s

/-- A NAK: an RNR NAK is retried after its wait, rnr_retry times (7 without limit); any other ends the queue pair. -/
def roceNak (q psn : Nat) (k : NakKind) (ce : Bool) (s : State) : State :=
  if !(s.hears q && s.qpState q == 3) then s
  else
    let s := retireAll q ((psn + 2 ^ 24 - 1) % 2 ^ 24) (ceMarked q ce s)
    match k with
    | .rnr _ =>
      let x := s.qp q
      let most := s.fld (F.qpRetryRnrRetry q)
      if most = 7 ∨ x.rnr < most then s.setQp q { x with rnr := x.rnr + 1, rnrWait := true } else qpError q s
    | _ => qpError q s

def rnrRetryTimer (q : Nat) (s : State) : State :=
  let x := s.qp q
  if !(s.up && x.rnrWait && s.qpState q == 3) then s else resendRequests q (s.setQp q { x with rnrWait := false })

/-- A read response: a READ acknowledges the requests before it. -/
def readResponse (q psn : Nat) (data : List Byte) (ce : Bool) (s : State) : State :=
  if !(s.hears q && s.qpState q == 3) then s
  else
    let s := retireAll q ((psn + 2 ^ 24 - 1) % 2 ^ 24) (ceMarked q ce s)
    match s.requests.find? fun r => r.q == q with
    | some r =>
      if !r.isRead || r.psn != psn || data.length != r.len then s
      else
        let x := s.qp q
        let s := { s with requests := s.requests.eraseP fun y => y.q == q }
        requestDone r data (s.setQp q { x with retries := 0, rnr := 0 })
    | none => s

/-- ACK_TIMEOUT: a retry, or ERROR once retry_cnt are used. -/
def ackTimeout (q : Nat) (s : State) : State :=
  let x := s.qp q
  if !s.up || s.qpState q != 3 || s.fld (F.qpDestAckTimeout q) == 0 || x.rnrWait || !(s.requests.any fun r => r.q == q) then s
  else if x.retries < s.fld (F.qpRetryRetryCnt q) then resendRequests q (s.setQp q { x with retries := x.retries + 1 })
  else qpError q s

/-! ### Congestion control (R361) -/

/-- Line rate of a port in bit/s. -/
def State.lineRate (s : State) (h : Nat) : Nat :=
  match s.fld (F.hptStatusMode h) with | 1 => 200 * 10 ^ 9 | 2 => 400 * 10 ^ 9 | _ => 0

def State.ccField (s : State) (f : Fld) (least : Nat) : Nat := max least (s.fld f)

/-- CNP_RECEIVE: the rate is cut, unless the last cut is too near. -/
def cnpReceive (q : Nat) (s : State) : State :=
  if !s.hears q then s
  else
    let h := s.qpPort q
    let s := s.bump (F.hptCnpRxCnpRx h)
    let x := s.qp q
    let line := s.lineRate h
    let due := match x.lastCut with
      | some t => decide (t + s.ccField (F.hptCcTCutUs h) 1 * fclkUs ≤ s.clock.fclk)
      | none => true
    if due then
      s.setQp q { x with rate := max (line / 256) (x.rate - x.rate / 2 ^ s.ccField (F.hptCcCutShift h) 1), lastCut := some s.clock.fclk
                         ticks := 0, cnpSeen := true }
    else s.setQp q { x with cnpSeen := true }

/-- CC_INCREASE_TICK: with no CNP since the tick before, the rate rises. -/
def ccIncreaseTick (q : Nat) (s : State) : State :=
  let x := s.qp q
  let h := s.qpPort q
  if !s.up || s.qpState q != 3 then s
  else if x.cnpSeen then s.setQp q { x with cnpSeen := false }
  else
    let line := s.lineRate h
    let t := x.ticks + 1
    s.setQp q { x with ticks := t, rate := min line (x.rate + line / 2 ^ (s.ccField (F.hptCcIncShift h) 3 - min (t / 8) 3)) }

/-! ### Priority flow control (R359) -/

/-- A MAC control frame: no pause holds it. -/
def State.sendMac (s : State) (h : Nat) (o : Out) : State := if s.linkUp h then s.send o else s

def State.xonKib (s : State) (h : Nat) : Nat := min (s.fld (F.hptPfcXonKib h)) (s.fld (F.hptPfcXoffKib h))

/-- The receive buffer of a port changes: XOFF above its threshold, pause time 0 below the other. -/
def bufferMoves (h : Nat) (held : List Waiting) (s : State) : State :=
  let x := s.hp h
  let n := (held.map (·.bytes)).sum
  let s := s.setHp h { x with held := held }
  let pcp := s.fld (F.hptPfcPcp h)
  if !x.xoffSent && decide (s.fld (F.hptPfcXoffKib h) * 1024 < n) then
    (s.setHp h { s.hp h with xoffSent := true }).sendMac h (.pfc h pcp 0xFFFF)
  else if x.xoffSent && decide (n < s.xonKib h * 1024) then (s.setHp h { s.hp h with xoffSent := false }).sendMac h (.pfc h pcp 0)
  else s

/-- A message that must wait stays in the buffer; one that is over leaves it. -/
def bufferHold (q psn n : Nat) (isRead : Bool) (s : State) : State :=
  let h := s.qpPort q
  let l := (s.hp h).held
  if l.any fun y => y.q == q && y.psn == psn then s else bufferMoves h (l ++ [{ q := q, psn := psn, bytes := n, isRead := isRead }]) s

def bufferRelease (q psn : Nat) (s : State) : State :=
  let h := s.qpPort q
  let l := (s.hp h).held
  if l.any fun y => y.q == q && y.psn == psn then bufferMoves h (l.filter fun y => !(y.q == q && y.psn == psn)) s else s

/-- Transmission on a priority resumes; the time the RoCE priority was paused is counted in whole microseconds. -/
def resumePrio (h prio : Nat) (s : State) : State :=
  let x := s.hp h
  if !x.paused.toNat.testBit prio then s
  else
    let bit : BitVec 8 := BitVec.ofNat 8 (2 ^ prio)
    let s := if prio = s.fld (F.hptPfcPcp h) then s.bump (F.hptPausedUsPaused h) ((s.clock.fclk - x.pausedAt) / fclkUs) else s
    flushHost h (s.setHp h { x with paused := x.paused &&& ~~~bit, stormed := x.stormed &&& ~~~bit })

def pfcFrame (h prio : Nat) (time : Half) (s : State) : State :=
  if !(s.up && s.linkUp h) then s
  else if time = 0 then resumePrio h prio s
  else
    let x := s.hp h
    if x.paused.toNat.testBit prio then s
    else s.setHp h { x with paused := x.paused ||| BitVec.ofNat 8 (2 ^ prio)
                            pausedAt := if prio = s.fld (F.hptPfcPcp h) then s.clock.fclk else x.pausedAt }

def pfcPauseExpiry (h prio : Nat) (s : State) : State := if s.up then resumePrio h prio s else s

def pfcRefresh (h : Nat) (s : State) : State :=
  if s.up && (s.hp h).xoffSent then s.sendMac h (.pfc h (s.fld (F.hptPfcPcp h)) 0xFFFF) else s

/-- One record per episode of 100 ms. -/
def pfcStorm (h prio : Nat) (s : State) : State :=
  let x := s.hp h
  if !s.up || !x.paused.toNat.testBit prio || x.stormed.toNat.testBit prio then s
  else errRecord { bank := 0x14 + h, unit := 0xFFFF, cause := 1, cls := 1, detail := prio }
    (s.setHp h { x with stormed := x.stormed ||| BitVec.ofNat 8 (2 ^ prio) })

/-! ### Address resolution and echo (R350) -/

/-- The port hears Ethernet frames: in Noon and Dusk, and at the listening port in Midnight (R378). -/
def State.etherUp (s : State) (h : Nat) : Bool :=
  s.linkUp h && (s.up || (s.aoc.mode == .midnight && (match s.cfg with | some c => c.listen == h | none => false)))

/-- The port's own addresses: the mapped IPv4, the global IPv6, and the link-local one by modified EUI-64 of its MAC (R349). -/
def linkLocal (mac : BitVec 48) : Nat :=
  let m := mac.toNat
  0xFE80 * 2 ^ 112 + (m / 2 ^ 24 ^^^ 2 ^ 17) * 2 ^ 40 + 0xFFFE * 2 ^ 24 + m % 2 ^ 24

def ownAddress (c : HostCfg) (a : Nat) (v6 : Bool) : Bool :=
  if v6 then a == c.ipv6 || a == linkLocal c.mac else a == c.ipv4

def answerArp (h : Nat) (m : ArpMsg) (v6 : Bool) (s : State) : State :=
  match s.hostCfg h with
  | some c =>
    if s.etherUp h && ownAddress c m.target v6 then
      let r : ArpMsg := { target := m.sender, sender := m.target, mac := c.mac, v6 := v6 }
      s.sendHost h 0 none (if v6 then .neighbour h r else .arpReply h r)
    else s
  | none => s

/-- Resolved entries that did not come from the image: at most 256. -/
def takeNeighbour (h : Nat) (m : ArpMsg) (v6 : Bool) (s : State) : State :=
  let a := if v6 then m.sender else mapped4 m.sender
  let x := s.hp h
  if !(s.up && s.linkUp h && x.resolving.contains a) then s
  else if 256 ≤ (x.neigh.filter fun n => !n.2.2).length then s
  else flushHost h (s.setHp h { x with resolving := x.resolving.filter fun b => b != a, neigh := x.neigh ++ [(a, m.mac, false)] })

def neighbourAgeOut (h a : Nat) (s : State) : State :=
  let x := s.hp h
  if s.up then s.setHp h { x with neigh := x.neigh.filter fun n => !(n.1 == a && !n.2.2) } else s

/-- ECHO_REQUEST: payloads up to 1,024 B, at most 1,000 answers in a second. -/
def echoRequest (h : Nat) (m : EchoMsg) (s : State) : State :=
  match s.hostCfg h with
  | some c =>
    let x := s.hp h
    let sec := s.clock.fclk / (fclkUs * 10 ^ 6)
    let n := if x.echoSecond = sec then x.echoes else 0
    if s.up && s.linkUp h && ownAddress c m.dst m.v6 && decide (m.payload.length ≤ 1024) && decide (n < 1000) then
      (s.setHp h { x with echoes := n + 1, echoSecond := sec }).sendHost h 0 none (.echo h { m with dst := m.src, src := m.dst })
    else s
  | none => s

/-! ### Links, drops (R347, R348, R351) -/

/-- HOST_LINK_UP: the configured mode comes up. -/
def hostLinkUp (h : Nat) (s : State) : State :=
  if s.up && s.fld (F.hptStatusMode h) != 0 then s.setFld (F.hptStatusLinkUp h) 1 else s

/-- HOST_LINK_DOWN: queue pairs keep their state; what waited to be sent is lost. -/
def hostLinkDown (h : Nat) (s : State) : State :=
  let x := s.hp h
  (s.setFld (F.hptStatusLinkUp h) 0).setHp h { x with txq := [], held := [], xoffSent := false }

def hostFrameDrop (h : Nat) (why : DropWhy) (s : State) : State :=
  if !(s.up && s.linkUp h) then s
  else match why with
    | .icrc _ => s.bump (F.hptIcrcErrIcrc h)
    | _ => s.bump (F.hptRxDropDrop h)

/-! ### Queue-pair states (R352, R357) -/

def State.ringSlots (s : State) (q : Nat) : Nat := 2 ^ min 12 (s.fld (F.qpRingNSlotsLog2 q))

/-- QP_STATE_WRITE: RESET from any state, else one step on; a write of the state that stands has no effect; any other is dropped. -/
def qpStateWrite (q st : Nat) (s : State) : State :=
  let old := s.qpState q
  if st = old then s
  else if st = 0 then
    let mine := s.requests.filter fun r => r.q == q
    let s := { s with requests := s.requests.filter fun r => r.q != q }
    let s := mine.foldl (fun t r => requestFails r t) s
    (s.setQp q Qp.empty).setFld (F.qpCtrlState q) 0
  else if old ≤ 2 ∧ st = old + 1 then
    let x := s.qp q
    let s := s.setFld (F.qpCtrlState q) st
    match st with
    | 1 => s.setQp q { x with freeSlots := s.ringSlots q, ringSeq := 1 }
    | 2 => s.setQp q { x with epsn := s.fld (F.qpRpsnRqPsn q) }
    | _ => startRequests q (s.setQp q { x with npsn := s.fld (F.qpPsnSqPsn q), rate := s.lineRate (s.qpPort q), ticks := 0, cnpSeen := false })
  else dropLogged (Reg.addr (.qpCtrl q)) s

/-- RING_ACK: the slots up to the consumed sequence are free again. -/
def ringAck (q : Nat) (v : Word) (s : State) : State :=
  let x := s.qp q
  let used := (x.ringSeq + 2 ^ 32 - 1 - v.toNat) % 2 ^ 32
  (s.setFld (F.qpRingAckConsumed q) v.toNat).setQp q { x with freeSlots := s.ringSlots q - used }

/-! ### The rows -/

def execXferCopy (c : Fin 4) (s : State) : Res := go s (xferCopy c)
def execXferZeroFill (c : Fin 4) (s : State) : Res := go s (xferZeroFill c)
def execXferHostWrite (c : Fin 4) (s : State) : Res := go s (xferWrite c 2)
def execXferHostWriteImm (c : Fin 4) (s : State) : Res := go s (xferWrite c 3)
def execXferHostRead (c : Fin 4) (s : State) : Res := go s (xferHostRead c)
def execRoceAckReceive (q : Fin 1024) (h : Bth) (s : State) : Res := go s (roceAck q h.psn h.ce)
def execRoceNakReceive (q : Fin 1024) (h : Bth) (k : NakKind) (s : State) : Res := go s (roceNak q h.psn k h.ce)
def execReadResponseReceive (q : Fin 1024) (h : Bth) (data : List Byte) (s : State) : Res := go s (readResponse q h.psn data h.ce)
def execAckTimeout (q : Fin 1024) (s : State) : Res := go s (ackTimeout q)
def execRnrRetryTimer (q : Fin 1024) (s : State) : Res := go s (rnrRetryTimer q)
def execCnpReceive (q : Fin 1024) (s : State) : Res := go s (cnpReceive q)
def execCcIncreaseTick (q : Fin 1024) (s : State) : Res := go s (ccIncreaseTick q)
def execPfcFrameReceive (h : Fin 4) (prio : Fin 8) (time : Half) (s : State) : Res := go s (pfcFrame h prio time)
def execPfcPauseExpiry (h : Fin 4) (prio : Fin 8) (s : State) : Res := go s (pfcPauseExpiry h prio)
def execPfcRefresh (h : Fin 4) (s : State) : Res := go s (pfcRefresh h)
def execPfcStorm (h : Fin 4) (prio : Fin 8) (s : State) : Res := go s (pfcStorm h prio)
def execArpRequest (h : Fin 4) (m : ArpMsg) (s : State) : Res := go s (answerArp h m false)
def execNeighbourSolicitation (h : Fin 4) (m : ArpMsg) (s : State) : Res := go s (answerArp h m true)
def execArpReply (h : Fin 4) (m : ArpMsg) (s : State) : Res := go s (takeNeighbour h m false)
def execNeighbourAdvertisement (h : Fin 4) (m : ArpMsg) (s : State) : Res := go s (takeNeighbour h m true)
def execNeighbourAgeOut (h : Fin 4) (ip : Nat) (s : State) : Res := go s (neighbourAgeOut h ip)
def execEchoRequest (h : Fin 4) (m : EchoMsg) (s : State) : Res := go s (echoRequest h m)
def execHostLinkUp (h : Fin 4) (s : State) : Res := go s (hostLinkUp h)
def execHostLinkDown (h : Fin 4) (s : State) : Res := go s (hostLinkDown h)
def execHostFrameDrop (h : Fin 4) (why : DropWhy) (s : State) : Res := go s (hostFrameDrop h why)
def execQpStateWrite (q : Fin 1024) (st : Fin 8) (s : State) : Res := go s (onWrite (.qpCtrl q) (qpStateWrite q st))
def execRingAck (q : Fin 1024) (v : Word) (s : State) : Res := go s (onWrite (.qpRingAck q) (ringAck q v))

end Sys2Proof.Machine
end

