-- ==== Sys2Proof/Machine/Links.lean ====
section
/-! DEFINITION. The Efoladel ports (R328 to R342, R418): reception, replay, training, lane retirement, key exchange, a port going
down. -/
namespace Sys2Proof.Machine

/-! ### Lanes and groups (R328) -/

/-- The widest group all of whose lanes a mask holds, with its width code: 3 x8, 2 x4, 1 x2. -/
def widest (lanes : BitVec 8) (most : Nat) : Option (BitVec 8 × Nat) :=
  let cand : List (BitVec 8 × Nat) := [(0xFF, 3), (0x0F, 2), (0xF0, 2), (0x03, 1), (0x0C, 1), (0x30, 1), (0xC0, 1)]
  cand.find? fun g => g.1 &&& lanes == g.1 && decide (g.2 ≤ most)

/-- The group a port narrows to when lanes fail (R338): one step narrower, inside the group in use, clean. -/
def narrower (group failed : BitVec 8) (width : Nat) : Option (BitVec 8 × Nat) :=
  if width ≤ 1 then none
  else match widest (group &&& ~~~failed) (width - 1) with
    | some g => if g.2 + 1 = width then some g else none
    | none => none

def bitCount (b : BitVec 8) : Nat := popCount b.toNat 8

/-- Lanes in service. -/
def State.lanes (s : State) (e : Nat) : BitVec 8 := BitVec.ofNat 8 (s.fld (F.lnkStatusLanesOk e))

/-- The port runs on a group. -/
def setGroup (e : Nat) (g : BitVec 8 × Nat) (s : State) : State :=
  (s.setFld (F.lnkStatusWidth e) g.2).setFld (F.lnkStatusLanesOk e) g.1.toNat

/-- Lanes leave service until the next full training. -/
def retireLanes (e : Nat) (lanes : BitVec 8) (s : State) : State :=
  let x := s.ep e
  let new := lanes &&& ~~~x.retiredLanes
  (s.setEp e { x with retiredLanes := x.retiredLanes ||| lanes }).bump (F.lnkRetiredRetired e) (bitCount new)

/-! ### A port goes down (R339, R341) -/

/-- Frames not acknowledged move, whole and in order, to another up port that reaches the same peer, from a pair port to the other one (R28);
without one they are gone. -/
def moveFrames (e : Nat) (peer : Option Nat) (sent waiting : List TxFrame) (s : State) : State :=
  match peer with
  | none => s
  | some q =>
    let one (count : Bool) (t : State) (f : TxFrame) : State :=
      match (t.linksTo q).filter fun o => o != e && t.pairPort o == t.pairPort e && (!f.enc || t.on (F.lnkStatusEnc o)) with
      | o :: _ => (if count then t.bump (F.lnkResendResend e) else t).queueFrame o f
      | [] => t
    waiting.foldl (one false) (sent.foldl (one true) s)

/-- The port is down: keys are destroyed, its frames go elsewhere. What has been received whole stays for the RDE and the STU. -/
def portDown (e : Nat) (s : State) : State :=
  let x := s.ep e
  let st := if s.on (F.lnkCtrlDisable e) then 5 else 0
  let s := s.setEp e { Ep.empty with retiredLanes := x.retiredLanes, inbox := x.inbox, linbox := x.linbox, peerPos := x.peerPos,
                                     upAtEntry := x.upAtEntry, outOfService := x.outOfService }
  let s := setGroup e (0, 0) ((s.setFld (F.lnkStatusState e) st).setFld (F.lnkStatusEnc e) 0)
  let s := (List.range 8).foldl (fun t v => t.setFld (F.lnkVcCredHeld e v) 0) s
  moveFrames e x.peerPos (x.inflight.map (·.2)) x.txq s

/-! ### Acknowledgement and replay (R335, R336) -/

/-- `a` is at or before `b`, modulo 4,096. -/
def seqLe (a b : Nat) : Bool := decide ((b + 4096 - a % 4096) % 4096 < 2048)

/-- Every flit up to `n` is acknowledged. -/
def ackUpTo (e n : Nat) (s : State) : State :=
  let x := s.ep e
  let left := x.replay.filter fun f => !seqLe f.seq n
  s.setEp e { x with replay := left, inflight := x.inflight.filter fun f => !seqLe f.1 n
                     nakSeen := if left.length = x.replay.length then x.nakSeen else 0 }

/-- Every flit of the replay buffer goes out again in the original order. -/
def resendAll (e : Nat) (s : State) : State := (s.ep e).replay.foldl (fun t f => emit e f t) s

/-- A retrain at the current width: buffers, numbers and credits are kept, and replay resumes; a failed one takes the port down. -/
def retrainPort (e : Nat) (ok : Bool) (s : State) : State :=
  if ok then
    let x := s.ep e
    resendAll e (s.setEp e { x with nakSeen := 0, nakCount := if x.nakWait then 1 else 0 })
  else portDown e s

/-- NAK: replay from the number it names; the eighth for one number retrains the port. -/
def takeNak (e n : Nat) (retrainOk : Bool) (s : State) : State :=
  let s := (ackUpTo e ((n + 4095) % 4096) s).bump (F.lnkReplayReplay e)
  let x := s.ep e
  let s := s.setEp e { x with nakSeen := x.nakSeen + 1 }
  if x.nakSeen + 1 ≥ 8 then retrainPort e retrainOk s else resendAll e s

/-- A flit is lost: the receiver waits for the expected number and asks for it. -/
def lossSeen (e : Nat) (s : State) : State :=
  let x := s.ep e
  if x.nakWait then s else sendIdle e (s.setEp e { x with nakWait := true, nakCount := 1 })

/-- NAK_REPEAT: every 1 µs while waiting. -/
def nakRepeat (e : Nat) (retrainOk : Bool) (s : State) : State :=
  let x := s.ep e
  if !x.nakWait then s
  else
    let s := s.setEp e { x with nakCount := x.nakCount + 1 }
    if x.nakCount + 1 ≥ 8 then retrainPort e retrainOk s else sendIdle e s

/-- ACK_TIMER: flits that are not acknowledged yet, or credits not returned yet, give an IDLE flit (R334, R335). -/
def ackTimer (e : Nat) (s : State) : State :=
  if (s.ep e).unacked = 0 ∧ (s.ep e).owed.all (· == 0) = true then s else sendIdle e s

/-! ### Frames received -/

/-- The frame names a job of a protected partition that runs here. -/
def State.guardedJob (s : State) (job : Nat) : Bool := s.jobs.any fun j => j.2.record.collJob == job && s.guarded j.2.part

/-- Slots of a finished frame are free again once its content is in the central store (R334). -/
def freeSlots (e vc n : Nat) (s : State) : State :=
  let x := s.ep e
  s.setEp e { x with occupied := listPut 0 x.occupied vc (natAt x.occupied vc - n), owed := listPut 0 x.owed vc (natAt x.owed vc + n) }

/-- A frame has arrived whole: it waits in the inbox, and its sender is heard. -/
def deliver (e vc : Nat) (bs : List Byte) (s : State) : State :=
  let x := s.ep e
  let lending := vc == 2 || vc == 3
  let (src, it) := if lending then let (t, m) := lendOf bs; (m.src, InFrame.lend t m) else let (t, f) := collOf bs; (f.src, InFrame.coll t f)
  ((s.setEp e { x with inbox := x.inbox ++ [it], peerPos := some (x.peerPos.getD src) }).setFld (F.rdePeerPeer e) src).setFld (F.rdePeerAlive e) 1

/-- A frame of this type names a job. -/
def namesJob (type : Nat) (f : Frame) : Bool := [1, 2, 3, 4, 7, 9, 0xA, 0xB].contains type || (type == 8 && !f.none)

/-- The last flit of a frame has been taken (R341, R342). -/
def frameDone (e : Nat) (s : State) : State :=
  let x := s.ep e
  let n := x.rxFlits
  let v := x.rxVc
  let clear (t : State) : State := let y := t.ep e; t.setEp e { y with rx := [], rxFlits := 0, rxEnc := false }
  if x.rxEnc then
    let h := headerLen v
    let c := natAt x.ctrRx v
    match Config.gcmOpen (x.keyRx.getD []) (frameNonce (x.peerPos.getD 0) x.peerPort v c) (x.rx.take h) (x.rx.drop h) with
    | some plain =>
      let s := s.setEp e { x with ctrRx := listPut 0 x.ctrRx v (c + 1), gcmFails := 0, recv := listPut 0 x.recv v (natAt x.recv v + n)
                                  owed := listPut 0 x.owed v (natAt x.owed v + n) }
      deliver e v (x.rx.take h ++ plain) (clear (s.bump (F.ldgLinkRecvFlits e) n))
    | none =>
      let s := s.bump (F.lnkGcmFailGcm e)
      if x.gcmFails + 1 ≥ 3 then
        portDown e (errRecord { bank := 0x20 + e, unit := 0xFFFF, cause := 2, cls := 2, part := s.partOfEp e } s)
      else
        -- nothing of the frame counts as accepted: it is asked for again from its first flit
        let s := s.setEp e { x with rxSeq := (x.rxSeq + 4096 - n) % 4096, unacked := x.unacked - n, gcmFails := x.gcmFails + 1
                                    rx := [], rxFlits := 0, rxEnc := false, nakWait := true, nakCount := 1 }
        sendIdle e s
  else
    let s := clear (freeSlots e v n s)
    let (type, f) := collOf x.rx
    if (v == 1 || v == 4) && namesJob type f && s.guardedJob f.job then s.bump (F.lnkGcmFailGcm e) else deliver e v x.rx s

/-- An accepted DATA flit. -/
def takeData1 (e vc : Nat) (first last enc : Bool) (payload : List Byte) (s : State) : State :=
  if s.fld (F.lnkVcCredAlloc e vc) = 0 then s.bump (F.lnkProtoProto e)
  else
    let x := s.ep e
    let x := if first then { x with rx := payload, rxVc := vc, rxEnc := enc, rxFlits := 1 }
             else { x with rx := x.rx ++ payload, rxFlits := x.rxFlits + 1 }
    let s := if x.rxEnc then s.setEp e x
      else (s.setEp e { x with recv := listPut 0 x.recv vc (natAt x.recv vc + 1)
                               occupied := listPut 0 x.occupied vc (natAt x.occupied vc + 1) }).bump (F.ldgLinkRecvFlits e)
    if last then frameDone e s else s

/-- An accepted LINK flit (R340): a part of a message, or a discard counted in LNK_PROTO. -/
def takeLink (e : Nat) (p : List Byte) (s : State) : State :=
  let type := leAt p 0 1
  let i := leAt p 5 1
  let n := leAt p 6 1
  let ok := decide (1 ≤ type) && decide (type ≤ 0x0A) && leAt p 1 1 == 1 && decide (leAt p 2 2 < 4096) && decide (leAt p 4 1 < 16)
    && leAt p 7 1 == 0 && leAt p 0xA 6 == 0 && decide (i < n) && decide (n ≤ 64) && decide (leAt p 8 2 ≤ 224)
  if !ok then s.bump (F.lnkProtoProto e)
  else
    let x := s.ep e
    let body := (if i = 0 then [] else x.lparts) ++ (p.drop 16).take (leAt p 8 2)
    if i + 1 = n then
      s.setEp e { x with lparts := [], linbox := x.linbox ++ [(type, { src := leAt p 2 2, port := leAt p 4 1, body := body })] }
    else s.setEp e { x with lparts := body }

/-! ### Width changes (R338, R340) -/

/-- Both ends run on the new group: numbers, replay buffer, credits and encryption counters are kept. A group that is none takes the port
down. -/
def reStripe (e : Nat) (group failed : BitVec 8) (s : State) : State :=
  match widest group 3 with
  | none => portDown e s
  | some g =>
    let s := setGroup e g (s.setFld (F.lnkStatusState e) 2)
    let x := s.ep e
    pump e (retireLanes e failed (s.setEp e { x with widthTo := none, widthAsked := false }))

/-- The end that has answered a WIDTH re-stripes once its WIDTH_ACK has been acknowledged. -/
def widthGo (e : Nat) (s : State) : State :=
  let x := s.ep e
  match x.widthTo with
  | some (g, bad) =>
    let open' := x.replay.any (fun f => f.kind == 2 && leAt f.payload 0 1 == 4) || x.linkq.any fun p => leAt p 0 1 == 4
    if x.widthAsked && !open' && s.fld (F.lnkStatusState e) == 3 then reStripe e g bad s else s
  | none => s

/-- FLIT_RECEIVE (R329 to R336): counters, check, acknowledgement and credits, then the flit itself. -/
def flitReceive (e : Nat) (r : FlitIn) (s : State) : State :=
  if !s.linkOpen e then s
  else
    let s := s.bump64 (.lnkFecCorrLo e) (.lnkFecCorrHi e) r.corrected
    let s := (r.laneSyms.take 8).zipIdx.foldl (fun t x => t.bump (F.lnkLaneSerSer e x.2) x.1) s
    let s := if r.uncorr then s.bump (F.lnkFecUncorrUncorr e) else s
    let bs := padTo 256 r.bytes
    if r.uncorr || leAt bs 248 8 != crc64 (bs.take 248) then
      let s := s.bump (F.lnkCrcFailCrc e)
      -- step 5 of a training takes no check failure
      if s.fld (F.lnkStatusState e) = 1 ∧ (s.ep e).exchanged = true then portDown e s else lossSeen e s
    else
      let h := leAt bs 0 8
      let aseq := bitsAt h 29 12
      let s := match bitsAt h 41 2 with
        | 1 => ackUpTo e aseq s
        | 2 => takeNak e aseq r.retrainOk s
        | _ => s
      let s := widthGo e s
      let cv := bitsAt h 43 3
      let n := bitsAt h 46 8
      let s := if n = 0 then s else
        let x := s.ep e
        ((s.setEp e { x with rrx := listPut 0 x.rrx cv (natAt x.rrx cv + n) }).bump (F.ldgLinkRrxCredits e) n).setFld (F.lnkVcCredHeld e cv)
          (s.fld (F.lnkVcCredHeld e cv) + n)
      let seq := bitsAt h 17 12
      let x := s.ep e
      let s :=
        if !s.linkOpen e then s
        else if bitsAt h 0 4 = 0 then (if seq = x.rxSeq ∨ seqLe seq x.rxSeq then s else lossSeen e s)
        else if bitsAt h 0 4 ≤ 2 then
          if seq = x.rxSeq then
            let s := s.setEp e { x with rxSeq := (x.rxSeq + 1) % 4096, nakWait := false, nakCount := 0, unacked := x.unacked + 1 }
            let s := if bitsAt h 0 4 = 1 then
                takeData1 e (bitsAt h 4 3) (bitAt h 7) (bitAt h 8) (bitAt h 54) ((bs.drop 8).take (bitsAt h 9 8)) s
              else takeLink e ((bs.drop 8).take 240) s
            if (s.ep e).unacked ≥ 32 then sendIdle e s else s
          else if seqLe seq x.rxSeq then s else lossSeen e s
        else s.bump (F.lnkProtoProto e)
      pump e s

/-- CREDIT_STALL: 10 ms without a credit (R334). -/
def creditStall (e vc : Nat) (s : State) : State :=
  if s.fld (F.lnkStatusState e) == 2 && s.fld (F.lnkVcCredHeld e vc) == 0 && natAt (s.ep e).peerAlloc vc != 0 then
    errRecord { bank := 0x20 + e, unit := 0xFFFF, cause := 1, cls := 1, part := s.partOfEp e } (s.bump (F.lnkCredStallStall e))
  else s

/-! ### Training (R337, Table 11.4) -/

/-- The image permits encryption on the port (R341). -/
def State.encPermit (s : State) (e : Nat) : Bool := match s.cfg with | some c => c.encPermit.toNat.testBit e | none => false

/-- The EXCHANGE body of this end (Table 11.12). -/
def exchangeBody (s : State) (e : Nat) (g : BitVec 8 × Nat) : List Byte :=
  leBytes 1 g.2 ++ [g.1] ++ leBytes 1 (boolNat (s.on (F.lnkStatusPair e)) + 2 + boolNat (s.encPermit e) * 4) ++ leBytes 1 0
  ++ (List.range 8).flatMap (fun v => leBytes 2 (s.fld (F.lnkVcCredAlloc e v))) ++ leBytes 4 0

/-- Steps 1 to 3: the lanes that passed; the EXCHANGE goes out. A port held disabled, or out of service (R453), does not train; one
with no group fails. Frames
that wait, or were not acknowledged, stay for the new link. -/
def trainStart (e : Nat) (lanes : BitVec 8) (s : State) : State :=
  if s.on (F.lnkCtrlDisable e) || (s.ep e).outOfService then s
  else match widest lanes 3 with
    | none => portDown e s
    | some g =>
      let x := s.ep e
      let s := s.setEp e { Ep.empty with inbox := x.inbox, linbox := x.linbox, txq := x.inflight.map (·.2) ++ x.txq, peerPos := x.peerPos,
                                         upAtEntry := x.upAtEntry, trainLanes := lanes,
                                         keyx := { KeyxSt.empty with exchOurs := exchangeBody s e g } }
      let s := setGroup e g ((s.setFld (F.lnkStatusState e) 1).setFld (F.lnkStatusEnc e) 0)
      let s := (((s.setReg (.ldgLinkSent e) 0).setReg (.ldgLinkRecv e) 0).setReg (.ldgLinkRtx e) 0).setReg (.ldgLinkRrx e) 0
      let s := (List.range 8).foldl (fun t v => t.setFld (F.lnkVcCredHeld e v) 0) s
      sendLink e 1 (exchangeBody s e g) s

/-- One step of the PRBS31 sequence (x^31 + x^28 + 1): the register and its output bit. -/
def prbsStep (r : Nat) : Nat × Bool := let b := bitAt r 30 != bitAt r 27; ((r * 2 + boolNat b) % 2 ^ 31, b)

/-- Eight bits of the sequence, first bit lowest. -/
def prbsByte (r : Nat) : Nat × Byte :=
  let (r, v) := (List.range 8).foldl (fun (x : Nat × Nat) i => let (q, b) := prbsStep x.1; (q, x.2 + boolNat b * 2 ^ i)) (r, 0)
  (r, BitVec.ofNat 8 v)

/-- The 1,024 VERIFY messages of step 5: an index, then PRBS31 continued from message to message, from a free start. -/
def verifyBodies (start : Nat) : List (List Byte) :=
  ((List.range 1024).foldl (fun (x : Nat × List (List Byte)) i =>
    let (r, bs) := (List.range 220).foldl (fun (y : Nat × List Byte) _ => let (q, b) := prbsByte y.1; (q, b :: y.2)) (x.1, [])
    (r, (leBytes 4 i ++ bs.reverse) :: x.2)) (start % (2 ^ 31 - 1) + 1, [])).2.reverse

/-- EXCHANGE (R337): width, allocations and flags of the peer; credits are granted, and the VERIFY messages go out. -/
def exchange (e : Nat) (m : LinkMsg) (s : State) : State :=
  let x := s.ep e
  if s.fld (F.lnkStatusState e) != 1 || x.exchanged then s
  else match widest (x.trainLanes &&& BitVec.ofNat 8 (leAt m.body 1 1)) (min (s.fld (F.lnkStatusWidth e)) (leAt m.body 0 1)) with
    | none => portDown e s
    | some g =>
      let alloc := (List.range 8).map fun v => leAt m.body (4 + 2 * v) 2
      let s := s.setEp e { x with exchanged := true, peerPos := some m.src, peerPort := m.port, peerFlags := leAt m.body 2 1, peerAlloc := alloc
                                  keyx := { x.keyx with exchPeer := m.body }
                                  linkq := x.linkq ++ (verifyBodies (Config.value s.clock.freeIdx)).flatMap (linkPayloads 2 s.position e) }
      let s := (alloc.zipIdx.foldl (fun t a => t.setFld (F.lnkVcCredHeld e a.2) a.1) (setGroup e g s)).spend
      pump e ((s.setFld (F.rdePeerPeer e) m.src).setFld (F.rdePeerAlive e) 1)

/-! ### Key exchange (R418) -/

/-- Both ends permit encryption. -/
def State.encBoth (s : State) (e : Nat) : Bool := s.encPermit e && (s.ep e).peerFlags / 2 % 4 == 3

/-- The transcript hash: the two EXCHANGE bodies, lower position first, then the KEYX_EK and KEYX_CT bodies. -/
def State.transcript (s : State) (e : Nat) : List Byte :=
  let x := s.ep e
  let ours := decide (s.position < x.peerPos.getD 0)
  sha3 ((if ours then x.keyx.exchOurs ++ x.keyx.exchPeer else x.keyx.exchPeer ++ x.keyx.exchOurs) ++ x.keyx.ek ++ x.keyx.ct)

/-- The port comes up; where both ends permit it the key exchange begins, at the end with the lower position. -/
def portUp (e : Nat) (s : State) : State :=
  let s := s.setFld (F.lnkStatusState e) 2
  let x := s.ep e
  let s := if s.encBoth e && decide (s.position < x.peerPos.getD 0) then
      let (ek, dk) := Config.kemKey s.clock.freeIdx
      sendLink e 5 ek (s.spend.setEp e { x with keyx := { x.keyx with ek := ek, dk := dk } })
    else s
  pump e s

/-- VERIFY: the 1,024th accepted brings the port up. -/
def verifyMsg (e : Nat) (s : State) : State :=
  let x := s.ep e
  if s.fld (F.lnkStatusState e) != 1 || !x.exchanged then s
  else
    let s := s.setEp e { x with verified := x.verified + 1 }
    if x.verified + 1 ≥ 1024 then portUp e s else s

/-- Certificate and signature go out (step 3). -/
def sendCert (e : Nat) (s : State) : State :=
  sendLink e 8 (Config.dsaSign s.idKeys.2 [] (s.transcript e)) (sendLink e 7 s.certificate s)

/-- KEYX_EK: the other end encapsulates. -/
def keyxEk (e : Nat) (m : LinkMsg) (s : State) : State :=
  if !s.encBoth e then s
  else
    let x := s.ep e
    let (ct, k) := Config.kemEncap m.body s.clock.freeIdx
    let s := s.spend.setEp e { x with keyx := { x.keyx with ek := m.body, ct := ct, shared := k } }
    sendCert e (sendLink e 6 ct s)

/-- KEYX_CT: the first end decapsulates. -/
def keyxCt (e : Nat) (m : LinkMsg) (s : State) : State :=
  if !s.encBoth e then s
  else
    let x := s.ep e
    sendCert e (s.setEp e { x with keyx := { x.keyx with ct := m.body, shared := Config.kemDecap x.keyx.dk m.body } })

def keyxCert (e : Nat) (m : LinkMsg) (s : State) : State :=
  if !s.encBoth e then s else let x := s.ep e; s.setEp e { x with keyx := { x.keyx with cert := m.body } }

/-- A certificate is the vendor's, and its device is permitted where the image lists permitted peers (step 4). -/
def State.peerOk (s : State) (cert : List Byte) : Bool :=
  let list := match s.cfg with | some c => c.permitted | none => []
  Config.dsaVerify s.flash.vendorKey [] (cert.take 0x538) ((cert.drop 0x538).take 2420)
  && (list.isEmpty || list.contains (sha3 ((cert.drop 0x18).take 1312)))

/-- The key for frames sent by a position on a port (step 5). -/
def linkKey (k : List Byte) (pos port : Nat) : List Byte := sha3 (k ++ leBytes 1 1 ++ leBytes 2 pos ++ leBytes 1 port)

def linkAuth (e : Nat) (s : State) : State :=
  errRecord { bank := 0x20 + e, unit := 0xFFFF, cause := 3, cls := 1, part := s.partOfEp e } s

/-- KEYX_SIG: certificate and signature are verified, and the keys of both directions derived. -/
def keyxSig (e : Nat) (m : LinkMsg) (s : State) : State :=
  if !s.encBoth e then s
  else
    let x := s.ep e
    let th := s.transcript e
    if s.peerOk x.keyx.cert && Config.dsaVerify ((x.keyx.cert.drop 0x18).take 1312) [] th m.body then
      let k := sha3 (x.keyx.shared ++ th)
      let s := s.setEp e { x with keyTx := some (linkKey k s.position e), keyRx := some (linkKey k (x.peerPos.getD 0) x.peerPort)
                                  ctrTx := [], ctrRx := [] }
      let s := sendLink e 9 (leBytes 4 0) s
      -- the peer has already said that it has its keys
      if x.keyx.done then pump e (s.setFld (F.lnkStatusEnc e) 1) else s
    else linkAuth e (sendLink e 9 (leBytes 4 1) s)

/-- KEYX_DONE: encryption is active once both ends have installed their keys; a failed exchange is recorded. -/
def keyxDone (e : Nat) (m : LinkMsg) (s : State) : State :=
  if !s.encBoth e then s
  else
    let x := s.ep e
    if leAt m.body 0 1 != 0 then linkAuth e (s.setEp e { x with keyTx := none, keyRx := none })
    else if x.keyTx.isSome then pump e (s.setFld (F.lnkStatusEnc e) 1)
    else s.setEp e { x with keyx := { x.keyx with done := true } }

/-! ### Lane failure (R338, R340) and lane loopback (R463) -/

/-- LANE_FAILURE: the port narrows to a clean group, or goes down. -/
def laneFailure (e : Nat) (lanes : BitVec 8) (s : State) : State :=
  let bad := lanes &&& s.lanes e
  if !(s.fld (F.lnkStatusState e) == 2 || s.fld (F.lnkStatusState e) == 3) || bad == 0 then s
  else
    let s := retireLanes e bad s
    match narrower (s.lanes e) bad (s.fld (F.lnkStatusWidth e)) with
    | none => portDown e s
    | some g =>
      let x := s.ep e
      sendLink e 3 ([g.1, bad] ++ leBytes 2 0) ((s.setEp e { x with widthTo := some (g.1, bad), widthAsked := false }).setFld (F.lnkStatusState e) 3)

/-- WIDTH: the receiver stops sending frames and answers; it takes the group named once its answer is acknowledged. -/
def widthMsg (e : Nat) (m : LinkMsg) (s : State) : State :=
  if !(s.fld (F.lnkStatusState e) == 2 || s.fld (F.lnkStatusState e) == 3) then s
  else
    let x := s.ep e
    let lanes := (BitVec.ofNat 8 (leAt m.body 0 1), BitVec.ofNat 8 (leAt m.body 1 1))
    sendLink e 4 m.body ((s.setEp e { x with widthTo := some lanes, widthAsked := true }).setFld (F.lnkStatusState e) 3)

/-- 4 µs without a WIDTH_ACK, or its acknowledgement: this end takes the group named in the WIDTH. -/
def widthEnds (e : Nat) (s : State) : State :=
  match (s.ep e).widthTo with
  | some (g, bad) => if s.fld (F.lnkStatusState e) == 3 then reStripe e g bad s else s
  | none => s

/-- WIDTH_ACK: it is acknowledged, and this end takes the new group. -/
def widthAck (e : Nat) (s : State) : State := widthEnds e (if (s.ep e).unacked = 0 then s else sendIdle e s)

/-- LANE_LOOPBACK: the port narrows, the excluded lanes run PRBS31 for 10 ms; lanes that pass return, lanes that fail are retired. -/
def laneLoopback (e : Nat) (lanes pass : BitVec 8) (s : State) : State :=
  let full := s.lanes e
  let w := s.fld (F.lnkStatusWidth e)
  if s.fld (F.lnkStatusState e) != 2 || lanes &&& full != lanes || lanes == 0 then s
  else match narrower full lanes w with
    | none => s
    | some g =>
      let bad := lanes &&& ~~~pass
      let s := sendLink e 3 ([g.1, 0] ++ leBytes 2 0) s
      let back := if bad = 0 then (full, w) else (narrower full bad w).getD g
      let s := sendLink e 3 ([back.1, bad] ++ leBytes 2 0) s
      let s := setGroup e back (retireLanes e bad s)
      (s.setFld (F.lnkLaneTestBusy e) 0).setFld (F.lnkLaneTestPassed e) (lanes &&& pass).toNat

/-- LNK_DISABLE: the port is taken down and held down. -/
def lnkDisable (e : Nat) (s : State) : State := portDown e (s.setFld (F.lnkCtrlDisable e) 1)

/-- KEEPALIVE_TIMER (R313, R454): a halted device sends FENCED in its place. -/
def keepaliveTimer (e : Nat) (s : State) : State :=
  if s.fld (F.lnkStatusState e) != 2 && s.fld (F.lnkStatusState e) != 3 then s
  else if s.on F.errStatusHalted then sendLink e 0x0A [] s
  else sendColl e 5 false { noFrame with src := s.position } s

/-- A received link message leaves the port. -/
def takeMsg (e type : Nat) (m : LinkMsg) (f : State → State) (s : State) : State :=
  if !s.up then s
  else
    let x := s.ep e
    f (s.setEp e { x with linbox := x.linbox.erase (type, m) })

end Sys2Proof.Machine
end

