-- ==== Sys2Proof/Machine/Sec.lean ====
section
/-! DEFINITION. SEC (chapter 13): tenant slots, the commands of SEC_CMD_OP, attestation reports, debug. A command is one act: busy is
never seen set, and a scrub is never seen half done (log entry 20). -/
namespace Sys2Proof.Machine

/-! ### Statuses (Table 13.9) -/

def secOk : Nat := 0
def secBadOp : Nat := 2
def secRange : Nat := 3
def secNotProtected : Nat := 4
def secWithheldUpdate : Nat := 5
def secWithheldReset : Nat := 6
def secWithheldDebug : Nat := 7
def secBadEnvelope : Nat := 8
def secNonceUnknown : Nat := 9
def secTagFail : Nat := 0xA
def secSlotEmpty : Nat := 0xB
def secTenantState : Nat := 0xC
def secTenantBusy : Nat := 0xD
def secKeyMismatch : Nat := 0xE

/-- Where tables of SEC keep a tenant slot, and a content key slot. -/
def slotKey (p t : Nat) : Nat := p * 16 + t
def contentKey (p t k : Nat) : Nat := (p * 16 + t) * 4 + k

def State.debug (s : State) : Bool := s.on F.secDebugEnable
def State.staged (s : State) : Bool := s.on F.secStatusUpdateStaged

/-! ### The command block (R421) -/

structure SecArgs where
  tenant : Nat
  key : Nat
  src : Nat
  dst : Nat
  len : Nat

/-- How a command ends: the state, its status, its detail. -/
abbrev SecRes := State × Nat × Nat

/-- A write of SEC_CMD_OP: the command block is read, the command runs, its status is published. A block outside the partition's
span, one that reads poisoned, and a slot the partition has not, end with RANGE. -/
def secCommand (p : Nat) (run : SecArgs → State → SecRes) (s : State) : State :=
  let a := s.pair (.secCmdLo p) (.secCmdHi p) % 2 ^ 52
  let done (r : SecRes) : State :=
    (((r.1.setFld (F.secCmdStatusBusy p) 0).setFld (F.secCmdStatusStatus p) r.2.1).setFld (F.secCmdDetailDetail p) r.2.2)
  if !inRange (s.range p) a 64 then done (s, secRange, 0)
  else
    let (s, bs, bad) := readNow p a 64 s
    let f := leAt bs
    let x : SecArgs := { tenant := f 0 1, key := f 1 1, src := f 8 8, dst := f 0x10 8, len := f 0x18 8 }
    if bad || decide (2 ^ s.fld (F.secPartCfgSlotsLog2 p) ≤ x.tenant) then done (s, secRange, 0) else done (run x s)

/-! ### ADMIT and EVICT (R405, R419) -/

def secAdmit (p : Nat) (x : SecArgs) (s : State) : SecRes :=
  if s.tsState p x.tenant != 0 || s.resetting p then (s, secTenantState, 0)
  else
    let s := s.setTsState p x.tenant 1
    if s.guarded p then
      ({ s with sec := { s.sec with memKeys := tabPut s.sec.memKeys (slotKey p x.tenant) (Config.freshKey s.clock.freeIdx) } }.spend, secOk, 0)
    else (s, secOk, 0)

/-- The contexts of a tenant slot are closed (R216). -/
def closeContexts (p t : Nat) (s : State) : State :=
  let x := s.cxp p
  let mine (r : Nat × Ctx) : Bool := r.2.tenant == t
  let w : CxWork := { x := { x with live := x.live.filter fun r => !mine r, parked := x.parked.filter fun r => !mine r }.sweep
                      now := s.clock.fclk, copies := [], fresh := [], idx := s.clock.freeIdx, coll := 0 }
  let s := w.apply p s
  (x.parked.filter mine).foldl (fun u r => writeNow p (x.parkDir + 128 * (r.1 - x.parkFirst)) (leBytes 1 0) u) s

/-- The keys of a tenant slot are destroyed. -/
def dropKeys (p t : Nat) (s : State) : State :=
  { s with sec := { s.sec with memKeys := tabDel s.sec.memKeys (slotKey p t)
                               content := s.sec.content.filter fun k => k.1 / 4 != slotKey p t } }

/-- What cores whose last job was the slot's still hold is zeroed (Table 13.7, phase 2). -/
def wipeCores (p t : Nat) (s : State) : State :=
  ((List.range 4).filter fun c => (s.sq c).lastTenant == some (p, t)).foldl (fun u c =>
    let u := ((engsOf c).filter u.present).foldl (fun v e => v.setEng e { v.eng e with station := [], scales := [], vecs := [], plan := [] }) u
    u.setVe c { u.ve c with v := [], s := [], a := [] }) s

/-- A page of a scrubbed slice goes: its home zeroed, its granules freed, its T3 slot zeroed or released. -/
def scrubPage (p pg : Nat) (s : State) : State :=
  let x := s.page pg
  let s := match x.t3Slot, s.t3Region p with
    | some k, some (q, va, rk) =>
      if s.guarded p || s.qpState q != 3 then s else issueWrite q (va + k * 65536) rk (List.replicate 65536 0) none .event s
    | _, _ => s
  let s := zeroPage pg (unmapPage p pg s)
  { s with mapped := tabPut s.mapped p (tabGet 0 s.mapped p - 1) }

/-- The scrub of Table 13.7. -/
def scrub (p t : Nat) (s : State) : State :=
  let qs := s.qpList.filter fun q => s.fld (F.qpPartPartition q) == p && s.fld (F.secQpTsTenant q) == t
  let s := qs.foldl (fun u q => qpError q u) s
  let s := wipeCores p t (dropKeys p t (closeContexts p t s))
  let pgs := (s.pages.filter fun x => inRange (s.slice p t) (x.1 * 65536) 65536).map (·.1)
  (pgs.foldl (fun u pg => scrubPage p pg u) s).setTsState p t 0

def evictSlot (p : Nat) (x : SecArgs) (s : State) : SecRes :=
  if s.tsState p x.tenant != 1 || s.resetting p then (s, secTenantState, 0)
  else if s.jobs.any fun j => j.2.part == p && j.2.record.tenant == x.tenant then (s, secTenantBusy, 0)
  else (scrub p x.tenant s, secOk, 0)

/-! ### Keys (R410, R413, R417) -/

/-- The first condition of Table 13.6 under which keys are withheld. -/
def State.withheld13 (s : State) (p t : Nat) : Option Nat :=
  if s.debug then some secWithheldDebug
  else if s.resetting p then some secWithheldReset
  else if s.staged then some secWithheldUpdate
  else if s.tsState p t = 2 then some secTenantState else none

def State.deviceId (s : State) : List Byte := sha3 s.idKeys.1

def keyClear (p : Nat) (x : SecArgs) (s : State) : SecRes :=
  if 4 ≤ x.key then (s, secRange, 0)
  else if (tabFind s.sec.content (contentKey p x.tenant x.key)).isNone then (s, secSlotEmpty, 0)
  else ({ s with sec := { s.sec with content := tabDel s.sec.content (contentKey p x.tenant x.key) } }, secOk, 0)

def keyLoad (p : Nat) (x : SecArgs) (s : State) : SecRes :=
  if !s.guarded p then (s, secNotProtected, 0)
  else if decide (4 ≤ x.key) || !inRange (s.slice p x.tenant) x.src 1252 then (s, secRange, 0)
  else
    let (s, e, bad) := readNow p x.src 1252 s
    let aad := e.take 0x68
    if s.tsState p x.tenant != 1 then (s, secTenantState, 0)
    else if bad || leAt e 0 4 != 0x53504B45 || leAt e 4 2 != 1 || leAt e 6 1 != p || leAt e 7 1 != x.tenant
        || (e.drop 0x48).take 32 != s.deviceId then (s, secBadEnvelope, 0)
    else if !(tabGet [] s.sec.nonces (slotKey p x.tenant)).contains ((e.drop 0x28).take 32) then (s, secNonceUnknown, 0)
    else match s.withheld13 p x.tenant with
      | some st => (s, st, 0)
      | none =>
        let shared := Config.kemDecap (tabGet [] s.sec.partDk p) ((e.drop 0x68).take 1088)
        match Config.gcmOpen (sha3 (shared ++ aad)) ((e.drop 0x4A8).take 12) aad ((e.drop 0x4B4).take 48) with
        | none => (s, secBadEnvelope, 0)
        | some k =>
          ({ s with sec := { s.sec with content := tabPut s.sec.content (contentKey p x.tenant x.key) ((e.drop 8).take 32, k) } }, secOk, 0)

/-! ### UNSEAL (R414, R415) -/

/-- Blocks `i` onward: ciphertext and tag at `src`, plaintext to `dst`. -/
def unsealBlocks (p : Nat) (key salt hdr : List Byte) (block total : Nat) : Nat → Nat → Nat → Nat → State → SecRes
  | 0, _, _, _, s => (s, secOk, 0)
  | fuel + 1, i, src, dst, s =>
    let n := min block (total - i * block)
    let (s, ct, bad) := readNow p src (n + 16) s
    match (if bad then none else Config.gcmOpen key (salt ++ leBytes 8 i) hdr ct) with
    | none => (s, secTagFail, i)
    | some pt => unsealBlocks p key salt hdr block total fuel (i + 1) (src + n + 16) (dst + n) (writeNow p dst (pt.take n) s)

/-- UNSEAL. A header that is no sealed image's has no status of its own: which one such a command reports is free. -/
def unsealImage (p : Nat) (x : SecArgs) (s : State) : SecRes :=
  if !s.guarded p then (s, secNotProtected, 0)
  else if decide (4 ≤ x.key) || !inRange (s.slice p x.tenant) x.src 64 then (s, secRange, 0)
  else if s.tsState p x.tenant != 1 then (s, secTenantState, 0)
  else match s.withheld13 p x.tenant, tabFind s.sec.content (contentKey p x.tenant x.key) with
    | some st, _ => (s, st, 0)
    | none, none => (s, secSlotEmpty, 0)
    | none, some (id, key) =>
      let (s, h, bad) := readNow p x.src 64 s
      let block := leAt h 8 4
      let blocks := leAt h 0xC 4
      let total := leAt h 0x10 8
      let okBlock := (List.range 9).any fun k => block == 65536 * 2 ^ k
      if bad || leAt h 0 4 != 0x53505345 || leAt h 6 2 != 0 || !okBlock || blocks != ceilDiv total block then
        (s.spend, Config.value s.clock.freeIdx % 16, 0)
      else if (h.drop 0x1C).take 32 != id then (s, secKeyMismatch, 0)
      else if !inRange (s.slice p x.tenant) x.src (64 + total + 16 * blocks) || !inRange (s.slice p x.tenant) x.dst total
          || decide (x.len < 64 + total + 16 * blocks) then (s, secRange, 0)
      else unsealBlocks p key ((h.drop 0x18).take 4) h block total blocks 0 (x.src + 64) x.dst s

/-! ### Attestation (R411, R412) -/

/-- The report of Table 13.4 but for its signature. -/
def reportBody (p t : Nat) (s : State) : List Byte :=
  let c := s.sec
  let flags := boolNat s.staged + 2 * boolNat (s.resetting p) + 4 * boolNat s.debug + 8 * boolNat (s.guarded p)
    + 16 * boolNat (s.tsState p t == 2) + 32 * boolNat c.overlayApplied + 64 * boolNat (s.tsState p t == 1)
  let records := match s.cfg with | some x => (x.parts[p]?.map (·.records)).getD [] | none => []
  leBytes 4 0x53504154 ++ leBytes 2 1 ++ leBytes 1 p ++ leBytes 1 t ++ leBytes 2 flags ++ leBytes 2 0 ++ leBytes 4 s.aoc.life.boots
  ++ leBytes 8 s.utc ++ leBytes 8 (c.reportSeq + 1) ++ (List.range 8).flatMap (fun n => leBytes 4 (s.fld (F.secAttNonceNonce p n)))
  ++ padTo 32 s.deviceId ++ padTo 32 c.mBoot ++ padTo 32 c.mSec ++ padTo 32 c.mSeq ++ padTo 32 c.mConfig ++ padTo 32 c.mOverlay
  ++ padTo 32 (sha3 records) ++ padTo 32 c.mStaged ++ List.replicate 192 (0 : Byte)
  ++ padTo 1184 (if s.resetting p then [] else tabGet [] c.partEk p)

/-- SEC forms and signs a report, and remembers its nonce. -/
def attest (p t : Nat) (s : State) : State :=
  let s := s.setFld (F.secAttCtrlTenant p) t
  if !s.partValid p then s
  else
    let body := reportBody p t s
    let nonce := (body.drop 0x20).take 32
    let r := body ++ padTo 2420 (Config.dsaSign s.idKeys.2 [] body)
    let c := s.sec
    let s := { s with sec := { c with reportSeq := c.reportSeq + 1, reports := tabPut c.reports p r
                                      nonces := tabPut c.nonces (slotKey p t) ((nonce :: tabGet [] c.nonces (slotKey p t)).take 4) } }
    (s.setFld (F.secAttStatusBusy p) 0).setFld (F.secAttStatusValid p) 1

/-! ### Debug (R417, R410, R90) -/

/-- A new key pair for a partition; the nonces of reports that named the old one no longer count. -/
def newPartKey (p : Nat) (s : State) : State :=
  let (ek, dk) := Config.kemKey s.clock.freeIdx
  { s with sec := { s.sec with partEk := tabPut s.sec.partEk p ek, partDk := tabPut s.sec.partDk p dk
                               nonces := s.sec.nonces.filter fun n => n.1 / 16 != p } }.spend

def newPartKeys (s : State) : State := ((List.range 4).filter s.partValid).foldl (fun t p => newPartKey p t) s

/-- The memory keys of protected partitions are destroyed: what lies off the compute die under them is no longer known. -/
def loseMemKeys (s : State) : State :=
  let hit := s.pages.filter fun x => match s.partOfAddr (x.1 * 65536) with
    | some p => s.guarded p && x.2.takes && x.2.home != .t0 && !x.2.cached
    | none => false
  hit.foldl (fun t x => freeStore (x.1 * 65536) 65536 t) { s with sec := { s.sec with memKeys := [] } }

def debugEnable (s : State) : State :=
  match s.cfg with
  | some c =>
    if !c.debugOk || s.debug then s
    else
      let s := (s.setFld F.secDebugEnable 1).setFld F.secStatusDebug 1
      newPartKeys (loseMemKeys { s with sec := { s.sec with content := [] } })
  | none => s

def debugDisable (s : State) : State :=
  let s := (s.setFld F.secDebugEnable 0).setFld F.secStatusDebug 0
  ((List.range 4).foldl (fun t c => t.setFld (F.coreRngCtrlFixedEn c) 0) s).setFld F.rdeRngCtrlFixedEn 0

/-- A write of a generator's control register: the fields are of class Q, and fixed_en is set only while debug is enabled (R90). -/
def rngForce (t : RngTarget) (v : Word) (s : State) : State :=
  let (r, en, draw, busy) := match t with
    | .core c => (Reg.coreRngCtrl c, F.coreRngCtrlFixedEn c, F.coreRngCtrlFixedDraw c, (s.coreJob c).isSome)
    | .rde => (Reg.rdeRngCtrl, F.rdeRngCtrlFixedEn, F.rdeRngCtrlFixedDraw, s.busy)
  let newEn := wordField v 0 1
  let newDraw := wordField v 16 16
  let dropEn := newEn != s.fld en && (busy || (newEn == 1 && !s.debug))
  let dropDraw := newDraw != s.fld draw && busy
  let s := if dropEn then s else s.setFld en newEn
  let s := if dropDraw then s else s.setFld draw newDraw
  if dropEn || dropDraw then dropLogged r.addr s else s

/-! ### The rows -/

/-- A write of SEC_CMD_OP with a command of a valid partition. -/
def onSec (p : Nat) (run : SecArgs → State → SecRes) (s : State) : State :=
  onWrite (.secCmdOp p) (fun t => if t.partValid p then secCommand p run t else t) s

def execAdmit (p : Fin 4) (s : State) : Res := go s (onSec p (secAdmit p))
def execEvict (p : Fin 4) (s : State) : Res := go s (onSec p (evictSlot p))
def execKeyLoad (p : Fin 4) (s : State) : Res := go s (onSec p (keyLoad p))
def execKeyClear (p : Fin 4) (s : State) : Res := go s (onSec p (keyClear p))
def execUnseal (p : Fin 4) (s : State) : Res := go s (onSec p (unsealImage p))
def execAttest (p : Fin 4) (tenant : Fin 16) (s : State) : Res := go s (onWrite (.secAttCtrl p) (attest p tenant))
def execDebugEnable (s : State) : Res := go s (onWrite .secDebug debugEnable)
def execDebugDisable (s : State) : Res := go s (onWrite .secDebug debugDisable)
def execRngForce (t : RngTarget) (v : Word) (s : State) : Res :=
  go s (onWrite (match t with | .core c => .coreRngCtrl c | .rde => .rdeRngCtrl) (rngForce t v))

end Sys2Proof.Machine
end

