-- ==== Sys2Proof/Machine/Flash.lean ====
section
/-! DEFINITION. The boot flash (chapter 14): firmware and configuration updates, the retained-state mirror, the life log, the calendar.
A flash command is one act; whether the flash carries out its writes is the flash's own affair, a free choice. -/
namespace Sys2Proof.Machine

/-! ### Statuses of LIF_FLASH_STATUS (Table 14.12) -/

def flOk : Nat := 0
def flBadCmd : Nat := 2
def flSigFail : Nat := 3
def flTooLong : Nat := 4
def flError : Nat := 5
def flJobActive : Nat := 6
def flNothing : Nat := 7
def flResetting : Nat := 8

/-- The AOC and the flash serve: past start-up, not in Midnight or a reset. -/
def State.flashUp (s : State) : Bool := s.up && s.on F.glbBootReady

def State.setFlash (s : State) (f : Flash) : State := { s with flash := f }

/-- A sector has been erased. -/
def Flash.erased (f : Flash) (sector : Nat) : Flash := { f with erases := tabPut f.erases sector (tabGet 0 f.erases sector + 1) }

/-- 64 KiB sectors at which the slots, the life log and the mirror begin (Table 14.1). -/
def fwSector (b : Bool) : Nat := if b then 0x90 else 0x10
def cfgSector (b : Bool) : Nat := if b then 0x130 else 0x110
def logSector (seq : Nat) : Nat := 0x150 + seq / 1024 % 128

def Flash.fw (f : Flash) (b : Bool) : FwSlot := if b then f.fwB else f.fwA
def Flash.setFw (f : Flash) (b : Bool) (x : FwSlot) : Flash := if b then { f with fwB := x } else { f with fwA := x }
def Flash.cfgSlot (f : Flash) (b : Bool) : CfgSlot := if b then f.cfgB else f.cfgA
def Flash.setCfg (f : Flash) (b : Bool) (x : CfgSlot) : Flash := if b then { f with cfgB := x } else { f with cfgA := x }

/-- The slots not in use. -/
def State.spareFw (s : State) : Bool := !s.on F.glbBootFwSlot
def State.spareCfg (s : State) : Bool := !s.on F.glbBootCfgSlot

/-- What is staged shows in SEC and LIF. -/
def showStaged (s : State) : State :=
  let fw := s.flash.fw s.spareFw
  let fwOn := fw.state == .staged
  let cfgOn := (s.flash.cfgSlot s.spareCfg).state == .staged
  let s := s.setFld F.lifFlashStatusStaged (boolNat fwOn + 2 * boolNat cfgOn)
  let s := s.setFld F.secStatusUpdateStaged (boolNat fwOn)
  let s := s.setFld F.lifFwStagedStaged (if fwOn then (fw.image.map (·.version)).getD 0 else 0)
  { s with sec := { s.sec with mStaged := if fwOn then (fw.image.map fun i => sha3 i.whole).getD [] else [] } }

/-- A command of LIF_FLASH_CMD is over. -/
def flashDone (status : Nat) (s : State) : State :=
  showStaged ((s.setFld F.lifFlashStatusBusy 0).setFld F.lifFlashStatusStatus status)

/-- A program, erase or read-back fails (FLASH_ERR), or it does not: the flash decides. -/
def flashTry (ok bad : State → State) (s : State) : State :=
  if Config.pick s.clock.freeIdx % 2 = 1 then
    errRecord { bank := 9, unit := 0, cause := 1, cls := 1 } (bad s.spend)
  else ok s.spend

/-! ### Updates (R441, R442) -/

/-- The image bytes in span memory; none where they lie outside every span range or read poisoned. -/
def stagedBytes (s : State) : State × Option (List Byte) :=
  let a := s.pair .lifFlashSrcLo .lifFlashSrcHi % 2 ^ 52 / 64 * 64
  let n := s.fld F.lifFlashLenLen
  match s.partOfAddr a with
  | some p =>
    if !inRange (s.range p) a n then (s, none)
    else let (t, bs, bad) := readNow p a n s; (t, if bad then none else some bs)
  | none => (s, none)

/-- STAGE_FW: the slot not in use is erased, programmed and verified. -/
def stageFw (s : State) : State :=
  if 2 ^ 23 - 65536 < s.fld F.lifFlashLenLen then flashDone flTooLong s
  else
    let b := s.spareFw
    let (s, bs) := stagedBytes s
    let wiped := (s.flash.setFw b { state := .erased, generation := 0, image := none }).erased (fwSector b)
    flashTry (fun t =>
        match bs.bind Config.readFw with
        | some i =>
          if i.sigOk then
            flashDone flOk (t.setFlash (wiped.setFw b { state := .staged, generation := (wiped.fw (!b)).generation + 1, image := some i }))
          else flashDone flSigFail (t.setFlash wiped)
        | none => flashDone flSigFail (t.setFlash wiped))
      (fun t => flashDone flError (t.setFlash wiped)) s

/-! ### The bytes of a configuration image (R428, R429) -/

/-- Records one after the other: tag, length, value, zero bytes up to a multiple of 4; none where they do not fill their space. -/
def splitRecords : Nat → List Byte → Option (List (Nat × List Byte))
  | 0, bs => if bs.isEmpty then some [] else none
  | k + 1, bs =>
    let n := leAt bs 2 2
    let m := ceilDiv n 4 * 4
    if bs.length < 4 + m || ((bs.drop (4 + n)).take (m - n)).any (· != 0) then none
    else (splitRecords k (bs.drop (4 + m))).map fun l => (leAt bs 0 2, (bs.drop 4).take n) :: l

/-- A REG_DEFAULT record, tag 0x0801: address, value, mask (R432). -/
def isDefault (r : Nat × List Byte) : Bool := r.1 % 2 ^ 15 == 0x0801
def defaultOf (v : List Byte) : Nat × Word × Word := (leAt v 0 4, BitVec.ofNat 32 (leAt v 4 4), BitVec.ofNat 32 (leAt v 8 4))

/-- The image that bytes hold: header (Table 14.3), records, signature over both under the context string SPA-CFG. -/
def readImage (key bs : List Byte) : Option CfgImage :=
  let n := leAt bs 8 4
  if leAt bs 0 4 != 0x53504346 || leAt bs 4 2 != 1 || leAt bs 6 2 != 0 || ((bs.drop 0x14).take 12).any (· != 0) || decide (n < 64)
      || decide (bs.length < n + 2420) || decide (2 ^ 21 - 65536 < n + 2420) then none
  else
    let signed := bs.take n
    match splitRecords (leAt bs 0x10 4) (signed.drop 64) with
    | none => none
    | some rs =>
      if rs.any fun r => isDefault r && r.2.length != 12 then none
      else (Config.readCfg rs).map fun c => { c with
        sigOk := Config.dsaVerify key (leBytes 7 0x4746432D415053) signed ((bs.drop n).take 2420), minFw := leAt bs 0xC 4, m := sha3 signed
        regDefaults := (rs.filter isDefault).map fun r => defaultOf r.2 }

/-- A REG_DEFAULT record touches only fields that software may write, of class Q, B or L (R432). -/
def defaultOk (d : Nat × Word × Word) : Bool :=
  match regAt d.1 with | some r => d.2.2 &&& ~~~r.rwMask == 0 | none => false

/-- A configuration image passes R430 against a firmware version: signature and form, and the ranges of R332, R352 and R432. -/
def cfgAccepted (c : CfgImage) (version : Nat) : Bool :=
  c.sigOk && c.formOk && decide (c.minFw ≤ version) && c.regDefaults.all defaultOk && c.vcAlloc.all (fun l => decide (l.sum ≤ 1024))
  && (List.range 4).all (fun p => decide ((c.qps.filter fun q => q.part == p).length ≤ 256))

def stageCfg (s : State) : State :=
  if 2 ^ 21 - 65536 < s.fld F.lifFlashLenLen then flashDone flTooLong s
  else
    let b := s.spareCfg
    let (s, bs) := stagedBytes s
    let wiped := (s.flash.setCfg b { state := .erased, generation := 0, image := none }).erased (cfgSector b)
    flashTry (fun t =>
        match bs.bind (readImage s.flash.vendorKey) with
        | some i =>
          if cfgAccepted i (t.fld F.lifFwVersionRunning) then
            flashDone flOk (t.setFlash (wiped.setCfg b { state := .staged, generation := (wiped.cfgSlot (!b)).generation + 1, image := some i }))
          else flashDone flSigFail (t.setFlash wiped)
        | none => flashDone flSigFail (t.setFlash wiped))
      (fun t => flashDone flError (t.setFlash wiped)) s

/-- ACTIVATE_CFG: the staged slot is committed for the next cold start. -/
def activateCfg (s : State) : State :=
  let b := s.spareCfg
  let x := s.flash.cfgSlot b
  if x.state != .staged then flashDone flNothing s
  else flashTry (fun t => flashDone flOk (t.setFlash (t.flash.setCfg b { x with state := .committed }))) (flashDone flError) s

/-- ABANDON: every staged slot is erased. -/
def abandonStaged (s : State) : State :=
  let wipeFw (f : Flash) : Flash := if (f.fw s.spareFw).state == .staged then
      (f.setFw s.spareFw { state := .erased, generation := 0, image := none }).erased (fwSector s.spareFw) else f
  let wipeCfg (f : Flash) : Flash := if (f.cfgSlot s.spareCfg).state == .staged then
      (f.setCfg s.spareCfg { state := .erased, generation := 0, image := none }).erased (cfgSector s.spareCfg) else f
  flashTry (fun t => flashDone flOk (t.setFlash (wipeCfg (wipeFw t.flash)))) (flashDone flError) s

/-- A code that Table 14.8 does not list. -/
def badFlashCmd (s : State) : State := flashDone flBadCmd s

def onFlash (f : State → State) (s : State) : State := onWrite .lifFlashCmd (fun t => if t.flashUp then f t else t) s

/-! ### The retained-state mirror (R439, R440) -/

/-- Powered seconds that must lie between two snapshots of a section. -/
def sectionSpacing : Section → Nat
  | .scaleHistory _ => 900
  | .lifeCounters => 60
  | _ => 10

def State.historyOf (s : State) (p : Nat) : Option History := tabFind s.histories p

/-- SNAPSHOT_WRITE: the section as it stands becomes its newest snapshot. -/
def snapshotWrite (sec : Section) (s : State) : State :=
  let m := s.flash.mirror
  let last := (m.stamps.find? fun x => x.1 == sec).map (·.2)
  let early := match last with | some t => decide (s.clock.powered < t + sectionSpacing sec) | none => false
  if !s.up || early then s
  else
    let m := { m with seq := m.seq + 1, stamps := (sec, s.clock.powered) :: m.stamps.filter fun x => x.1 != sec }
    let put (m : Mirror) (t : State) : State := t.setFlash { t.flash with mirror := m }
    match sec with
    | .overlay =>
      (put { m with overlay := some s.aoc.overlay } { s with aoc := { s.aoc with overlayDirty := false } }).setFld F.lifOvlStatusPending 0
    | .scaleHistory p => (match s.historyOf p with
      | some h => put { m with histories := tabPut m.histories p h } s
      | none => put m s)
    | .mcg g =>
      let x := s.mcg g
      put { m with mcgs := tabPut m.mcgs g { remaps := x.remaps, retired := x.retired, degraded := s.on (F.mcgStatusDegraded g) } } s
    | .eraseCounts => put { m with erases := s.flash.erases.flatMap fun e => [e.1, e.2] } s
    | .lifeCounters => put { m with life := some (s.aoc.life, s.clock.powered) } s

/-! ### Life log (R444 to R446) -/

def sat (n v : Nat) : Nat := min v (256 ^ n - 1)

/-- Corrected sectors that an MCH has counted, and rows and blocks that an MCG has taken out of use. -/
def State.ceCount (s : State) (ch : Nat) : Nat := s.fld (F.mcgCeCntCe (ch / 4) (ch % 4))
def State.rowCount (s : State) (g : Nat) : Nat := (s.mcg g).remaps.length + (s.mcg g).retired.length

/-- The body of a record's kind (Table 14.10); what no part of the model counts is free. -/
def logBody (kind : Nat) (s : State) : List Byte :=
  let l := s.aoc.life
  let free (i n : Nat) : List Byte := leBytes n (Config.value (s.clock.freeIdx + i))
  match kind with
  | 0 => (List.range 8).flatMap (fun e => leBytes 2 (sat 2 (natAt l.busyNs e / 1000000000))) ++ leBytes 2 (sat 2 l.trips) ++ leBytes 2 (sat 2 l.warnings)
         ++ leBytes 4 (sat 4 (l.throttleUs / 1000000)) ++ leBytes 4 0
  | 8 => (List.range 24).flatMap (fun g => leBytes 1 (sat 1 (s.rowCount g - natAt l.rowBase g))) ++ leBytes 4 0
  | 9 =>
    let e (k : Nat) : Nat := tabGet 0 s.flash.erases k
    free 0 4 ++ leBytes 4 (((List.range 128).map fun k => e (0x150 + k)).foldl max 0) ++ leBytes 2 (sat 2 (e (fwSector false)))
    ++ leBytes 2 (sat 2 (e (fwSector true))) ++ leBytes 2 (sat 2 (e (cfgSector false))) ++ leBytes 2 (sat 2 (e (cfgSector true)))
    ++ leBytes 2 (sat 2 l.fallbackBoots) ++ leBytes 10 0
  | k => padTo 28 ((List.range 14).flatMap fun i =>
      let ch := 14 * (k - 1) + i
      if ch < 96 then leBytes 2 (sat 2 (s.ceCount ch - natAt l.ceBase ch)) else leBytes 2 0)

/-- The record of Table 14.9. -/
def logRecord (s : State) : List Byte :=
  let seq := s.aoc.logNext
  let l := s.aoc.life
  let flags := boolNat s.clock.calValid + 2 * boolNat l.tripLastHour + 4 * boolNat (s.on F.glbBootFwFallback || s.on F.glbBootCfgFallback)
  let body := leBytes 2 0x4C47 ++ leBytes 1 (seq % 10) ++ leBytes 1 flags ++ leBytes 4 seq ++ leBytes 8 s.utc ++ leBytes 4 s.clock.powered
    ++ leBytes 4 l.boots ++ leBytes 8 (l.energyUj / 1000000) ++ logBody (seq % 10) s
  body ++ leBytes 4 (crc32c body)

/-- LIFE_LOG_RECORD: a sector about to be begun is erased first. -/
def lifeLogRecord (s : State) : State :=
  if s.aoc.mode == .off || s.aoc.mode == .reset || s.aoc.mode == .warmReset || s.aoc.mode == .midnight then s
  else
    let seq := s.aoc.logNext
    let rec' := logRecord s
    let kind := seq % 10
    let l := s.aoc.life
    let l := { l with
      tripLastHour := false
      warnings := if kind = 0 then 0 else l.warnings
      throttleUs := if kind = 0 then 0 else l.throttleUs
      busyNs := if kind = 0 then [] else l.busyNs
      ceBase := if 1 ≤ kind ∧ kind ≤ 7 then (List.range 96).map fun ch => if ch / 14 + 1 = kind then s.ceCount ch else natAt l.ceBase ch
                else l.ceBase
      rowBase := if kind = 8 then (List.range 24).map s.rowCount else l.rowBase }
    let f := s.flash
    let f := if seq % 1024 = 0 then
        { f with log := f.log.filter fun r => !(r.1 / 1024 == seq % 131072 / 1024) }.erased (logSector seq) else f
    let s := s.setFlash { f with log := tabPut f.log (seq % 131072) rec' }
    { s with aoc := { s.aoc with logNext := seq + 1, life := l }, clock := { s.clock with freeIdx := s.clock.freeIdx + 8 } }

/-- LOG_READ. -/
def logRead (seq : Word) (s : State) : State :=
  let s := s.setFld F.lifLogIdxSeq seq.toNat
  let found := (tabFind s.flash.log (seq.toNat % 131072)).bind fun r =>
    if leAt r 4 4 == seq.toNat && leAt r 0x3C 4 == crc32c (r.take 0x3C) then some r else none
  let s := (s.setFld F.lifLogStatusBusy 0).setFld F.lifLogStatusGone (boolNat found.isNone)
  (List.range 16).foldl (fun t n => t.setFld (F.lifLogDataData n) (leAt (found.getD []) (4 * n) 4)) s

/-! ### Calendar (R443) -/

def calendarSet (hi : Word) (s : State) : State :=
  let s := s.setFld F.lifCalSetHiSet hi.toNat
  { s with clock := { s.clock with calendar := s.pair .lifCalSetLo .lifCalSetHi, calValid := true } }

/-! ### The rows -/

def execStageFw (s : State) : Res := go s (onFlash stageFw)
def execStageCfg (s : State) : Res := go s (onFlash stageCfg)
def execActivateCfg (s : State) : Res := go s (onFlash activateCfg)
def execAbandon (s : State) : Res := go s (onFlash abandonStaged)
def execSnapshotWrite (sec : Section) (s : State) : Res := go s (snapshotWrite sec)
def execLifeLogRecord (s : State) : Res := go s lifeLogRecord
def execLogRead (seq : Word) (s : State) : Res := go s (onWrite .lifLogIdx (logRead seq))
def execCalendarSet (hi : Word) (s : State) : Res := go s fun t => if t.up then calendarSet hi t else t

end Sys2Proof.Machine
end

