-- ==== Sys2Proof/Machine/LinkRows.lean ====
section
/-! DEFINITION. The rows of the Efoladel ports whose effect reaches the RDE: a COLL that waits for its frames to leave a port, or that
has lost a hop, is settled after each (R297, R299, R339). -/
namespace Sys2Proof.Machine

/-- An act of a port, and what the running COLLs make of it. -/
def linkAct (f : State → State) (s : State) : State := if s.up then settleColls (f s) else s

/-- A received link message, and what follows it. -/
def linkMsg (e type : Nat) (m : LinkMsg) (f : State → State) (s : State) : State := linkAct (takeMsg e type m f) s

/-- FENCED: the sender is declared lost at once, as 64 µs of silence would have done (R340). -/
def fenced (m : LinkMsg) (s : State) : State := peerLoss m.src s

/-- RETRAIN: a full training of the port, with the lanes that were retired (R337). -/
def retrain (e : Nat) (lanes : BitVec 8) (s : State) : State := linkAct (trainStart e lanes) s

/-- LINK_PARTNER_TRAINING: a peer's signal takes a port that is down through training; one held disabled stays as it is. -/
def partnerTraining (e : Nat) (lanes : BitVec 8) (s : State) : State :=
  if s.fld (F.lnkStatusState e) = 0 then linkAct (trainStart e lanes) s else s

def execFlitReceive (ep : Fin 16) (r : FlitIn) (s : State) : Res := go s (linkAct (flitReceive ep r))
def execAckTimer (ep : Fin 16) (s : State) : Res := go s (linkAct (ackTimer ep))
def execNakRepeat (ep : Fin 16) (retrainOk : Bool) (s : State) : Res := go s (linkAct (nakRepeat ep retrainOk))
def execCreditStall (ep : Fin 16) (vc : Fin 8) (s : State) : Res := go s (linkAct (creditStall ep vc))
def execLaneFailure (ep : Fin 16) (lanes : BitVec 8) (s : State) : Res := go s (linkAct (laneFailure ep lanes))
def execWidthAckTimeout (ep : Fin 16) (s : State) : Res := go s (linkAct (widthEnds ep))
def execExchange (ep : Fin 16) (m : LinkMsg) (s : State) : Res := go s (linkMsg ep 1 m (exchange ep m))
def execVerify (ep : Fin 16) (m : LinkMsg) (s : State) : Res := go s (linkMsg ep 2 m (verifyMsg ep))
def execWidth (ep : Fin 16) (m : LinkMsg) (s : State) : Res := go s (linkMsg ep 3 m (widthMsg ep m))
def execWidthAck (ep : Fin 16) (m : LinkMsg) (s : State) : Res := go s (linkMsg ep 4 m (widthAck ep))
def execKeyxEk (ep : Fin 16) (m : LinkMsg) (s : State) : Res := go s (linkMsg ep 5 m (keyxEk ep m))
def execKeyxCt (ep : Fin 16) (m : LinkMsg) (s : State) : Res := go s (linkMsg ep 6 m (keyxCt ep m))
def execKeyxCert (ep : Fin 16) (m : LinkMsg) (s : State) : Res := go s (linkMsg ep 7 m (keyxCert ep m))
def execKeyxSig (ep : Fin 16) (m : LinkMsg) (s : State) : Res := go s (linkMsg ep 8 m (keyxSig ep m))
def execKeyxDone (ep : Fin 16) (m : LinkMsg) (s : State) : Res := go s (linkMsg ep 9 m (keyxDone ep m))
def execFenced (ep : Fin 16) (m : LinkMsg) (s : State) : Res := go s (linkMsg ep 0xA m (fenced m))
def execKeepaliveTimer (ep : Fin 16) (s : State) : Res := go s (linkAct (keepaliveTimer ep))
def execLaneLoopback (ep : Fin 16) (lanes pass : BitVec 8) (s : State) : Res :=
  go s (onWrite (.lnkLaneTest ep) (linkAct (laneLoopback ep lanes pass)))
def execRetrain (ep : Fin 16) (lanes : BitVec 8) (s : State) : Res := go s (onWrite (.lnkCtrl ep) (retrain ep lanes))
def execLnkDisable (ep : Fin 16) (s : State) : Res := go s (onWrite (.lnkCtrl ep) (linkAct (lnkDisable ep)))
def execLinkPartnerTraining (ep : Fin 16) (lanes : BitVec 8) (s : State) : Res := go s (partnerTraining ep lanes)

end Sys2Proof.Machine
end

