-- ==== Sys2Proof/Machine/Mcg.lean ====
section
/-! DEFINITION. The memory channel groups: initialisation, refresh and temperature, scrub, failed rows, channel test
(R268 to R292, R463). -/
namespace Sys2Proof.Machine

/-! ### The package -/

/-- Sectors of 64 B of the package, check sectors with them. -/
def State.packageSectors (s : State) (g : Nat) : Nat := 4 * s.channelRows g * 32

/-- Check groups of the package: 64 KiB each (R271). -/
def State.checkGroups (s : State) (g : Nat) : Nat := s.packageGib g * 2 ^ 14

/-- Redirections and free spares of one channel: 64 spare rows each (R288). -/
def Mcg.spareUsed (m : Mcg) (ch : Nat) : List Nat := (m.remaps.filter fun r => r.row.ch == ch).map (·.spare)
def Mcg.freeSpare (m : Mcg) (ch : Nat) : Option Nat := (List.range 64).find? fun k => !(m.spareUsed ch).contains k
def Mcg.remapped (m : Mcg) (r : RowId) : Bool := m.remaps.any fun x => x.row == r

/-- The MCG works: it has a package and the device is not in Midnight. -/
def State.mcgUp (s : State) (g : Nat) : Bool := s.up && (s.mcg g).fitted

/-! ### Initialisation (R271) -/

/-- CHECK_GROUP_INIT: the next marked group; all groups below it are done. -/
def checkGroupInit (g : Nat) (s : State) : State :=
  let m := s.mcg g
  match m.nextMarked with
  | some k =>
    if s.mcgUp g then showInit g (s.setMcg g { m with initNext := k + 1, initDone := m.initDone.filter fun d => decide (k + 1 < d.1 + d.2) })
    else s
  | none => s

/-- A row is to be touched: its group, if marked, is written with zeros and its bit cleared. -/
def touchRow (g : Nat) (r : RowId) (s : State) : State := showInit g (s.setMcg g ((s.mcg g).initGroup (s.groupOf g r)))

/-! ### Refresh and temperature (R272, R274, R275, Table 9.4) -/

/-- REFRESH: one bank of one rank of every channel. -/
def refreshBank (g rank bank : Nat) (s : State) : State :=
  let m := s.mcg g
  if s.mcgUp g && decide (rank < s.mcgRanks g) then
    s.setMcg g { m with refreshed := tabPut m.refreshed (rank * 16 + bank % 16) s.clock.fclk }
  else s

/-- The bandwidth limit of a step. -/
def stepLimit (n : Nat) : Nat := match n with | 0 => 64 | 1 => 64 | 2 => 48 | 3 => 32 | _ => 16

/-- The MCG enters a step: limit, and one record on entering step 4, of the hottest channel. -/
def enterStep (g ch n : Nat) (s : State) : State :=
  let old := s.fld (F.mcgStatusStep g)
  let s := (s.setFld (F.mcgStatusStep g) n).setFld (F.mcgThermLimit g) (stepLimit n)
  if n = 4 ∧ old ≠ 4 then
    errRecord { bank := 0x40 + g, unit := ch, cause := 8, cls := 1, part := s.partOfMcg g } s
  else s

/-- REFRESH_RATE_READ: the hottest channel decides; hotter acts at once, cooler one step after 8 readings in a row. -/
def refreshRateRead (g : Nat) (rs : List RateReport) (s : State) : State :=
  if !s.mcgUp g then s
  else
    let code := ((rs.take 4).zipIdx.map fun (r, i) => r.code % 32 * 2 ^ (5 * i)).sum
    let s := s.setFld (F.mcgThermRateCode g) code
    let want := (rs.take 4).foldl (fun n r => max n (min 4 r.step)) 0
    let hot := ((rs.take 4).findIdx? fun r => min 4 r.step == want).getD 0
    let step := s.fld (F.mcgStatusStep g)
    let m := s.mcg g
    if step < want then enterStep g hot want (s.setMcg g { m with cooler := 0 })
    else if want < step then
      if m.cooler + 1 ≥ 8 then enterStep g hot (step - 1) (s.setMcg g { m with cooler := 0 })
      else s.setMcg g { m with cooler := m.cooler + 1 }
    else s.setMcg g { m with cooler := 0 }

/-- OSCILLATOR_CHECK: the timing of each channel is corrected from its oscillators (R272). -/
def oscillatorCheck (g : Nat) (drift : List Nat) (s : State) : State :=
  if s.mcgUp g then s.setMcg g { s.mcg g with oscillator := drift.take 4 } else s

/-- RANK_POWER_DOWN: no request for 1 µs (R372). -/
def rankPowerDown (g : Nat) (s : State) : State :=
  if s.mcgUp g && !(s.mcg g).selfRefresh then s.setMcg g { s.mcg g with powerDown := true } else s

/-! ### Patrol scrub (R283, R284, R286) -/

/-- The sector at a scrub position: channel, rank, bank, row, column sector. -/
def State.sectorAt (s : State) (g pos : Nat) : RowId × Nat :=
  let row := pos / 32
  let rows := s.bankRows g
  ({ ch := row / s.channelRows g, rank := row / (16 * rows) % s.mcgRanks g, bank := row / rows % 16, row := row % rows }, pos % 32)

/-- Errors that the memories have taken: they add to those that a word or sector holds. -/
def strike (k : Bool × Nat × Errs) (s : State) : State :=
  let (inT1, w, e) := k
  if inT1 then
    let x := s.page (w / 1024)
    if x.home == .t1 && decide (w % 1024 < 32 * x.unitCount) then { s with flips := tabPut s.flips w (tabGet [] s.flips w ++ e) } else s
  else if (s.page (w / 2048)).inT0 (w / 64 % 32) then { s with upsets := tabPut s.upsets w (tabGet [] s.upsets w ++ e) }
  else s

/-- The page and the sector of its home copy that a data sector holds; none where no page's home lies there. -/
def State.heldAt (s : State) (g : Nat) (r : RowId) (col : Nat) : Option (Nat × Nat × Nat) :=
  (s.partOfMcg g).bind fun p => (s.unitAt p g r).bind fun u => (s.pageAtUnit p u).map fun x => (p, x.1, x.2 + col)

/-- PATROL_SCRUB: the next sector is read and decoded as a demand read decodes it; a lost sector is poisoned. Of a sector that no page's home
holds, a check sector or a free one, the errors alone are known. -/
def patrolScrub (g : Nat) (found : ScrubRead) (s : State) : State :=
  let s := found.strikes.foldl (fun t k => strike k t) s
  let m := s.mcg g
  if !s.mcgUp g || !s.on (F.mcgScrubCtrlEnable g) || m.selfRefresh then s
  else
    let (r, sec) := s.sectorAt g m.scrubPos
    let last := decide (s.packageSectors g ≤ m.scrubPos + 1)
    let s := s.setMcg g { m with scrubPos := if last then 0 else m.scrubPos + 1, powerDown := false }
    let s := if last then s.bump (F.mcgScrubPassPasses g) else s
    -- a group not yet initialised is skipped
    if s.t1Marked g r then s
    else match s.heldAt g r sec with
      | some (p, pg, i) => meetT1 p pg i (if found.errs.isEmpty then s else strike (true, pg * 1024 + i, found.errs) s)
      | none => match decodeSyn (synOf found.errs) with
        | .clean | .poisoned => s
        | .corrected _ _ => mcgUpset g r sec .corrected s
        | d => mcgUpset g r sec (if d = .misdirected then .misdirected else .uncorrectable) s

/-! ### Rows that fail (R287 to R291, Table 9.8) -/

/-- Rows are read whole, to be copied: the errors of their sectors are met, corrected or kept as poison. -/
def meetRows (hit : Nat → RowId → Bool) (s : State) : State :=
  s.flips.foldl (fun t f =>
    let pg := f.1 / 1024
    match t.partOfAddr (pg * 65536) with
    | some p =>
      let ((g, r), _) := t.t1Row p pg (f.1 % 1024)
      if hit g r && (t.page pg).home == .t1 then meetT1 p pg (f.1 % 1024) t else t
    | none => t) s

/-- The package's spares are exhausted: degraded, once (R291). The record names the channel whose row took or missed the last one. -/
def markDegraded (g ch : Nat) (s : State) : State :=
  if s.on (F.mcgStatusDegraded g) || decide ((s.mcg g).remaps.length < 256) then s
  else errRecord { bank := 0x40 + g, unit := ch, cause := 7, cls := 1, part := s.partOfMcg g } (s.setFld (F.mcgStatusDegraded g) 1)

/-- The failed row is copied to a spare row of its channel and redirected (R288). -/
def remapRow (g : Nat) (r : RowId) (spare : Nat) (s : State) : State :=
  let s := meetRows (fun h q => h == g && q == r) (touchRow g r s)
  let m := s.mcg g
  let s := refreshMcg g (s.setMcg g { m with remaps := m.remaps ++ [{ row := r, spare := spare }]
                                             ceNotes := m.ceNotes.filter fun n => n.row != r
                                             failed := m.failed.filter fun q => q != r })
  markDegraded g r.ch (errRecord { bank := 0x40 + g, unit := r.ch, cause := 4, cls := 0, address := rowIndex r 0, part := s.partOfMcg g } s)

/-- The data rows whose blocks a failed row withdraws: itself, or the 31 that a check row serves. -/
def RowId.served (r : RowId) : List RowId :=
  if r.isCheck then (List.range 31).map fun i => { r with bank := r.bank ^^^ 8, row := r.row / 32 * 32 + i } else [r]

/-- The blocks that a failed row withdraws, but those withdrawn already. -/
def State.rowBlocks (s : State) (p g : Nat) (r : RowId) : List Nat :=
  r.served.foldl (fun l q => match s.unitAt p g q with
    | some u => if l.contains (u / 32) || (s.withdrawn p).contains (u / 32) then l else l ++ [u / 32]
    | none => l) []

/-- The blocks of a failed row leave service: no page is placed there any more, the pages with a granule in them move, and once they are
empty they are listed, counted and recorded. -/
def retireRow (g : Nat) (r : RowId) (s : State) : State :=
  let s := touchRow g r s
  let m := s.mcg g
  let s := s.setMcg g { m with failed := m.failed.filter fun q => q != r, ceNotes := m.ceNotes.filter fun x => x.row != r }
  match s.partOfMcg g with
  | none => s
  | some p =>
    let bs := s.rowBlocks p g r
    if bs.isEmpty then s
    else
      let pgs := bs.foldl (fun l b => l ++ (s.pagesIn p b).filter fun pg => !l.contains pg) []
      let s := s.setMcg g { s.mcg g with retiring := (s.mcg g).retiring ++ [(r, bs)] }
      let s := pgs.foldl (fun t pg => leaveBlock p pg t) s
      offerChanged (finishRetire g (reclaimBlocks p s))

/-- The first failed row that Table 9.8 remaps. -/
def Mcg.toRemap (m : Mcg) : Option (RowId × Nat) :=
  m.failed.findSome? fun r => if m.remapped r then none else (m.freeSpare r.ch).map fun k => (r, k)

/-- The first failed row that Table 9.8 retires. -/
def Mcg.toRetire (m : Mcg) : Option RowId := m.failed.find? fun r => m.remapped r || (m.freeSpare r.ch).isNone

/-- ROW_REMAP. -/
def rowRemap (g : Nat) (s : State) : State :=
  match s.mcgUp g, (s.mcg g).toRemap with
  | true, some (r, k) => remapRow g r k s
  | _, _ => s

/-- ROW_RETIRE: an original row of a package without spares also marks the package degraded. -/
def rowRetire (g : Nat) (s : State) : State :=
  match s.mcgUp g, (s.mcg g).toRetire with
  | true, some r => retireRow g r (if (s.mcg g).remapped r then s else markDegraded g r.ch s)
  | _, _ => s

/-! ### Reinitialisation and channel test (R381, R463, R464) -/

/-- MCG_REINIT: every rank is written with zeros and check words, and ready is set. -/
def mcgReinit (g : Nat) (s : State) : State :=
  let m := s.mcg g
  if s.mcgUp g && m.reinit then
    (s.setMcg g { m with reinit := false }).setFld (F.mcgStatusReady g) 1
  else s

/-- hPPR repairs of the remapped rows of a channel (R289): a repaired row is original again and its spare is free; a failed repair
leaves the remap and is recorded. -/
def pprChannel (g ch : Nat) (fails : List Nat) (s : State) : State :=
  if !s.on (F.mcgConfigPprFitted g) then s
  else
    let m := s.mcg g
    let mine := (m.remaps.filter fun r => r.row.ch == ch).zipIdx
    let kept := (mine.filter fun x => fails.contains x.2).map (·.1)
    let s := refreshMcg g (s.setMcg g { m with remaps := (m.remaps.filter fun r => r.row.ch != ch) ++ kept })
    kept.foldl (fun t r => errRecord { bank := 0x40 + g, unit := ch, cause := 5, cls := 0, address := rowIndex r.row 0, part := t.partOfMcg g } t) s

/-- A row that fails its patterns in the test stays redirected, or is handled as a remapped row is (Table 9.8). -/
def testFailed (g : Nat) (r : RowId) (s : State) : State :=
  let m := s.mcg g
  if m.remapped r then retireRow g r s
  else match m.freeSpare r.ch with
    | some k => remapRow g r k s
    | none => retireRow g r (markDegraded g r.ch s)

/-- The first `rows` rows of a channel are touched: the groups of its data rows, and those that its check rows serve. -/
def Mcg.initRows (m : Mcg) (ranks bankRows ch rows : Nat) : Mcg :=
  let per := bankRows / 32
  let base := ch * ranks * 16 * per
  let spans := (List.range (ranks * 16)).flatMap fun k =>
    let n := min bankRows (rows - k * bankRows)
    [(base + k * per, (n + 31) / 32), (base + (k ^^^ 8) * per, n / 32)]
  { m with initDone := (spans.filter fun d => d.2 != 0) ++ m.initDone }

/-- CHANNEL_TEST: every row of a channel, through a free spare row; refused with NO_SPARE or BUSY. -/
def channelTest (g ch : Nat) (run : TestRun) (s : State) : State :=
  if s.on (F.mcgTestBusy g) then s.setFld (F.mcgTestStatus g) 2
  else if !(s.mcg g).fitted || ((s.mcg g).freeSpare ch).isNone then s.setFld (F.mcgTestStatus g) 1
  else
    let s := pprChannel g ch run.pprFails s
    let total := s.channelRows g
    let rows := match run.stillAt with | some n => min n (total - 1) | none => total
    let s := showInit g (s.setMcg g ((s.mcg g).initRows (s.mcgRanks g) (s.bankRows g) ch rows))
    let done (r : RowId) : Bool := decide (r.row < s.bankRows g) && decide ((r.rank * 16 + r.bank) * s.bankRows g + r.row < rows)
    let bad := (run.bad.map fun x => ({ ch := ch, rank := x.1, bank := x.2.1, row := x.2.2 } : RowId)).filter done
    let s := meetRows (fun h q => h == g && q.ch == ch && done q) s
    let s := bad.foldl (fun t r => testFailed g r t) s
    let s := s.setReg (.mcgTestRow g) (BitVec.ofNat 32 rows)
    let s := s.setMcg g { s.mcg g with test := if run.stillAt.isSome then some ch else none }
    (s.setFld (F.mcgTestBusy g) (boolNat run.stillAt.isSome)).setFld (F.mcgTestStatus g) 0

/-- The test ends after the current row is restored. -/
def stopChannelTest (g : Nat) (s : State) : State :=
  if s.on (F.mcgTestBusy g) then
    ((s.setMcg g { s.mcg g with test := none }).setFld (F.mcgTestBusy g) 0).setFld (F.mcgTestStatus g) 3
  else s

/-! ### The rows -/

def execCheckGroupInit (g : Fin 24) (s : State) : Res := go s (checkGroupInit g)
def execRefresh (g : Fin 24) (rank : Fin 2) (bank : Nat) (s : State) : Res := go s (refreshBank g rank bank)
def execRefreshRateRead (g : Fin 24) (reports : List RateReport) (s : State) : Res := go s (refreshRateRead g reports)
def execOscillatorCheck (g : Fin 24) (drift : List Nat) (s : State) : Res := go s (oscillatorCheck g drift)
def execRankPowerDown (g : Fin 24) (s : State) : Res := go s (rankPowerDown g)
def execPatrolScrub (g : Fin 24) (found : ScrubRead) (s : State) : Res := go s (patrolScrub g found)
def execRowRemap (g : Fin 24) (s : State) : Res := go s (rowRemap g)
def execRowRetire (g : Fin 24) (s : State) : Res := go s (rowRetire g)
def execMcgReinit (g : Fin 24) (s : State) : Res := go s (mcgReinit g)
def execChannelTest (g : Fin 24) (ch : Fin 4) (run : TestRun) (s : State) : Res := go s (onWrite (.mcgTest g) (channelTest g ch run))
def execChannelTestStop (g : Fin 24) (s : State) : Res := go s (onWrite (.mcgTest g) (stopChannelTest g))

end Sys2Proof.Machine
end

