-- ==== Sys2Proof/Machine/Restart.lean ====
section
/-! DEFINITION. How a partition starts and starts anew: image defaults, the retained overlay, image-mapped pages, the layout block
(Table 14.2 step 9, R503), and the partial reset of Table 15.7. -/
namespace Sys2Proof.Machine

/-! ### Register values that the image gives (R432, R435, R437) -/

/-- The image default of a register: its reset column under the image's REG_DEFAULT records. -/
def imageDefault (c : CfgImage) (r : Reg) : Word :=
  c.regDefaults.foldl (fun w d => if d.1 = r.addr then (w &&& ~~~d.2.2) ||| (d.2.1 &&& d.2.2) else w) r.resetWord

/-- The fields of a register that software may write return to their image defaults. -/
def toDefault (c : CfgImage) (r : Reg) (s : State) : State :=
  s.setReg r ((s.reg r &&& ~~~r.rwMask) ||| (imageDefault c r &&& r.rwMask))

/-- What groups 0x02 and 0x03 of the image say of a partition. -/
def partImage (p : Nat) (x : PartCfg) (s : State) : State :=
  let s := (s.setFld (F.spnRangeBase p) x.rangeBase).setFld (F.spnRangeSizeSize p) x.rangeSize
  let s := (s.setFld (F.spnT0PinPinMib p) x.pinMib).setReg (.spnLend p) (x.lend &&& (Reg.spnLend p).rwMask)
  let s := (x.policies.take 4).zipIdx.foldl (fun t w => t.setReg (.spnPolicy p w.2) (w.1 &&& (Reg.spnPolicy p w.2).rwMask)) s
  let s := (s.setFld (F.cxePartLayoutLoLayoutLo p) x.layoutAddr).setFld (F.cxePartLayoutHiLayoutHi p) (x.layoutAddr / 2 ^ 32)
  (s.setFld (F.cxePartIdsLiveFirst p) x.liveFirst).setFld (F.cxePartIdsLiveCount p) x.liveCount

/-- One overlay entry is written under the entry's field masks; a refused one is dropped and logged (R434). The point of PWR_DVFS is
taken whole, voltage first, then clock: a clock faster than the voltage supports is refused (R384). -/
def overlayWrite (a : Nat) (v : Word) (s : State) : State :=
  match regAt a with
  | some .pwrDvfs =>
    let pt := wordField v 2 2
    let s := (requestVoltage pt (s.setFld F.pwrDvfsVPt pt)).setFld F.pwrDvfsVConf pt
    if wordField v 0 2 < pt then dropLogged a (s.setFld F.pwrDvfsRefused 1) else s.setFld F.pwrDvfsClkPt (wordField v 0 2)
  | some r =>
    let tight := match r with | .spnWindow p => s.windowTight p v | _ => false
    if !r.retained || tight && v &&& r.rwMask != s.reg r &&& r.rwMask then dropLogged a s
    else s.setReg r ((s.reg r &&& ~~~r.rwMask) ||| (v &&& r.rwMask))
  | none => dropLogged a s

/-- The overlay's entries for some registers, in address order with PWR_DVFS last (R437). -/
def applyOverlay (which : Option Reg → Bool) (s : State) : State :=
  let dvfs := Reg.pwrDvfs.addr
  let es := s.aoc.overlay.entries.filter fun e => which (regAt e.1)
  (es.filter (fun e => e.1 != dvfs) ++ es.filter (fun e => e.1 == dvfs)).foldl (fun t e => overlayWrite e.1 e.2 t) s

/-! ### Pages, layout block and rings of a partition (R503, R200, Table 14.2 step 9) -/

/-- The span pages that the image maps, in image order; one record for each that finds no home. -/
def imagePages (p : Nat) (x : PartCfg) (s : State) : State :=
  x.pages.foldl (fun t e =>
    match mapOne p e.2 e.1 t with
    | (u, none) => u
    | (u, some why) => if why = spnMapped then u else
        errRecord { bank := 6, unit := p, cause := 4, cls := 1, part := some p, address := e.1 * 65536 } u) s

/-- The bytes that the image places in mapped pages. -/
def imageContent (x : PartCfg) (s : State) : State :=
  x.content.foldl (fun t e => if (t.page (e.1 / 65536)).takes then { t with mem := memPut t.mem e.1 e.2 } else t) s

/-- Every ring of a partition is reset (R141). -/
def resetRings (p : Nat) (s : State) : State :=
  let s := (List.range 16).foldl (fun t r => t.setFld (F.jobRingSeqNextSeq p r) 1) s
  { s with rings := s.rings.filter fun b => b.1 / 2 ^ 20 != p }

def startPartition (p : Nat) (x : PartCfg) (s : State) : State :=
  resetRings p (readLayout p (imageContent x (imagePages p x s)))

/-! ### Partial reset (R464, R171, R381) -/

/-- The registers that software writes and that belong to a partition: its own blocks, its cores and its MCGs. -/
def State.partRegs (s : State) (p : Nat) : List Reg :=
  [.spnT1Water p, .spnWindow p, .spnStreamLo p, .spnStreamHi p, .spnStreamLen p, .spnLend p, .spnCmdAddrLo p, .spnCmdAddrHi p,
   .spnCmdCount p, .jobStashQuota p, .cxeStarveCtrl p, .secCmdLo p, .secCmdHi p, .secAttCtrl p, .rdeMirAreaLo p, .rdeMirAreaHi p,
   .rdeMirLen p, .rdePairPlen p, .rdePairMlen p]
  ++ (List.range 4).map (.spnPolicy p) ++ (List.range 16).map (.jobRingCtrl p) ++ (List.range 8).map (.secAttNonce p)
  ++ ((List.range 4).filter fun c => (s.partCores p).testBit c).flatMap (fun c => [Reg.coreRngCtrl c, .engCtrl (2 * c), .engCtrl (2 * c + 1)])
  ++ ((List.range 24).filter fun g => (s.partMcgs p).testBit g).flatMap (fun g => [Reg.mcgScrubCtrl g, .mcgRemapCtrl g])

def State.partCoreList (s : State) (p : Nat) : List Nat := (List.range 4).filter fun c => (s.partCores p).testBit c

/-- Step 1: content and memory keys of the partition are destroyed. -/
def resetKeys (p : Nat) (s : State) : State :=
  { s with sec := { s.sec with content := s.sec.content.filter fun k => k.1 / 64 != p
                               memKeys := s.sec.memKeys.filter fun k => k.1 / 16 != p } }

/-- Step 2: a running job ends; the other members of its group are told (R314), and its end is recorded without a completion record. -/
def resetJob (k : Nat) (s : State) : State :=
  match s.job k with
  | none => s
  | some j =>
    let s := (j.cores.flatMap engsOf).foldl (fun t e => abandonEngine e 5 t) s
    let job := j.record.collJob % 4096
    let att := j.train.attempt % 2 ^ 32
    let s := if j.grouped then
        floodFrame 4 { noFrame with job := job, attempt := att, blockFirst := 4096 }
          { s with rde := { s.rde with aborts := (job, att, 4096) :: s.rde.aborts } }
      else s
    let s := if j.grouped && s.isMaster then groupEvent 6 s.position 0xFFFF job j.train.step att s else s
    let s := stopUnits j (dropColls k job s)
    let s := { s with rde := { s.rde with barriers := s.rde.barriers.filter fun b => b.job != job } }
    freeJob k 0x16 (unreported j 0x16 s)

/-- A self-test stops without a result (R459); one that an unfence started leaves the engine fenced. -/
def abortSelfTest (e : Nat) (s : State) : State :=
  if s.fld (F.engStatusState e) = 5 then
    ((s.setFld (F.engStatusState e) (if (s.eng e).unfencing then 6 else 0)).setFld (F.engTestResult e) 3).setEng e { s.eng e with unfencing := false }
  else s

/-- Step 3: queue pairs, tenant slots, self-tests and channel tests. -/
def resetUnits (p : Nat) (s : State) : State :=
  let qs := s.qpList.filter fun q => s.fld (F.qpPartPartition q) == p && s.qpState q != 4
  let s := (qs.foldl (fun t q => qpError q t) s).setReg (.secPartTs p) 0
  let s := ((s.partCoreList p).flatMap engsOf).foldl (fun t e => abortSelfTest e t) s
  (s.partMcgList p).foldl (fun t g => stopChannelTest g t) s

/-- Step 4: the CXE holds nothing of the partition; its pages are counted as reclaimed. -/
def resetCxe (p : Nat) (s : State) : State :=
  let n := (s.cxp p).pages.length
  { (s.setCxp p CxPart.empty).bump (F.ldgReclaimKvPages p) n with stalled := s.stalled.filter fun x => x.part != p }

/-- Steps 4 and 5: every span page goes, granules at lenders with FREE, those lent to others with them; T0 and T1 hold zeros. -/
def resetSpan (p : Nat) (s : State) : State :=
  let pgs := s.partPages p
  let t2 := (pgs.filter fun x => x.2.home == .t2).foldl (fun n x => n + x.2.t2Granules) 0
  let lent := s.lentGranules p
  let s := pgs.foldl (fun t x => unmapPage p x.1 t) s
  let s := addLent (-(lent : Int)) { s with lentPages := s.lentPages.filter fun x => x.1 / 2 ^ 30 != p, poolCut := tabDel s.poolCut p }
  let s := (s.bump (F.ldgReclaimSpanPages p) pgs.length).bump F.ldgReclaimGrGranules (t2 + lent)
  let inside (a : Nat) : Bool := inRange (s.range p) a 1
  let s := s.setFld (F.spnCmdStatusBusy p) 0
  { s with mem := s.mem.filter fun b => !inside b.1, poison := s.poison.filter fun w => !inside (w * 32)
           upsets := s.upsets.filter fun w => !inside (w.1 * 32), flips := s.flips.filter fun f => !inside (f.1 / 1024 * 65536)
           spnRuns := tabDel s.spnRuns p
           xlat := { entries := s.xlat.entries.filter fun k => k.1 != p, tops := s.xlat.tops.filter fun k => k.1 != p }, mapped := tabDel s.mapped p, streams := tabDel s.streams p
           stashes := tabDel s.stashes p, layerAcc := s.layerAcc.filter fun x => x.1 / 65536 != p }

/-- Step 6: registers, pages, layout block, scale history and key as a start gives them. -/
def resetRegs (p : Nat) (s : State) : State :=
  match s.cfg.bind fun c => (c.parts[p]?).map fun x => (c, x) with
  | none => s
  | some (c, x) =>
    let rs := s.partRegs p
    let s := partImage p x s
    let s := rs.foldl (fun t r => match r with
      | .spnPolicy _ _ | .spnLend _ => if c.regDefaults.any fun d => d.1 == r.addr then toDefault c r t else t
      | _ => toDefault c r t) s
    let s := applyOverlay (fun r => match r with | some r => rs.contains r | none => false) s
    let s := startPartition p x s
    let hs := match tabFind s.flash.mirror.histories p with | some h => tabPut s.histories p h | none => tabDel s.histories p
    newPartKey p { s with histories := hs }

/-- Step 7: the partition's MCGs write their ranks anew (R381). -/
def reinitMcgs (p : Nat) (s : State) : State :=
  (s.partMcgList p).foldl (fun t g =>
    let m := t.mcg g
    if m.fitted then showInit g ((t.setMcg g { m with reinit := true, initNext := m.groups, initDone := [], checks := [], retiring := [] }).setFld (F.mcgStatusReady g) 0)
    else t) s

/-- What a partition loses and comes back with, whether by a partial reset or by a Dawn that did not keep its memory. -/
def renewPartition (p : Nat) (s : State) : State := offerChanged (reinitMcgs p (resetRegs p (resetSpan p (resetCxe p s))))

/-- Steps 1 to 7 of Table 15.7. -/
def runReset (p : Nat) (s : State) : State :=
  let s := resetKeys p s
  let ks := (s.jobs.filter fun j => j.2.part == p).map (·.1)
  let s := ks.foldl (fun t k => resetJob k t) s
  renewPartition p (resetUnits p s)

/-- PARTIAL_RESET: one bit of ERR_PRESET; the write is dropped and logged while the device is halted or the partition resets. -/
def partialReset (mask : Nat) (s : State) : State :=
  (List.range 4).foldl (fun t p =>
    if !mask.testBit p || !t.partValid p then t
    else if t.on F.errStatusHalted || t.resetting p then dropLogged Reg.errPreset.addr t
    else runReset p t) s

def execPartialReset (mask : BitVec 4) (s : State) : Res :=
  go s (onWrite .errPreset fun t => settleColls (partialReset mask.toNat t))

end Sys2Proof.Machine
end

