-- ==== Sys2Proof/Machine/Boot.lean ====
section
/-! DEFINITION. Reset, cold start and the boot-failure state (R425 to R432, R437, R444, R485 to R487, R493, R397). A cold start is
one act: it runs the steps of Table 14.2 up to ready or to the step that fails. -/
namespace Sys2Proof.Machine

/-! ### Reset -/

/-- The device in reset: what lies in VDD_AON, the fuses and the flash stays; everything else is lost (R487, R397, R443, R437). -/
def resetDevice (m : Mode) (s : State) : State :=
  let a := s.aoc
  { State.reset with
    pending := s.pending, clock := { s.clock with fclk := 0 }, tx := s.tx, fuses := s.fuses, flash := s.flash, saves := s.saves, tap := s.tap
    aoc := { Aoc.empty with mode := m, life := a.life, overlay := a.overlay, overlayKept := a.overlayKept, overlayDirty := a.overlayDirty,
                            logNext := a.logNext, pgHigh := a.pgHigh, brakeLow := a.brakeLow, thermTripLow := a.thermTripLow,
                            warmLow := a.warmLow, alerts := a.alerts, tripSincePorst := a.tripSincePorst } }

def State.setAoc (s : State) (a : Aoc) : State := { s with aoc := a }

/-- PORST_N falls: THERMTRIP_N is released. -/
def porstAssert (s : State) : State :=
  if s.aoc.mode == .off then s
  else resetDevice .reset (s.setAoc { s.aoc with thermTripLow := false, tripSincePorst := false })

/-- WARM_N falls: it governs only while PORST_N is high, and not while THERMTRIP_N is low (R485). -/
def warmAssert (s : State) : State :=
  let s := s.setAoc { s.aoc with warmLow := true }
  if s.aoc.mode == .off || s.aoc.mode == .reset || s.aoc.thermTripLow then s else resetDevice .warmReset s

/-- A PG input falls: the device resets as PORST_N low does (R486). -/
def powerGoodLoss (s : State) : State := porstAssert s

/-- THERMAL_TRIP (R397): everything but the AOC stops, and THERMTRIP_N is held low until PORST_N; with PORST_N low it is released (R487). -/
def thermalTrip (s : State) : State :=
  if s.aoc.mode == .off then s
  else
    let a := s.aoc
    let s := (s.setAoc { a with life := { a.life with trips := a.life.trips + 1, tripLastHour := true } }).alert 5
    if a.mode == .reset then s
    else resetDevice .tripped (s.setAoc { s.aoc with thermTripLow := true, tripSincePorst := true })

/-- POWER_UP (R493, R443): the rails come up from Off. What VDD_AON held is lost. -/
def powerUp (s : State) : State :=
  { State.reset with
    pending := s.pending, clock := { freeIdx := s.clock.freeIdx, fclk := 0, calendar := 0, calValid := false, powered := 0 }
    tx := s.tx, fuses := s.fuses, flash := s.flash, saves := s.saves
    aoc := { Aoc.empty with brakeLow := s.aoc.brakeLow, warmLow := s.aoc.warmLow } }

/-! ### Slots (R426, R427) -/

/-- Which slot boots (true is B), and whether the one of higher generation was committed but failed. -/
def selectSlot (comA comB okA okB : Bool) (genA genB : Nat) : Option (Bool × Bool) :=
  let bFirst := decide (genA < genB)
  match bFirst, comA && okA, comB && okB with
  | true, _, true => some (true, false)
  | true, true, false => some (false, comB)
  | false, true, _ => some (false, false)
  | false, false, true => some (true, comA)
  | _, false, false => none

/-- The boot header: setup record and vendor key (Table 14.1). -/
def Flash.header (f : Flash) : List Byte := padTo 64 f.setup ++ padTo 1312 f.vendorKey

def pickFw (f : Flash) : Option (Bool × Bool) :=
  let ok (x : FwSlot) : Bool := match x.image with | some i => i.sigOk | none => false
  selectSlot (f.fwA.state == .committed) (f.fwB.state == .committed) (ok f.fwA) (ok f.fwB) f.fwA.generation f.fwB.generation

/-- No two of the list share a bit. -/
def disjointMasks : List Nat → Bool
  | [] => true
  | x :: l => l.all (fun y => x &&& y == 0) && disjointMasks l

/-- No two intervals (first, length) of the list overlap. -/
def disjointRanges : List (Nat × Nat) → Bool
  | [] => true
  | x :: l => l.all (fun y => decide (x.1 + x.2 ≤ y.1) || decide (y.1 + y.2 ≤ x.1) || x.2 == 0 || y.2 == 0) && disjointRanges l

/-- The ranges of a partition's records: span range (R233), tenant slots (R404), pinned area (R239), live IDs (R203). -/
def partFits (x : PartCfg) : Bool :=
  let q := popCount x.quarters.toNat 4
  decide (x.rangeSize ≤ 2 ^ 22) && decide (x.rangeBase + x.rangeSize ≤ 2 ^ 24) && decide (x.slotsLog2 ≤ 4)
  && decide (x.rangeSize % 2 ^ x.slotsLog2 = 0)
  && decide (x.pinMib + 16 + 4 + 8 * q ≤ 128 * q) && decide (x.liveFirst + x.liveCount ≤ 4096)

/-- R401 and R27: partitions are disjoint and have their minimum; a pair is one partition on a fully populated SPA8800 (R25): 24 packages of
64 GiB, sixteen ports of 8 lanes, four host ports. -/
def cfgFits (c : CfgImage) (f : Fuses) (env : BootEnv) : Bool :=
  decide (1 ≤ c.parts.length) && decide (c.parts.length ≤ 4)
  && disjointMasks (c.parts.map fun x => x.cores.toNat) && disjointMasks (c.parts.map fun x => x.quarters.toNat)
  && disjointMasks (c.parts.map fun x => x.mcgs.toNat) && disjointMasks (c.parts.map fun x => x.eps.toNat)
  && disjointRanges (c.parts.map fun x => (x.rangeBase, x.rangeSize)) && disjointRanges (c.parts.map fun x => (x.liveFirst, x.liveCount))
  && c.parts.zipIdx.all (fun x => x.1.cores != 0 && x.1.quarters != 0 && x.1.mcgs != 0 && x.1.rangeSize != 0
       && (c.qps.any fun q => q.part == x.2) && (c.mws.any fun w => wordField w.attr 2 2 == x.2))
  && (!c.pair || (c.parts.length == 1 && f.mePresent == 0xFF && f.grade == 0 && env.fitted == 0xFFFFFF
       && (List.range 24).all (fun g => natAt env.packages g / 4 % 4 == 3) && env.ports.all (fun x => x.lanes == 0xFF)
       && env.hostLinks == 0xF))
  && disjointMasks ((List.range 4).map fun p => (c.qps.filter (·.part == p)).foldl (fun m q => m ||| 2 ^ q.q) 0)
  && disjointMasks ((List.range 4).map fun p => (c.mws.filter fun w => wordField w.attr 2 2 == p).foldl (fun m w => m ||| 2 ^ w.w) 0)
  && c.parts.all partFits && (c.qps.all fun q => decide (q.part < c.parts.length))
  && (c.mws.all fun w => decide (wordField w.attr 2 2 < c.parts.length))

def pickCfg (s : State) (env : BootEnv) : Option (Bool × Bool) :=
  let f := s.flash
  let ok (x : CfgSlot) : Bool := match x.image with
    | some i => cfgAccepted i (s.fld F.lifFwVersionRunning) && cfgFits i s.fuses env
    | none => false
  selectSlot (f.cfgA.state == .committed) (f.cfgB.state == .committed) (ok f.cfgA) (ok f.cfgB) f.cfgA.generation f.cfgB.generation

/-! ### What the image sets (R428 to R432) -/

/-- Retention groups 8q of the quarters that partitions own: always retained (R238). -/
def State.systemGroups (s : State) : Nat :=
  (List.range 4).foldl (fun m q => if (List.range 4).any fun p => s.partValid p && (s.partQuarters p).testBit q then m + 2 ^ (8 * q) else m) 0

/-- A record of group 0x05 sets its part of a host port (R431). -/
def hostSet (c : CfgImage) (r : HostRecord) : CfgImage :=
  let on (f : HostCfg → HostCfg) : CfgImage := { c with hosts := c.hosts.zipIdx.map fun x => if x.2 = r.host then f x.1 else x.1 }
  match r.what with
  | .port mode cr => on fun h => { h with mode := mode, cr := cr }
  | .addresses mac a p b q => on fun h => { h with mac := mac, ipv4 := a, prefix4 := p, ipv6 := b, prefix6 := q }
  | .gateways a b => on fun h => { h with gw4 := a, gw6 := b }
  | .vlan id pcp => on fun h => { h with vlan := id, pcp := pcp }
  | .neighbour ip mac => on fun h => { h with neighbours := h.neighbours ++ [(ip, mac)] }
  | .listening => { c with listen := r.host }
  | .wake port code => on fun h => { h with wakePort := port, wakeCode := code }

/-- The image for the position on POS_ID: of group 0x05 the records whose selector names it, or is 0x3F, in image order (R431). -/
def forBoard (pins : Nat) (c : CfgImage) : CfgImage :=
  (c.hostRecords.filter fun r => r.selector == pins || r.selector == 0x3F).foldl hostSet c

/-- Partitions, fabric, ports, queue pairs and windows, as the image's groups name them. -/
def applyImage (image : CfgImage) (env : BootEnv) (s : State) : State :=
  let c := forBoard env.posPins.toNat image
  let s := { s with cfg := some c, sec := { s.sec with mConfig := c.m } }
  let pos := (c.posBase + if c.pinMode then env.posPins.toNat else 0) % 4096
  let s := (s.setFld F.glbPosPosCold pos).setFld F.glbPosPinMode (boolNat c.pinMode)
  let s := ((s.setFld F.rdeGroupPosition (if c.pair && c.pairShadow then noPosition else pos)).setFld F.rdeGroupSize c.groupSize).setFld F.rdeMasterNamed c.named
  let s := c.plans.zipIdx.foldl (fun t x =>
    (List.range 16).foldl (fun u w => u.setFld (F.rdePlanPlan x.2 w) (leAt x.1 (4 * w) 4)) t) s
  let s := { s with rde := { s.rde with live := c.members ++ c.roster.map (·.spare) } }
  let s := if c.pair then
      [14, 15].foldl (fun t e => (t.setFld (F.lnkStatusPair e) 1).setFld (F.rdePeerPair e) 1)
        (s.setFld F.rdeStatusPairState (if c.pairShadow then 2 else 1))
    else s
  let s := c.parts.zipIdx.foldl (fun t x =>
    let p := x.2
    let t := t.setReg (.secPartCfg p) (BitVec.ofNat 32 (x.1.cores.toNat + x.1.quarters.toNat * 16 + boolNat x.1.guarded * 256
      + x.1.slotsLog2 % 8 * 512 + 4096))
    let t := (t.setFld (F.secPartMcgMcgs p) x.1.mcgs.toNat).setFld (F.secPartEpPorts p) x.1.eps.toNat
    partImage p x.1 (t.setFld (F.jobTableKeyKey p) x.1.tableKey.toNat)) s
  let s := c.vcAlloc.zipIdx.foldl (fun t x => x.1.zipIdx.foldl (fun u a => u.setFld (F.lnkVcCredAlloc x.2 a.2) a.1) t) s
  let s := c.hosts.zipIdx.foldl (fun t x =>
    let t := ((t.setFld (F.hptStatusMode x.2) x.1.mode).setFld (F.hptStatusCr x.2) (boolNat x.1.cr)).setFld (F.hptPfcPcp x.2) x.1.pcp
    t.setHp x.2 { t.hp x.2 with neigh := x.1.neighbours.map fun n => (n.1, n.2, true) }) s
  let s := s.setFld F.pwrWakeListen c.listen
  let s := c.qps.foldl (fun t x =>
    ((t.setFld (F.qpPartPartition x.q) x.part).setFld (F.qpPartPort x.q) x.port).setFld (F.qpPartMgmt x.q) (boolNat x.mgmt)) s
  let s := c.mws.foldl (fun t x =>
    let t := ((t.setReg (.mwKey x.w) x.key).setReg (.mwAttr x.w) (x.attr &&& 0x7F)).setReg (.mwLen x.w) (BitVec.ofNat 32 x.len)
    let t := (t.setReg (.mwBaseLo x.w) (BitVec.ofNat 32 x.base)).setReg (.mwBaseHi x.w) (BitVec.ofNat 32 (x.base / 2 ^ 32 % 2 ^ 20))
    (t.setReg (.mwVaLo x.w) (BitVec.ofNat 32 x.va)).setReg (.mwVaHi x.w) (BitVec.ofNat 32 (x.va / 2 ^ 32))) s
  let s := s.setReg .spnCsRetain (BitVec.ofNat 32 s.systemGroups)
  let s := c.regDefaults.foldl (fun t d => match regAt d.1 with
    | some r => t.setReg r ((t.reg r &&& ~~~d.2.2) ||| (d.2.1 &&& d.2.2))
    | none => t) s
  s.setFld F.glbBootIgnRecords (min 255 c.ignored)

/-! ### Step 5: retained state (R437, R439, R444) -/

/-- The overlay's bytes (Table 14.7). -/
def Overlay.bytes (o : Overlay) : List Byte :=
  let h := leBytes 4 0x53504F56 ++ leBytes 2 1 ++ leBytes 2 0 ++ leBytes 4 o.entries.length ++ leBytes 4 o.seq ++ padTo 32 o.imageHash
  let es := o.entries.flatMap fun e => leBytes 4 e.1 ++ leBytes 4 e.2.toNat
  h ++ sha3 (h ++ es) ++ List.replicate 48 (0 : Byte) ++ es

/-- The overlay is taken from the AOC's SRAM or the mirror, checked, and applied. -/
def bootOverlay (s : State) : State :=
  let a := s.aoc
  let hash := s.sec.mConfig
  let sound (o : Overlay) : Bool := o.checkOk && o.imageHash == hash
  let kept := if a.overlayKept then some a.overlay else none
  let cand := match kept with
    | some o => if sound o then some o else s.flash.mirror.overlay.or kept
    | none => s.flash.mirror.overlay
  let fresh : Overlay := { Overlay.empty with imageHash := hash }
  let (o, code) := match cand with
    | none => (fresh, 0)
    | some o => if !o.checkOk then (fresh, 2) else if o.imageHash != hash then (fresh, 3) else (o, 1)
  let s := s.setAoc { a with overlay := o, overlayKept := true }
  let s := (s.setFld F.glbBootOverlay code).setFld F.lifOvlStatusEntries o.entries.length
  if code = 1 then
    applyOverlay (fun _ => true) { s with sec := { s.sec with mOverlay := sha3 o.bytes, overlayApplied := true } }
  else { s with sec := { s.sec with mOverlay := List.replicate 32 0, overlayApplied := false } }

/-- The newest life log record that its check confirms. -/
def Flash.newest (f : Flash) : Option (List Byte) :=
  f.log.foldl (fun (b : Option (List Byte)) r =>
    if leAt r.2 0x3C 4 != crc32c (r.2.take 0x3C) then b
    else match b with
      | some x => if leAt x 4 4 < leAt r.2 4 4 then some r.2 else b
      | none => some r.2) none

/-- After a loss of VDD_AON the life counters come from the later of the newest record and the snapshot; what was counted since the
power came up is added (R444). -/
def bootLife (s : State) : State :=
  let a := s.aoc
  if a.overlayKept then s
  else
    let rec' := s.flash.newest
    let (l, t) := s.flash.mirror.life.getD (Life.empty, 0)
    let (l, t) := match rec' with
      | some r => if t ≤ leAt r 0x10 4 then ({ l with boots := leAt r 0x14 4, energyUj := leAt r 0x18 8 * 1000000 }, leAt r 0x10 4) else (l, t)
      | none => (l, t)
    let next := match rec' with | some r => leAt r 4 4 + 1 | none => 0
    { s with
      aoc := { a with logNext := next, life := { l with
        boots := l.boots + a.life.boots, energyUj := l.energyUj + a.life.energyUj, trips := l.trips + a.life.trips
        warnings := l.warnings + a.life.warnings, tripLastHour := a.life.tripLastHour
        fallbackBoots := l.fallbackBoots + a.life.fallbackBoots, throttleUs := l.throttleUs + a.life.throttleUs
        busyNs := (List.range 8).map fun e => natAt l.busyNs e + natAt a.life.busyNs e } }
      clock := { s.clock with powered := s.clock.powered + t } }

/-! ### Steps 6 to 10 -/

/-- Spares for the banks of the central store that fail their test: banks 256 to 263 are the spares (R461, R462). -/
def bootBanks (bad : List Nat) (s : State) : State :=
  let spares := ((List.range 8).map (· + 256)).filter fun b => !bad.contains b
  let failed := (List.range 256).filter fun b => bad.contains b
  let s := { s with err := { s.err with csMap := failed.zip spares, csSpares := spares.drop failed.length } }
  let s := s.setFld F.csRetireSpares (spares.length - failed.length)
  (failed.drop spares.length).foldl (fun t b => errRecord { bank := 7, unit := b, cause := 5, cls := 1 } t) s

/-- The package of an MCG is fitted, and of the density and the rate of the first one on the board (R26, R268). -/
def packageSuits (env : BootEnv) (g : Nat) : Bool :=
  let first := ((List.range 24).find? fun h => env.fitted.toNat.testBit h).getD g
  env.fitted.toNat.testBit g && natAt env.packages g % 16 == natAt env.packages first % 16

/-- The training of R270 leaves its values in the AOC's retained SRAM (R273). -/
def trainChannel (ch : Nat) (s : State) : State :=
  { s.spend with aoc := { s.aoc with trained := tabPut s.aoc.trained ch (Config.value s.clock.freeIdx) } }

/-- Step 7 for one MCG: trained and restored, every check group marked, ready (R270, R271). An MCG without a package, or with one unlike
the others, fails training on every channel (R26). -/
def bootMcg (env : BootEnv) (g : Nat) (s : State) : State :=
  let s := if env.fitted.toNat.testBit g then s.setReg (.mcgConfig g) (BitVec.ofNat 32 (natAt env.packages g % 32)) else s
  let bad := (List.range 4).filter fun c => !packageSuits env g || env.chFail.contains (4 * g + c)
  if bad.isEmpty then
    let s := (List.range 4).foldl (fun t c => trainChannel (4 * g + c) t) s
    let snap := (tabFind s.flash.mirror.mcgs g).getD { remaps := [], retired := [], degraded := false }
    let n := s.checkGroups g
    let s := s.setMcg g { Mcg.empty with fitted := true, groups := n, remaps := snap.remaps, retired := snap.retired }
    let s := (s.setFld (F.mcgStatusReady g) 1).setFld (F.mcgStatusDegraded g) (boolNat snap.degraded)
    showInit g (refreshMcg g s)
  else
    bad.foldl (fun t c => errRecord { bank := 0x40 + g, unit := c, cause := 0x0A, cls := 3, part := t.partOfMcg g } t)
      (s.setFld (F.mcgStatusTrainFail g) 1)

/-- The peer acknowledges every flit sent so far, and more go out. -/
def trainRound (e : Nat) (s : State) : State := pump e (s.setEp e { s.ep e with replay := [] })

/-- A port runs the five training steps with its partner; one that does not come up stays down; at cold start it is recorded and
taken out of service (R427, R453). -/
def trainPort (env : BootEnv) (boot : Bool) (e : Nat) (s : State) : State :=
  if s.on (F.lnkCtrlDisable e) then s.setFld (F.lnkStatusState e) 5
  else
    let x := env.ports.getD e { lanes := 0, peer := none }
    let s := trainStart e x.lanes s
    let s := match x.peer with
      | some m => if s.fld (F.lnkStatusState e) = 1 then exchange e m s else s
      | none => s
    if s.fld (F.lnkStatusState e) = 1 && (s.ep e).exchanged then
      let s := trainRound e (trainRound e (trainRound e s))
      portUp e (s.setEp e { s.ep e with rxSeq := 1025, verified := 1024 })
    else
      let s := portDown e s
      if boot then errRecord { bank := 0x20 + e, unit := 0xFFFF, cause := 4, cls := 3, part := s.partOfEp e }
        (s.setEp e { s.ep e with outOfService := true }) else s

/-! ### Cold start (R425, Table 14.2) -/

def bootStage (n : Nat) (s : State) : State := s.setFld F.glbBootStage n

/-- The boot-failure state: only the AOC runs (R427). -/
def bootFail (code : Nat) (s : State) : State :=
  let s := s.setFld F.glbBootFail code
  (s.setAoc { s.aoc with mode := .bootFailed }).alert 4

/-- Step 1: fuses and pins; the boot is counted (R444). -/
def bootStart (env : BootEnv) (s : State) : State :=
  let l := s.aoc.life
  let s := bootStage 1 ({ s with aoc := { s.aoc with mode := .running, pgHigh := env.pgHigh, life := { l with boots := l.boots + 1 } } })
  let s := (s.setFld F.glbMePresentMePresent s.fuses.mePresent.toNat).setFld F.glbMePresentGrade s.fuses.grade
  let s := (List.range 4).foldl (fun t n => t.setFld (F.glbSerialSerial n) (leAt t.fuses.serial (4 * n) 4)) s
  s.setFld F.glbPosPins env.posPins.toNat

/-- Steps 8 to 11. -/
def bootFinish (c : CfgImage) (env : BootEnv) (s : State) : State :=
  let s := (List.range 16).foldl (fun t e => trainPort env true e t) (bootStage 8 s)
  let s := c.parts.zipIdx.foldl (fun t x => startPartition x.2 x.1 t) (bootStage 9 s)
  let s := ((List.range 4).filter fun h => env.hostLinks.toNat.testBit h).foldl (fun t h => hostLinkUp h t) (bootStage 10 s)
  let s := if s.aoc.brakeLow then s.setFld F.pwrIssueBrake 1 else s
  let s := showMaster (showStaged (refreshIssue (bootStage 11 s)))
  (s.setFld F.glbBootReady 1).alert 2

/-- Steps 6 and 7. -/
def bootPower (c : CfgImage) (env : BootEnv) (s : State) : State :=
  let s := bootStage 6 s
  if !env.pgHigh || !env.pllOk then bootFail 5 s
  else
    let s := bootBanks env.csBad { s with clock := { s.clock with fclk := 0 } }
    let s := newPartKeys s
    let s := (List.range 24).foldl (fun t g => bootMcg env g t) (bootStage 7 s)
    if (List.range 24).any fun g => s.on (F.mcgStatusTrainFail g) then bootFail 6 s
    else bootFinish c env s

/-- Step 5. -/
def bootRestore (c : CfgImage) (env : BootEnv) (s : State) : State :=
  let s := bootStage 5 s
  let m := s.flash.mirror
  let s := bootOverlay (bootLife s)
  let fall := s.on F.glbBootFwFallback || s.on F.glbBootCfgFallback
  let s := s.setAoc { s.aoc with life := { s.aoc.life with fallbackBoots := s.aoc.life.fallbackBoots + boolNat fall } }
  bootPower c env { s with histories := m.histories }

/-- Steps 2 to 4, and what follows them. -/
def coldStart (env : BootEnv) (s : State) : State :=
  let s := bootStage 2 (bootStart env s)
  if !env.flashOk then bootFail 1 s
  else if sha3 s.flash.vendorKey != s.fuses.vendorHash then bootFail 2 s
  else
    let s := bootStage 3 s
    match pickFw s.flash with
    | none => bootFail 3 s
    | some (b, fb) =>
      match (s.flash.fw b).image with
      | none => bootFail 3 s
      | some i =>
        let s := { s with fw := some i, sec := { s.sec with mBoot := sha3 (s.flash.header ++ i.boot), mSec := sha3 i.sec, mSeq := sha3 i.seq } }
        let s := ((s.setFld F.glbBootFwSlot (boolNat b)).setFld F.glbBootFwFallback (boolNat fb)).setFld F.lifFwVersionRunning i.version
        let s := bootStage 4 s
        match pickCfg s env with
        | none => bootFail 4 s
        | some (d, fd) =>
          match (s.flash.cfgSlot d).image with
          | none => bootFail 4 s
          | some c =>
            let s := (s.setFld F.glbBootCfgSlot (boolNat d)).setFld F.glbBootCfgFallback (boolNat fd)
            bootRestore c env (applyImage c env s)

/-! ### Activation of firmware (R442) -/

/-- ACTIVATE_FW: the staged slot is committed, SEC and the sequencers restart with it, content keys go and partition keys are new. A
slot whose contents fail the check against m_staged makes the device start cold from the previous one. -/
def activateFw (env : BootEnv) (s : State) : State :=
  let b := s.spareFw
  let x := s.flash.fw b
  if s.busy then flashDone flJobActive s
  else if s.fld F.secStatusResetting != 0 || s.fld F.secStatusScrubbing != 0 then flashDone flResetting s
  else if x.state != .staged then flashDone flNothing s
  else
    flashTry (fun t =>
        let keep := if env.fwCopyOk then x.image else none
        let t := t.setFlash (t.flash.setFw b { x with state := .committed, image := keep })
        match keep with
        | none => coldStart env (resetDevice .reset t)
        | some i =>
          let t := { t with fw := some i, sec := { t.sec with mSec := sha3 i.sec, mSeq := sha3 i.seq, content := [] } }
          let t := (t.setFld F.glbBootFwSlot (boolNat b)).setFld F.lifFwVersionRunning i.version
          flashDone flOk (newPartKeys t))
      (flashDone flError) s

/-- PORST_N rises: a cold start, unless WARM_N is still low. -/
def porstRelease (env : BootEnv) (s : State) : State :=
  if s.aoc.mode != .reset then s
  else if s.aoc.warmLow then s.setAoc { s.aoc with mode := .warmReset }
  else coldStart env s

/-- WARM_N rises. -/
def warmRelease (env : BootEnv) (s : State) : State :=
  let s := s.setAoc { s.aoc with warmLow := false }
  if s.aoc.mode != .warmReset then s else coldStart env s

/-! ### Faults of device scope (R453, Table 15.4) -/

/-- CLOCK_FAULT: a PLL loses lock. -/
def clockFault (s : State) : State := if s.up then errRecord { bank := 1, unit := 0, cause := 3, cls := 3 } s else s

/-- SEC_FAULT: the SEC firmware stops or fails a self-check. -/
def secFault (s : State) : State := if s.up then errRecord { bank := 3, unit := 0, cause := 1, cls := 3 } s else s

/-! ### The rows -/

def execPorstNRelease (env : BootEnv) (s : State) : Res := go s (porstRelease env)
def execWarmNRelease (env : BootEnv) (s : State) : Res := go s (warmRelease env)
def execPorstNAssert (s : State) : Res := go s porstAssert
def execWarmNAssert (s : State) : Res := go s warmAssert
def execActivateFw (env : BootEnv) (s : State) : Res := go s (onFlash (activateFw env))
def execPowerUp (s : State) : Res := go s powerUp
def execPowerGoodLoss (_rail : Fin 9) (s : State) : Res := go s powerGoodLoss
def execThermalTrip (_sensor : Fin 80) (s : State) : Res := go s thermalTrip
def execClockFault (s : State) : Res := go s clockFault
def execSecFault (s : State) : Res := go s secFault

end Sys2Proof.Machine
end

