-- ==== Sys2Proof/Machine/Pins.lean ====
section
/-! DEFINITION. The SMBus status set (R488 to R490), the levels of the output pins (R487) and the test access port (R498, R499). -/
namespace Sys2Proof.Machine

/-! ### SMBus -/

/-- SMB_STATUS and SMB_STATE (Table 17.6). -/
def State.smbStatus (s : State) : Nat :=
  boolNat (s.on F.glbBootReady && s.up) + boolNat (s.on F.errStatusHalted) * 2 + boolNat (s.aoc.mode == .bootFailed) * 4
  + boolNat (s.on F.telTempMaxWarn) * 8 + boolNat (s.on F.telTempMaxThrottle) * 16 + boolNat s.aoc.tripSincePorst * 32
def State.smbState (s : State) : Nat :=
  if s.aoc.mode == .bootFailed || s.on F.errStatusHalted then 6
  else if s.aoc.mode == .midnight then 4
  else if !s.on F.glbBootReady then 5 else s.powerState

/-- A read of the status set: an unlisted command returns 0x00. -/
def State.smbRead (s : State) (cmd : Nat) : List Byte :=
  match cmd with
  | 0x00 => leBytes 1 s.smbStatus
  | 0x01 => leBytes 1 s.smbState
  | 0x02 => [s.aoc.alerts]
  | 0x03 => [s.aoc.alertMask]
  | 0x04 => leBytes 2 (s.fld F.pwrVreqMvMv)
  | 0x06 => leBytes 2 (unsignedOf 16 (signedOf 12 (s.fld F.telTempMaxTemp)))
  | 0x08 => leBytes 2 (s.fld F.telPowerWatts)
  | 0x0A => leBytes 2 (s.reg .glbBoot).toNat
  | 0x0C => leBytes 2 (s.fld F.rdeGroupPosition)
  | 0x10 => leBytes 4 0x18800DEB
  | 0x14 => leBytes 4 (s.reg .errHaltSeq).toNat
  | 0x18 => leBytes 1 1
  | _ => [0]

/-- SMB_ALERT_CLEAR: 1s clear their bits; ALERT_N follows the bits left. -/
def smbAlertClear (v : Byte) (s : State) : State :=
  if s.smbServed then { s with aoc := { s.aoc with alerts := s.aoc.alerts &&& ~~~v } } else s

def smbAlertMaskWrite (v : Byte) (s : State) : State :=
  if s.smbServed then { s with aoc := { s.aoc with alertMask := v } } else s

/-- SMB_ALERT_RESPONSE: a device that holds ALERT_N low answers with its address and releases it. -/
def smbAlertResponse (s : State) : State :=
  if s.smbServed && s.alertLow then
    { s with aoc := { s.aoc with alertReleased := true } }.send (.smbus [BitVec.ofNat 8 ((0x58 + s.fld F.glbPosPins % 8) * 2)])
  else s

/-- SMB_BUS_TIMEOUT: the target's interface starts anew; no register of the set changes. -/
def smbBusTimeout (s : State) : State := s

/-! ### JTAG -/

/-- The TAP works: its rails are up (R499). -/
def State.tapUp (s : State) : Bool := !(s.aoc.mode == .off || s.aoc.mode == .tripped)

/-- Cells of the boundary register. -/
def boundaryCells : Nat := 10830

def setTap (t : Tap) (s : State) : State := { s with tap := t }

/-- BYPASS, and every code that acts as it: one bit of 0 between TDI and TDO, the pins left to the device. -/
def selectBypass (s : State) : State :=
  (setTap { s.tap with instr := .bypass, driving := false, floating := false } s).send (.tdo [false])

/-- EXTEST, CLAMP and HIGHZ take effect only while PORST_N is low. -/
def gated (f : State → State) (s : State) : State :=
  if !s.tapUp then s else if s.aoc.mode == .reset then f s else selectBypass s

def extest (s : State) : State :=
  gated (fun t => (setTap { t.tap with instr := .extest, driving := true, floating := false } t).send (.tdo t.tap.cells)) s
def clamp (s : State) : State :=
  gated (fun t => (setTap { t.tap with instr := .clamp, driving := true, floating := false } t).send (.tdo [false])) s
def highz (s : State) : State :=
  gated (fun t => (setTap { t.tap with instr := .highz, driving := false, floating := true } t).send (.tdo [false])) s
def bypass (s : State) : State := if s.tapUp then selectBypass s else s

/-- The 32 bits of IDCODE, bit 0 first. -/
def idcodeBits : List Bool := (List.range 32).map fun i => bitAt 0x18800DEB i

def idcode (s : State) : State :=
  if s.tapUp then (setTap { s.tap with instr := .idcode, driving := false, floating := false } s).send (.tdo idcodeBits) else s

/-- SAMPLE/PRELOAD: the levels of the pins leave through TDO while the register takes the shifted values. What a board holds on
the pins is free. -/
def samplePreload (v : List Bool) (s : State) : State :=
  if s.tapUp then
    let levels := (List.range boundaryCells).map fun i => bitAt (Config.value s.clock.freeIdx) i
    (setTap { s.tap with instr := .sample, driving := false, floating := false, cells := v.take boundaryCells } s.spend).send (.tdo levels)
  else s

/-- TAP_RESET: TRST_N low selects IDCODE. -/
def tapReset (s : State) : State :=
  if s.tapUp then setTap { s.tap with instr := .idcode, driving := false, floating := false } s else s

/-! ### Levels of the output pins (R397, R485, R487, R490) -/

/-- The outputs that R487 names; the memory groups count from 0. -/
inductive OutPin
  | memResetN (g : Nat) | memCa (g : Nat) | memCs (g : Nat) | memCk (g : Nat) | memDq (g : Nat) | memDmi (g : Nat) | memWck (g : Nat)
  | fspiCk | fspiCsN | serdesTx | tdo | alertN | smbSda | thermtripN
deriving DecidableEq, Repr

/-- What the device does with an output: an open drain that is released counts as high impedance. -/
inductive Level
  | low | high | highZ | electricalIdle
deriving DecidableEq, Repr

/-- PORST_N or WARM_N holds the device in reset. -/
def State.heldInReset (s : State) : Bool := s.aoc.mode == .reset || s.aoc.mode == .warmReset

/-- The level of an output, where a rule fixes it; none while its interface's own traffic, or a boundary cell, decides. -/
def State.pin (s : State) (p : OutPin) : Option Level :=
  if s.aoc.mode == .off || s.tap.driving && p != .tdo then none
  else if s.tap.floating && p != .tdo then some .highZ
  else match p with
    | .thermtripN => some (if s.aoc.thermTripLow then .low else .highZ)
    | .alertN => some (if s.alertLow then .low else .highZ)
    | .memResetN _ | .memCa _ | .memCs _ | .memCk _ | .fspiCk => if s.heldInReset then some .low else none
    | .memDq _ | .memDmi _ | .memWck _ | .tdo | .smbSda => if s.heldInReset then some .highZ else none
    | .fspiCsN => if s.heldInReset then some .high else none
    | .serdesTx => if s.heldInReset then some .electricalIdle else none

/-! ### The rows -/

def execSmbAlertClear (v : Byte) (s : State) : Res := go s (smbAlertClear v)
def execSmbAlertMaskWrite (v : Byte) (s : State) : Res := go s (smbAlertMaskWrite v)
def execSmbAlertResponse (s : State) : Res := go s smbAlertResponse
def execSmbBusTimeout (s : State) : Res := go s smbBusTimeout
def execExtest (s : State) : Res := go s extest
def execClamp (s : State) : Res := go s clamp
def execHighz (s : State) : Res := go s highz
def execBypass (s : State) : Res := go s bypass
def execIdcode (s : State) : Res := go s idcode
def execSamplePreload (v : List Bool) (s : State) : Res := go s (samplePreload v)
def execTapReset (s : State) : Res := go s tapReset

end Sys2Proof.Machine
end

