-- ==== Sys2Proof/Machine/Midnight.lean ====
section
/-! DEFINITION. Dusk, Midnight and Dawn (R369 to R382). An entry, with what arrives during it, is one act; so is a Dawn. -/
namespace Sys2Proof.Machine

/-! ### Dusk (R370, R371) -/

/-- The engine is idle: nothing is queued for it, and it neither loads, runs nor drains. -/
def State.engIdle (s : State) (e : Nat) : Bool :=
  (s.fld (F.engStatusState e) == 0 || s.fld (F.engStatusState e) == 6) && (s.eng e).loaded.isNone
  && ((s.sq (e / 2)).queue (engUnit e)).isEmpty

def State.veIdle (s : State) (c : Nat) : Bool := !(s.ve c).running && (s.sq c).ve.isEmpty

/-- The sequencer has nothing it can dispatch. -/
def State.sqIdle (s : State) (c : Nat) : Bool :=
  match s.atHand c with
  | none => true
  | some (k, j, d) =>
    let q := s.sq c
    s.coreFenced c || (bwdFence k c j d s).isNone || (allUnits.all fun u => decide (16 ≤ (q.queue u).length))
    || (d.queue.isNone && !(s.waitMet j d (q.stream == .update) && (d.opcode != 0xA || s.fenceMet c j (d.at 0x10 1))))

/-- DUSK_ENTRY: a domain that has been idle for dusk_us stops its clock. -/
def duskEntry (d : DuskDomain) (s : State) : State :=
  if !s.live || s.fld F.pwrIdleDuskUs == 0 then s
  else match d with
  | .engine e => if s.present e && s.engIdle e then s.setEng e { s.eng e with dusk := true } else s
  | .vector c => if s.veIdle c then s.setVe c { s.ve c with dusk := true } else s
  | .sequencer c => if s.sqIdle c then s.setSq c { s.sq c with dusk := true } else s

/-- DUSK_WAKE: the domain's clock runs again; an engine leaves Dusk through a start ramp where dusk_ramp is set (R390). -/
def duskWake (d : DuskDomain) (s : State) : State :=
  if !s.live then s
  else match d with
  | .engine e =>
    let x := s.eng e
    if !x.dusk then s
    else
      let s := s.setEng e { x with dusk := false }
      if s.on F.pwrIdleDuskRamp then startRamp e 0 s else s
  | .vector c => s.setVe c { s.ve c with dusk := false }
  | .sequencer c => s.setSq c { s.sq c with dusk := false }

/-! ### The refusal of Midnight (Table 12.4) -/

/-- The first condition of Table 12.4 that holds. BUSY never does: an entry or a Dawn is one act. -/
def State.midnightRefusal (s : State) : Option Nat :=
  let parts := (List.range 4).filter s.partValid
  if s.busy || parts.any fun p => (List.range 16).any fun r => s.on (F.jobRingCtrlEnable p r) && (s.ringHead p r).isSome then some 1
  else if parts.any fun p => !(s.cxp p).live.isEmpty then some 2
  else if s.reg .spnLentOut != 0 || s.reg .spnBorrowed != 0 then some 3
  else if s.fld F.rdeStatusPairState == 1 || s.fld F.rdeStatusPairState == 2 then some 4
  else if (parts.any fun p => s.resetting p || (List.range 16).any fun t => s.tsState p t == 2)
      || (List.range 24).any fun g => s.on (F.mcgStatusInitBusy g) || (s.mcg g).reinit then some 5
  else if s.on F.pwrDvfsVBusy then some 6
  else none

/-! ### What the central store keeps (R237, R238, R374) -/

/-- The retention groups kept: those selected, and the system groups always. -/
def State.keptGroups (s : State) : Nat := (s.reg .spnCsRetain).toNat ||| s.systemGroups

/-- A T0 address of a partition lies in groups that are all kept. -/
def State.t0Kept (s : State) (p a : Nat) : Bool :=
  let j := a / (16 * mib * max 1 (s.quarters p))
  (List.range 4).all fun q => !(s.partQuarters p).testBit q || s.keptGroups.testBit (8 * q + j)

/-- Step 4: every dirty page goes back to its home, where the home can be reached. -/
def writeBackAll (s : State) : State :=
  (List.range 4).foldl (fun t p => (t.partPages p).foldl (fun u x =>
    if x.2.dirty && u.evictable p x.2 then writeBack p x.1 u else u) t) s

/-- The cached copies that step 4 and the commit drop: those that were clean, those in groups that are not kept. A dirty copy
whose home is out of reach is lost with its group. -/
def dropCopies (wasDirty : List Nat) (s : State) : State :=
  (List.range 4).foldl (fun t p => (t.partPages p).foldl (fun u x =>
    let kept := u.t0Kept p (u.slotAt p x.2)
    if x.2.home == .t0 then (if kept then u else losePage p x.1 false u)
    else if !x.2.cached then u
    else if x.2.dirty then (if kept then u else losePage p x.1 false u)
    else if kept && wasDirty.contains x.1 then u
    else u.setPage x.1 { x.2 with cached := false, valid := 0, cacheSlot := 0, window := false }) t) s

/-! ### Entry (R375 to R377) -/

/-- Step 5: the partition's MCGs are kept when the mask selects every one of them. -/
def retainMcgs (s : State) : State :=
  let sel := s.fld F.pwrMemRetainMcg
  let parts := (List.range 4).filter s.partValid
  let whole (p : Nat) : Bool := (s.partMcgList p).all sel.testBit
  let s := s.setFld F.pwrStateMemPartial (boolNat (parts.any fun p => !whole p))
  parts.foldl (fun t p => (t.partMcgList p).foldl (fun u g => u.setMcg g { u.mcg g with selfRefresh := whole p, powerDown := false, checks := [] }) t) s

/-- Step 7: DEPART on every port; ports and the host ports that do not listen go down; the domains lose what no rule keeps. -/
def commitMidnight (wasDirty : List Nat) (s : State) : State :=
  let s := retainMcgs (dropCopies wasDirty s)
  let up := (List.range 16).filter fun e => s.fld (F.lnkStatusState e) == 2 || s.fld (F.lnkStatusState e) == 3
  let s := up.foldl (fun t e => sendColl e 0xD false { noFrame with src := t.position } t) s
  let s := (List.range 16).foldl (fun t e =>
    let x := t.ep e
    let t := t.setEp e { x with upAtEntry := up.contains e, inflight := [], txq := [] }
    if t.fld (F.lnkStatusState e) = 5 then t else portDown e t) s
  let listen := s.fld F.pwrWakeListen
  let s := ((List.range 4).filter fun h => h != listen).foldl (fun t h => hostLinkDown h t) s
  let s := s.engines.foldl (fun t e => abortSelfTest e t) s
  let s := s.engines.foldl (fun t e => t.setEng e { Eng.empty with unfencing := (t.eng e).unfencing }) s
  let s := (List.range 4).foldl (fun t c => t.setVe c Ve.empty) s
  let s := s.bump F.pwrMidnightsEntries
  s.setAoc { s.aoc with mode := .midnight }

/-! ### Dawn (R380, R381, R273, R476) -/

/-- Step 5 for one MCG that kept its data: a channel that fails its check is trained anew, and one that fails that too ends the MCG's
service, with a partial reset of its partition. -/
def dawnMcg (env : BootEnv) (g : Nat) (s : State) : State :=
  let s := s.setMcg g { s.mcg g with selfRefresh := false }
  let failed := (List.range 4).filter fun c => env.chFail.contains (4 * g + c)
  failed.foldl (fun t c =>
    let owner := t.partOfMcg g
    let t := trainChannel (4 * g + c) (errRecord { bank := 0x40 + g, unit := c, cause := 9, cls := 1, part := owner } t)
    if env.chDown.contains (4 * g + c) then
      let t := errRecord { bank := 0x40 + g, unit := c, cause := 0xB, cls := 3, part := owner } t
      let t := (t.setFld (F.mcgStatusReady g) 0).setFld (F.mcgStatusTrainFail g) 1
      let t := refreshMcg g (t.setMcg g { t.mcg g with fitted := false })
      match owner with
      | some p => runReset p t
      | none => t
    else t) s

/-- The steps of Table 12.6, with the code of last_wake. A firmware copy that fails its check makes it a cold start. -/
def dawn (code : Nat) (env : BootEnv) (s : State) : State :=
  if s.aoc.mode != .midnight then s
  else if !env.fwCopyOk then coldStart env (resetDevice .reset s)
  else
    let s := (s.setAoc { s.aoc with mode := .running }).setFld F.pwrStateLastWake code
    let ticks := (env.midnightXclk * 427246 + 5) / 10
    let s := { s with clock := { s.clock with fclk := (s.clock.fclk + ticks) % 2 ^ 64 } }
    let rail (n : Nat) : RailEnergy := { total := if n < 2 then 0 else natAt env.midnightUj (n - 2), owned := [], shared := [] }
    let s := energyMeasure { rails := (List.range 9).map rail, watts := s.fld F.telPowerWatts } s
    let s := (List.range 4).foldl (fun t c => t.setSq c { t.sq c with dusk := false }) s
    let parts := (List.range 4).filter s.partValid
    let lost := parts.filter fun p => !((s.partMcgList p).all fun g => (s.mcg g).selfRefresh)
    let s := lost.foldl (fun t p => runReset p t) s
    let s := ((List.range 24).filter fun g => (s.mcg g).selfRefresh).foldl (fun t g => dawnMcg env g t) s
    let s := ((List.range 16).filter fun e => (s.ep e).upAtEntry).foldl (fun t e =>
      keepaliveTimer e (trainPort env false e (t.setEp e { t.ep e with upAtEntry := false }))) s
    (refreshIssue (s.setFld F.pwrIssueBrake (boolNat s.aoc.brakeLow))).alert 2

/-- A request for Midnight: refused, abandoned at an abort point, or committed. -/
def requestMidnight (env : MidEnv) (s : State) : State :=
  match s.midnightRefusal with
  | some code => s.setFld F.pwrStateLastRefuse code
  | none =>
    let wasDirty := (s.pages.filter fun x => x.2.dirty).map (·.1)
    match (if s.on F.pwrReqEntryMode then none else env.wakeAt) with
    | some k => (if 4 ≤ k then writeBackAll s else s).bump F.pwrAbortsAborts
    | none =>
      let s := commitMidnight wasDirty (writeBackAll s)
      if env.latched then dawn 4 env.dawn s else s

/-- AUTO_MIDNIGHT: midnight_s seconds in Dusk. -/
def autoMidnight (env : MidEnv) (s : State) : State :=
  if s.live && s.fld F.pwrAutoMidnightS != 0 && s.powerState == 1 then requestMidnight env s else s

/-! ### Wake events (R378, R379) -/

/-- WAKE_FRAME: only the listening port hears it. -/
def wakeFrame (f : WakeFrame) (env : BootEnv) (s : State) : State :=
  let h := s.fld F.pwrWakeListen
  if s.aoc.mode != .midnight || f.host != h || !s.linkUp h then s
  else match s.hostCfg h with
  | none => s
  | some c =>
    let ok := f.dstUnicast && f.dstPort == c.wakePort && f.payload == leBytes 4 0x53504157 ++ leBytes 4 0 ++ padTo 8 c.wakeCode
    if !ok then s.bump F.pwrWakeBadBad
    else if s.on F.pwrWakeFrameEn then dawn 2 env s else s

def calendarAlarm (env : BootEnv) (s : State) : State :=
  if s.on F.pwrWakeAlarmEn && decide (s.fld F.pwrAlarmAlarmUtc ≤ s.clock.calendar) then dawn 3 env s else s

/-! ### The rows -/

def execDuskEntry (d : DuskDomain) (s : State) : Res := go s (duskEntry d)
def execDuskWake (d : DuskDomain) (s : State) : Res := go s (duskWake d)
def execAutoMidnight (env : MidEnv) (s : State) : Res := go s (autoMidnight env)
def execMidnightRequest (env : MidEnv) (s : State) : Res := go s (onWrite .pwrReq (requestMidnight env))
def execWakeNLow (env : BootEnv) (s : State) : Res := go s (dawn 1 env)
def execWakeFrame (f : WakeFrame) (env : BootEnv) (s : State) : Res := go s (wakeFrame f env)
def execCalendarAlarm (env : BootEnv) (s : State) : Res := go s (calendarAlarm env)

end Sys2Proof.Machine
end

