-- ==== Sys2Proof/Machine/View.lean ====
section
/-! DEFINITION. What a read of a register returns: values that other state gives, the audit snapshot (R457), absent engines (R73),
the LO/HI latches (R468), and the view through a partition-scoped window (R474, R420). -/
namespace Sys2Proof.Machine

def loWord (v : Nat) : Word := BitVec.ofNat 32 v
def hiWord (v : Nat) : Word := BitVec.ofNat 32 (v / 2 ^ 32)

/-! ### Values that other state gives -/

/-- PWR_STATE (Table 12.10). -/
def State.pwrStateWord (s : State) : Word :=
  let mask (n : Nat) (f : Nat → Bool) : Nat := (List.range n).foldl (fun m i => m + boolNat (f i) * 2 ^ i) 0
  let w := wordSetField (s.reg .pwrState) 0 3 s.powerState
  wordSetField (wordSetField w 4 4 (mask 4 s.coreDusk)) 8 8 (mask 8 s.engDusk)

/-- A bank's record in service. -/
def State.served (s : State) (b : Nat) : Option ErrRec := bankHead (s.bank b)

/-- ERR_BANK_STATb. -/
def State.bankStatWord (s : State) (b : Nat) : Word :=
  let w := wordSetField (s.reg (.errBankStat b)) 0 3 (s.bank b).length
  match s.served b with
  | some r => wordSetField (wordSetField w 3 2 r.cls) 5 1 1
  | none => wordSetField (wordSetField w 3 2 0) 5 1 0

/-- ERR_INSVCn. -/
def State.insvcWord (s : State) (n : Nat) : Word :=
  BitVec.ofNat 32 ((List.range 32).foldl (fun m i => m + boolNat (s.served (32 * n + i)).isSome * 2 ^ i) 0)

/-- The bytes of a record (Table 15.3). -/
def ErrRec.bytes (r : ErrRec) : List Byte :=
  leBytes 8 r.seq ++ leBytes 8 r.calendar ++ leBytes 8 r.stamp ++ leBytes 1 r.cls ++ leBytes 1 r.source ++ leBytes 2 r.unit ++ leBytes 2 r.cause
  ++ leBytes 1 (boolNat r.second + 2 * boolNat r.preempted + 4 * boolNat r.partition.isSome + 8 * boolNat r.boot)
  ++ leBytes 1 (r.partition.getD 0 % 4 + r.tenant % 16 * 16) ++ leBytes 4 r.overflow ++ leBytes 4 r.jobTag ++ leBytes 8 r.address
  ++ leBytes 8 r.detail ++ leBytes 4 r.descTag ++ leBytes 4 0

def State.recordWord (s : State) (b k n : Nat) : Word :=
  match (s.bank b)[k]? with
  | some r => BitVec.ofNat 32 (leAt r.bytes (4 * n) 4)
  | none => 0

/-- CORE_SQ_STATUS. -/
def State.sqWord (s : State) (c : Nat) : Word :=
  let q := s.sq c
  let held := match s.atHand c with
    | some (k, j, d) =>
      (bwdFence k c j d s).isNone || ((d.opcode == 8 || d.opcode == 0xA)
        && !(s.waitMet j d (q.stream == .update) && (d.opcode != 0xA || s.fenceMet c j (d.at 0x10 1))))
    | none => false
  let micro := match s.jobAt c with | some (_, j) => j.train.micro | none => 0
  BitVec.ofNat 32 ((match q.stream with | .none => 0 | .main => 1 | .update => 2) + boolNat held * 8 + micro % 256 * 16 + q.pos % 65536 * 4096)

/-- JOB_CORE_STATUS: a job that is ending shows it. -/
def State.jobCoreWord (s : State) (p c : Nat) : Word :=
  let w := s.reg (.jobCoreStatus p c)
  match s.jobAt c with
  | some (_, j) => if j.part = p ∧ j.ending.isSome = true then wordSetField w 0 2 3 else w
  | none => w

/-- How many page IDs are in a state of Table 7.3. -/
def CxPart.inState (x : CxPart) (st : Nat) : Nat := (x.pages.filter fun g => x.pageState g.1 == st).length

/-- A count of a partition's CXE; 0 before the layout block is read (R232). -/
def State.cxCount (s : State) (p : Nat) (f : CxPart → Nat) : Word :=
  let x := s.cxp p
  if x.valid then BitVec.ofNat 32 (f x) else 0

/-- How many pages of a partition have a home. -/
def State.homeCount (s : State) (p : Nat) (h : Home) : Word := BitVec.ofNat 32 ((s.partPages p).filter fun x => x.2.home == h).length

/-- SPN_STATUS. -/
def State.spnWord (s : State) : Word :=
  let down := (List.range 4).foldl (fun m p => m + boolNat (s.partValid p && s.t3Down p) * 2 ^ p) 0
  let lenders := ((List.range 8).filter fun n => s.on (F.spnLendPeerValid n) && s.fld (F.spnLendPeerGrGranules n) != 0).length
  let borrowers := (s.lentPages.map (·.2.borrower)).eraseDups.length
  let short := (List.range 4).foldl (fun m p => m + boolNat ((s.fld F.spnStatusT1Short).testBit p && decide (s.t1Free p < s.lowWater p)) * 2 ^ p) 0
  wordSetField (wordSetField (wordSetField (wordSetField (s.reg .spnStatus) 0 4 short) 4 4 down) 8 4 lenders) 12 5 borrowers

/-- Slots of the span-page cache in use; slots of the transit area, and those that fills take which no cache slot waits for. -/
def State.cacheUsed (s : State) (p : Nat) : Nat := ((s.partPages p).filter fun x => x.2.cached && !x.2.window).length
def State.transitSlots (s : State) (p : Nat) : Nat := 128 * s.quarters p
def State.transitUsed (s : State) (p : Nat) : Nat :=
  min (s.transitSlots p) (s.fills.filter fun f => !f.install && inRange (s.range p) (f.page * 65536) 1).length
def slotWord (used n : Nat) : Word := BitVec.ofNat 32 (used % 65536 + (n - used) % 65536 * 65536)

/-- A field of a word changed by a function of its value. -/
def mapField (w : Word) (lo n : Nat) (f : Nat → Nat) : Word := wordSetField w lo n (f (wordField w lo n))

/-- The fields whose register table says as what a written value is read. -/
def readAs (r : Reg) (w : Word) : Word :=
  match r with
  | .cxeStarveCtrl _ => mapField w 0 16 (max 1)
  | .spnPolicy _ _ => mapField w 4 3 fun v => if v < 5 then v else 0
  | .spnT1Water _ => mapField w 16 16 (max (wordField w 0 16))
  | .spnWindow _ => mapField (mapField w 0 7 (max 1)) 8 4 (max 1)
  | .mcgScrubCtrl _ => mapField w 8 8 (max 1)
  | .mcgRemapCtrl _ => mapField (mapField w 0 4 (max 1)) 8 8 (max 1)
  | .hptPfc _ => mapField w 14 10 (min (wordField w 4 10))
  | .hptCc _ => mapField (mapField (mapField (mapField w 0 3 (max 1)) 3 3 (max 3)) 6 8 (max 1)) 14 8 (max 1)
  | .rdeGroupCtrl => mapField w 0 16 (max 1)
  | .pwrCapWatts => mapField w 0 11 fun v => min 1600 (max 350 v)
  | .pwrBrake => mapField w 0 7 (max 1)
  | .telThermCtrl => mapField w 8 8 (min 105)
  | _ => w

/-- The value of a register at this moment, before snapshot and scope. -/
def State.now (s : State) (r : Reg) : Word :=
  match r with
  | .glbFclkLo => loWord s.clock.fclk
  | .glbFclkHi => hiWord s.clock.fclk
  | .pwrState => s.pwrStateWord
  | .secCert n => BitVec.ofNat 32 (leAt s.certificate (4 * n) 4)
  | .secReport p n => BitVec.ofNat 32 (leAt (tabGet [] s.sec.reports p) (4 * n) 4)
  | .errInsvc n => s.insvcWord n
  | .errBankStat b => s.bankStatWord b
  | .errRecord b k n => s.recordWord b k n
  | .errPreset => BitVec.ofNat 32 (s.fld F.secStatusResetting * 16)
  | .ldgCsCache p => if s.partValid p then slotWord (s.cacheUsed p) (s.cacheSlots p) else 0
  | .ldgCsTransit p => if s.partValid p then slotWord (s.transitUsed p) (s.transitSlots p) else 0
  | .coreSqStatus c => s.sqWord c
  | .engStatus e => if s.present e then s.reg r else 0xF
  | .engCtrl e | .engTest e | .engRowsLo e | .engRowsHi e | .engFreezeLo e | .engFreezeHi e | .engThrottleLo e | .engThrottleHi e =>
    if s.present e then s.reg r else 0
  | .jobCoreStatus p c => s.jobCoreWord p c
  | .cxeStatus =>
    -- a stalled OPEN or UNPARK has a record too (Table 7.11)
    let live := (List.range 4).flatMap fun p => (s.cxp p).live
    let new := s.stalled.filter fun y => y.item.d.at 0x10 1 == 1 || y.item.d.at 0x10 1 == 6
    BitVec.ofNat 32 ((live.length + new.length) % 8192 + s.stalled.length % 4096 * 65536)
  | .cxePartIds p | .cxeStarveCtrl p => if s.pair (.cxePartLayoutLo p) (.cxePartLayoutHi p) = 0 then 0 else readAs r (s.reg r)
  | .cxePoolFree p n => s.cxCount p fun x => x.framesFree n
  | .cxePagesFree p => s.cxCount p fun x => x.idsFree
  | .cxePagesRef p => s.cxCount p fun x => x.inState 1
  | .cxePagesShared p => s.cxCount p fun x => x.inState 2
  | .cxePagesParked p => s.cxCount p fun x => x.inState 3
  | .cxePagesLent p => s.cxCount p fun x => x.inState 4
  | .cxeParked p => s.cxCount p fun x => x.parked.length
  | .hptPausedUs h =>
    let x := s.hp h
    let now := if x.paused.toNat.testBit (s.fld (F.hptPfcPcp h)) then (s.clock.fclk - x.pausedAt) / fclkUs else 0
    BitVec.ofNat 32 ((s.reg r).toNat + now)
  | .spnStatus => s.spnWord
  | .spnCsRetain => BitVec.ofNat 32 s.keptGroups
  | .spnT3Free p => BitVec.ofNat 32 (s.t3Slots p - (s.t3Used p).length)
  | .spnPagesT0 p => s.homeCount p .t0
  | .spnPagesT1 p => s.homeCount p .t1
  | .spnPagesT2 p => s.homeCount p .t2
  | .spnPagesT3 p => s.homeCount p .t3
  | .spnPagesLost p => s.homeCount p .lost
  | .spnPagesCached p => BitVec.ofNat 32 ((s.partPages p).filter fun x => x.2.cached).length
  | .rdeStatus => wordSetField (s.reg .rdeStatus) 0 9 s.rde.colls.length
  | .lifCalLo => loWord s.clock.calendar
  | .lifCalHi => hiWord s.clock.calendar
  | .lifCalStatus => BitVec.ofNat 32 (boolNat s.clock.calValid)
  | .lifPoweredS => loWord s.clock.powered
  | .lifBootCount => loWord s.aoc.life.boots
  | .lifEnergyJLo => loWord (s.aoc.life.energyUj / 1000000)
  | .lifEnergyJHi => hiWord (s.aoc.life.energyUj / 1000000)
  | .lifLogHead => loWord (s.aoc.logNext - 1)
  | _ => readAs r (s.reg r)

/-- The value of a register: while a snapshot is frozen, an audited register reads what the snapshot holds. -/
def State.view (s : State) (r : Reg) : Word :=
  match s.err.snapshot with
  | some l => (match l.find? fun x => x.1 == r with | some x => x.2 | none => s.now r)
  | none => s.now r

/-! ### The partition-scoped window (Table 16.4, R420) -/

/-- The error banks of a partition: its JOB bank, those of its cores, MCGs and ports, and of a host port that only its queue pairs use. -/
def State.bankOwned (s : State) (p b : Nat) : Bool :=
  b == 0x0C + p || (decide (0x10 ≤ b) && decide (b < 0x14) && (s.partCores p).testBit (b - 0x10))
  || (decide (0x14 ≤ b) && decide (b < 0x18) &&
      let qs := s.qpList.filter fun q => s.qpPort q == b - 0x14
      !qs.isEmpty && qs.all fun q => s.fld (F.qpPartPartition q) == p)
  || (decide (0x20 ≤ b) && decide (b < 0x30) && (s.partEps p).testBit (b - 0x20))
  || (decide (0x40 ≤ b) && decide (b < 0x58) && (s.partMcgs p).testBit (b - 0x40))

/-- The queue pair, the memory window belongs to a partition. -/
def State.qpOf (s : State) (p q : Nat) : Bool := s.qpList.contains q && s.fld (F.qpPartPartition q) == p
def State.mwOf (s : State) (p w : Nat) : Bool := s.fld (F.mwAttrPartition w) == p && !s.on (F.mwAttrDevice w) && s.reg (.mwKey w) != 0

/-- Whole degrees of a temperature in quarters. -/
def wholeDegrees (t : Nat) : Nat := t / 4 * 4

/-- A register as a partition's window shows it, none where it shows nothing. -/
def State.partView (s : State) (p : Nat) (r : Reg) : Option Word :=
  let c := s.aoc.coarse
  let keep (b : Bool) : Option Word := if b then some (s.view r) else none
  let core (k : Nat) := keep ((s.partCores p).testBit k)
  let mcg (g : Nat) := keep ((s.partMcgs p).testBit g)
  let port (e : Nat) := keep ((s.partEps p).testBit e)
  let own (q : Nat) := keep (q == p)
  let qpair (q : Nat) := keep (s.qpOf p q)
  let mw (w : Nat) := keep (s.mwOf p w)
  match r with
  | .glbIdcode | .glbRev | .glbSerial _ | .glbMePresent | .glbPos | .glbBoot | .glbFclkLo | .glbFclkHi => keep true
  | .pwrIssue => some c.issue
  | .telTempMax => some (wordSetField c.tempMax 0 12 (wholeDegrees (wordField c.tempMax 0 12)))
  | .telTemp n => some (BitVec.ofNat 32 (wholeDegrees (natAt c.temps n)))
  | .telPower => some (BitVec.ofNat 32 (natAt c.power p / 8 * 8))
  | .telEPartLo q => if q = p then some (loWord (natAt c.energy p / 80000 * 80000)) else none
  | .telEPartHi q => if q = p then some (hiWord (natAt c.energy p / 80000 * 80000)) else none
  | .secStatus =>
    let w := s.view r
    some (wordSetField (wordSetField w 2 4 (wordField w 2 4 &&& 2 ^ p)) 6 4 (wordField w 6 4 &&& 2 ^ p))
  | .secPartCfg q | .secPartMcg q | .secPartEp q | .secPartTs q | .secCmdLo q | .secCmdHi q | .secCmdOp q | .secCmdStatus q | .secCmdDetail q
  | .secAttCtrl q | .secAttStatus q | .secAttNonce q _ | .secReport q _ => own q
  | .secCert _ => keep true
  | .secQpTs q => qpair q
  | .errStatus => keep true
  | .errBankStat b | .errBankAck b => keep (s.bankOwned p b)
  | .errRecord b k _ => keep (s.bankOwned p b || (match (s.bank b)[k]? with | some x => x.partition == some p | none => false))
  | .ldgCsCache q | .ldgCsTransit q | .ldgJobsTaken q | .ldgJobsEnded q | .ldgReclaimSpan q | .ldgReclaimKv q => own q
  | .coreSqStatus k | .coreFence k | .coreRngCtrl k | .coreCtr k _ | .veStatus k | .veFlags k | .vePc k | .veRetiredLo k | .veRetiredHi k
  | .veMemstallLo k | .veMemstallHi k => core k
  | .engStatus e | .engCtrl e | .engTest e | .engRowsLo e | .engRowsHi e | .engFreezeLo e | .engFreezeHi e | .engThrottleLo e
  | .engThrottleHi e => core (e / 2)
  | .cxePartLayoutLo q | .cxePartLayoutHi q | .cxePartIds q | .cxeStarveCtrl q | .cxePagesFree q | .cxePagesRef q | .cxePagesShared q
  | .cxePagesParked q | .cxePagesLent q | .cxeParked q | .cxeStarveEvents q | .cxeStarveFails q | .cxeHashColl q | .cxePoolFree q _ => own q
  | .spnStatus =>
    let w := s.view r
    some (wordSetField (wordSetField w 0 4 (wordField w 0 4 &&& 2 ^ p)) 4 4 (wordField w 4 4 &&& 2 ^ p))
  | .spnRange q | .spnRangeSize q | .spnT0Pin q | .spnT1Water q | .spnWindow q | .spnStreamLo q | .spnStreamHi q | .spnStreamLen q | .spnLend q
  | .spnT3Free q | .spnWindowMiss q | .spnCmdAddrLo q | .spnCmdAddrHi q | .spnCmdCount q | .spnCmdOp q | .spnCmdStatus q | .spnPagesT0 q
  | .spnPagesT1 q | .spnPagesT2 q | .spnPagesT3 q | .spnPagesLost q | .spnPagesCached q | .spnPolicy q _ | .spnXlate q _ => own q
  | .mcgStatus g | .mcgConfig g | .mcgTherm g | .mcgScrubCtrl g | .mcgScrubPass g | .mcgRemapCtrl g | .mcgSpares g | .mcgRetired g
  | .mcgUsableMib g | .mcgUeCnt g | .mcgTest g | .mcgTestRow g | .mcgCeCnt g _ => mcg g
  | .lnkStatus e | .lnkCtrl e | .lnkLaneTest e | .lnkFecCorrLo e | .lnkFecCorrHi e | .lnkFecUncorr e | .lnkCrcFail e | .lnkReplay e
  | .lnkRetired e | .lnkGcmFail e | .lnkResend e | .lnkDup e | .lnkCredStall e | .lnkProto e | .lnkVcCred e _ | .lnkLaneSer e _ => port e
  | .rdeGroup | .rdeMaster => keep true
  | .rdeMirAreaLo q | .rdeMirAreaHi q | .rdeMirLen q | .rdePairPlen q | .rdePairMlen q => own q
  | .qpCtrl q | .qpPart q | .qpDest q | .qpRetry q | .qpPsn q | .qpRpsn q | .qpSport q | .qpRingLo q | .qpRingHi q | .qpRingN q | .qpRingAck q
  | .qpDgid q _ => qpair q
  | .mwKey w | .mwAttr w | .mwBaseLo w | .mwBaseHi w | .mwLen w | .mwVaLo w | .mwVaHi w => mw w
  | .lifCalLo | .lifCalHi | .lifCalStatus | .lifFwVersion => keep true
  | .jobTableKey q | .jobCtrl q | .jobCoreStatus q _ | .jobStashQuota q | .jobRingCtrl q _ | .jobRingSeq q _ => own q
  | _ => none

/-- A register as a window shows it. -/
def State.scopedView (s : State) (sc : Scope) (r : Reg) : Word :=
  match sc with
  | .device _ => s.view r
  | .partition _ p => (s.partView p r).getD 0

/-! ### Reads (R13, R73, R468, R371) -/

/-- The upper half that goes with the lower half of a 64-bit counter. -/
def Reg.hiOf : Reg → Option Reg
  | .glbFclkLo => some .glbFclkHi
  | .pwrThrUsLo => some .pwrThrUsHi
  | .telERailLo r => some (.telERailHi r)
  | .telEDevLo => some .telEDevHi
  | .telEPartLo p => some (.telEPartHi p)
  | .engRowsLo e => some (.engRowsHi e)
  | .engFreezeLo e => some (.engFreezeHi e)
  | .engThrottleLo e => some (.engThrottleHi e)
  | .veRetiredLo c => some (.veRetiredHi c)
  | .veMemstallLo c => some (.veMemstallHi c)
  | .spnXcMissLo => some .spnXcMissHi
  | .lnkFecCorrLo e => some (.lnkFecCorrHi e)
  | .rdeBlkClosedLo => some .rdeBlkClosedHi
  | .lifCalLo => some .lifCalHi
  | .lifEnergyJLo => some .lifEnergyJHi
  | _ => none

/-- The queue pair of an access. -/
def scopeQp : Scope → Nat
  | .device q => q
  | .partition q _ => q

/-- The core whose registers an address belongs to (Table 16.1). -/
def coreOfAddr (a : Nat) : Option Nat := if 0x800000 ≤ a ∧ a < 0xC00000 then some ((a - 0x800000) / 0x100000) else none

/-- An access that reaches a register of a core wakes its sequencer (R371); one that is ignored does not (R13). -/
def accessWakes (sc : Scope) (a : Nat) (s : State) : State :=
  match (regAt a).bind fun _ => coreOfAddr a with
  | some c =>
    let reaches := match sc with | .device _ => true | .partition _ p => (s.partCores p).testBit c
    if reaches then s.setSq c { s.sq c with dusk := false } else s
  | none => s

/-- The LO half of a counter is read: its HI half is latched for that queue pair. -/
def latchHi (sc : Scope) (hi : Reg) (s : State) : State :=
  let q := scopeQp sc
  let l := s.aoc.latches.filter fun x => !(x.1 == q && x.2.1 == hi)
  s.setAoc { s.aoc with latches := (q, hi, s.scopedView sc hi) :: l }

/-- One 32-bit read: what is not a naturally aligned register reads 0. -/
def readWord (sc : Scope) (a : Nat) (s : State) : State × Word :=
  let s := accessWakes sc a s
  match regAt a with
  | none => (s, 0)
  | some r =>
    match r.hiOf with
    | some hi => (latchHi sc hi s, s.scopedView sc r)
    | none =>
      match s.aoc.latches.find? fun x => x.1 == scopeQp sc && x.2.1 == r with
      | some x => (s.setAoc { s.aoc with latches := s.aoc.latches.filter fun y => !(y.1 == scopeQp sc && y.2.1 == r) }, x.2.2)
      | none => (s, s.scopedView sc r)

/-- COUNTER_LO_READ, through a device-scoped window of the queue pair. -/
def counterLoRead (q : Fin 1024) (a : Nat) (s : State) : State :=
  if !s.up then s
  else match (regAt a).bind Reg.hiOf with
  | some hi => latchHi (.device q) hi (accessWakes (.device q) a s)
  | none => s

def execCounterLoRead (q : Fin 1024) (a : Nat) (s : State) : Res := go s fun t => counterLoRead q a (coarsen t)

end Sys2Proof.Machine
end

