-- ==== Sys2Proof/Machine/Service.lean ====
section
/-! DEFINITION. Error banks, audits and the operations of Table 15.6 that no other file holds (chapter 15): acknowledging records (R452), the
conservation ledgers and their audit (R455 to R457), retiring a central-store bank (R461), self-tests (R459) and core fences (R460). -/
namespace Sys2Proof.Machine

/-! ### Acknowledging (R452) -/

/-- BANK_ACK: slot 0 goes, the records below move up. A halted device takes it too (R471). -/
def bankAck (b : Nat) (s : State) : State := if s.up then s.setBank b (s.bank b).tail else s

/-! ### The ledgers (Table 15.5) -/

/-- An equality that fails: its number, port and VC (ledger 0), partition, left and right side. -/
structure Break where
  eqn : Nat
  port : Nat
  vc : Nat
  part : Option Nat
  left : Nat
  right : Nat
deriving DecidableEq, Repr

/-- An equality: nothing if it holds. -/
def checkEq (eqn port vc : Nat) (part : Option Nat) (left right : Nat) : List Break :=
  if left % 2 ^ 32 = right % 2 ^ 32 then [] else [{ eqn := eqn, port := port, vc := vc, part := part, left := left, right := right }]

/-- Valid partitions that an audit checks. -/
def State.auditParts (s : State) : List Nat := (List.range 4).filter fun p => s.partValid p && !s.resetting p

/-- Ports whose link stands: credits have been granted. -/
def State.creditPorts (s : State) : List (Nat × Nat) :=
  ((List.range 16).filter fun e => s.linkOpen e && (s.ep e).exchanged).flatMap fun e => (List.range 8).map fun v => (e, v)

/-- Ledger 0: the sender's equality, the receiver's, the inequality. -/
def ledgerLink (s : State) : List Break :=
  let one (f : Nat → Nat → Ep → List Break) : List Break := s.creditPorts.flatMap fun x => f x.1 x.2 (s.ep x.1)
  one (fun e v x => checkEq 0 e v none (s.fld (F.lnkVcCredHeld e v)) (natAt x.peerAlloc v + natAt x.rrx v + 2 ^ 32 - natAt x.sent v % 2 ^ 32))
  ++ one (fun e v x => checkEq 1 e v none (natAt x.occupied v + natAt x.owed v) (natAt x.recv v + 2 ^ 32 - natAt x.rtx v % 2 ^ 32))
  ++ one (fun e v x =>
    let l := natAt x.occupied v + natAt x.owed v
    let a := s.fld (F.lnkVcCredAlloc e v)
    if l ≤ a then [] else [{ eqn := 2, port := e, vc := v, part := none, left := l, right := a }])

/-- Ledger 1: slots owned, 2,048 for each quarter; the transit area is counted by its own terms. -/
def ledgerSlots (s : State) : List Break :=
  s.auditParts.flatMap fun p =>
    let fixed := ceilDiv (s.fixedAreas p - s.transitSlots p * 65536) 65536
    let terms (r : Reg) : Nat := wordField (s.now r) 0 16 + wordField (s.now r) 16 16
    checkEq 0 0 0 (some p) (2048 * s.quarters p) (fixed + terms (.ldgCsCache p) + terms (.ldgCsTransit p))

/-- Ledger 2: page IDs, then the frames of each class (R209). -/
def ledgerKv (s : State) : List Break :=
  s.auditParts.flatMap fun p =>
    let x := s.cxp p
    if !x.valid then []
    else
      let resident (n : Nat) : Nat := (x.pages.filter fun g => g.2.cls == n && (x.pageState g.1 == 1 || x.pageState g.1 == 2)).length
      checkEq 0 0 0 (some p) x.pageCount (x.idsFree + x.inState 1 + x.inState 2 + x.inState 3 + x.inState 4)
      ++ x.classes.zipIdx.flatMap fun c => checkEq (1 + c.2) 0 0 (some p) c.1.frames (x.framesFree c.2 + resident c.2)

/-- Ledger 3: span pages (R267). -/
def ledgerPages (s : State) : List Break :=
  s.auditParts.flatMap fun p =>
    let n (r : Reg) : Nat := (s.now r).toNat
    checkEq 0 0 0 (some p) (tabGet 0 s.mapped p)
      (n (.spnPagesT0 p) + n (.spnPagesT1 p) + n (.spnPagesT2 p) + n (.spnPagesT3 p) + n (.spnPagesLost p))

/-- Ledger 4: borrowed granules, then the pool. -/
def ledgerLent (s : State) : List Break :=
  let sum (f : Nat → Nat) (n : Nat) : Nat := ((List.range n).map f).sum
  checkEq 0 0 0 none (s.reg .spnBorrowed).toNat (sum (fun n => (s.reg (.spnLendPeerGr n)).toNat) 8)
  ++ checkEq 1 0 0 none (sum s.poolGranules 4)
      ((s.reg .spnLentOut).toNat + sum (fun p => s.poolGranules p - s.lentGranules p) 4)

/-- Ledger 5: bucket contributions (R312). -/
def ledgerBuckets (s : State) : List Break := checkEq 0 0 0 none (s.reg .rdeCntDelta).toNat 0

/-- Ledger 6: job-table entries. -/
def ledgerJobs (s : State) : List Break :=
  s.auditParts.flatMap fun p =>
    checkEq 0 0 0 (some p) (s.reg (.ldgJobsTaken p)).toNat
      ((s.reg (.ldgJobsEnded p)).toNat + (s.jobs.filter fun j => j.2.part == p).length)

/-- Ledger 7: the partitions' energy, and the rails', against the device's (R398). -/
def ledgerEnergy (s : State) : List Break :=
  let sum (f : Nat → Nat) (n : Nat) : Nat := ((List.range n).map f).sum
  let dev := s.pair .telEDevLo .telEDevHi
  checkEq 0 0 0 none (sum (fun p => s.pair (.telEPartLo p) (.telEPartHi p)) 4) dev
  ++ checkEq 0 0 0 none (sum (fun r => s.pair (.telERailLo r) (.telERailHi r)) 9) dev

/-- The equalities of a ledger that fail. -/
def ledgerBreaks (l : Nat) (s : State) : List Break :=
  match l with
  | 0 => ledgerLink s
  | 1 => ledgerSlots s
  | 2 => ledgerKv s
  | 3 => ledgerPages s
  | 4 => ledgerLent s
  | 5 => ledgerBuckets s
  | 6 => ledgerJobs s
  | _ => ledgerEnergy s

/-- The first in a list with the lowest equality number. -/
def lowestBreak (l : List Break) : Option Break :=
  (List.range 10).findSome? fun n => l.find? fun x => x.eqn == n

/-- The registers in which the terms of a ledger are read. -/
def ledgerRegs (l : Nat) : List Reg :=
  let per {α : Type} (n : Nat) (f : Nat → List α) : List α := (List.range n).flatMap f
  match l with
  | 0 => per 16 fun e => [Reg.ldgLinkSent e, .ldgLinkRecv e, .ldgLinkRtx e, .ldgLinkRrx e] ++ (List.range 8).map (Reg.lnkVcCred e)
  | 1 => per 4 fun p => [Reg.ldgCsCache p, .ldgCsTransit p]
  | 2 => per 4 fun p => [Reg.cxePagesFree p, .cxePagesRef p, .cxePagesShared p, .cxePagesParked p, .cxePagesLent p]
      ++ (List.range 8).map (Reg.cxePoolFree p)
  | 3 => per 4 fun p => [Reg.spnPagesT0 p, .spnPagesT1 p, .spnPagesT2 p, .spnPagesT3 p, .spnPagesLost p, .spnPagesCached p]
  | 4 => [Reg.spnBorrowed, .spnLentOut] ++ (List.range 8).map Reg.spnLendPeerGr
  | 5 => [.rdeCntDelta, .rdeBlkClosedLo, .rdeBlkClosedHi]
  | 6 => per 4 fun p => [Reg.ldgJobsTaken p, .ldgJobsEnded p] ++ (List.range 4).map (Reg.jobCoreStatus p)
  | _ => [Reg.telEDevLo, .telEDevHi] ++ (per 4 fun p => [Reg.telEPartLo p, .telEPartHi p]) ++ per 9 fun r => [Reg.telERailLo r, .telERailHi r]

/-- How an audit ends: LDG_AUDIT_STATUS. -/
def auditEnds (status ledger : Nat) (s : State) : State :=
  ((s.setFld F.ldgAuditStatusStatus status).setFld F.ldgAuditStatusLedger ledger).setFld F.ldgAuditStatusSkipped (s.fld F.secStatusResetting)

/-- The record of a break (Table 15.9). -/
def breakRecord (l : Nat) (b : Break) : ErrArgs :=
  { bank := 4, unit := l, cause := 1, cls := 3, part := b.part, address := b.eqn + b.port * 2 ^ 8 + b.vc * 2 ^ 12
    detail := b.left % 2 ^ 32 + b.right % 2 ^ 32 * 2 ^ 32 }

/-- AUDIT: a snapshot of the ledgers in the mask, then their equalities in order. After a fatal error it ends VOID. -/
def audit (mask : Nat) (s : State) : State :=
  let ls := (List.range 8).filter mask.testBit
  if ls.isEmpty then s
  else if s.on F.errStatusVoid then auditEnds 1 0 { s with err := { s.err with snapshot := none } }
  else
    let s := { s with err := { s.err with snapshot := some ((ls.flatMap ledgerRegs).map fun r => (r, s.now r)) } }
    match ls.findSome? fun l => (lowestBreak (ledgerBreaks l s)).map fun b => (l, b) with
    | some (l, b) => errRecord (breakRecord l b) (auditEnds 2 l s)
    | none => auditEnds 0 0 s

/-- AUDIT_RELEASE: the snapshot ends; a halted device takes it too (R471). -/
def auditRelease (s : State) : State := if s.up then { s with err := { s.err with snapshot := none } } else s

/-! ### Central store (R461) -/

/-- BANK_RETIRE: a bank of the interleave goes, if a spare is free. -/
def bankRetire (b : Nat) (s : State) : State :=
  if (List.range 256).any fun l => tabGet l s.err.csMap l == b then retireBank b false s else s

/-! ### Engines and cores (R459, R460) -/

/-- The image has a LOAD or PASS of the engine, in the stream of the job's logical core that runs on its core. -/
def Job.namesEngine (j : Job) (e : Nat) : Bool :=
  let has (l : List Desc) : Bool := l.any fun d => (d.opcode == 1 || d.opcode == 2) && d.unit == e % 2
  j.cores.contains (e / 2)
    && (has (j.image.main.getD (j.logical (e / 2)) []) || has (j.image.update.getD (j.logical (e / 2)) []))

/-- The patterns start on an engine. -/
def startTest (e : Nat) (unfence : Bool) (s : State) : State :=
  (s.setFld (F.engStatusState e) 5).setEng e { s.eng e with unfencing := unfence, dusk := false }

/-- SELF_TEST: accepted while the engine is IDLE and no running job's image names it. -/
def selfTest (e : Nat) (s : State) : State :=
  if !s.present e then s
  else if s.fld (F.engStatusState e) = 0 ∧ (s.jobs.any fun j => j.2.namesEngine e) = false then startTest e false s
  else dropLogged (Reg.engTest e).addr s

/-- A fenced core is in service again once every present engine has passed. -/
def coreReturns (c : Nat) (s : State) : State :=
  if (engsOf c).all fun e => !s.present e || s.fld (F.engStatusState e) == 0 then s.setFld (F.coreFenceFenced c) 0 else s

/-- SELF_TEST_DONE: a pass leaves the engine IDLE, a fail fences it. -/
def selfTestDone (e : Nat) (ok : Bool) (s : State) : State :=
  if !s.live || !s.present e || s.fld (F.engStatusState e) != 5 then s
  else
    let s := s.setEng e { s.eng e with unfencing := false }
    if ok then
      let s := (s.setFld (F.engStatusState e) 0).setFld (F.engTestResult e) 1
      if s.coreFenced (e / 2) then coreReturns (e / 2) s else s
    else
      errRecord { bank := 0x10 + e / 2, unit := e % 2, cause := 0x11, cls := 2, part := s.partOfCore (e / 2) }
        ((s.setFld (F.engStatusState e) 6).setFld (F.engTestResult e) 2)

/-- ENGINE_UNFENCE: the test runs again on a fenced engine. -/
def engineUnfence (e : Nat) (s : State) : State :=
  if s.present e && s.fld (F.engStatusState e) == 6 then startTest e true s else s

/-- CORE_FENCE: the running job ends as a fault with cause 0x05, its passes ABANDONED; the core is fenced when it has ended. -/
def coreFence (c : Nat) (s : State) : State :=
  match s.jobAt c with
  | none => fenceNow c s
  | some (k, j) =>
    let s := s.setSq c { s.sq c with fencing := true }
    if j.ending.isSome then s
    else failJob k 0x10 0xFFFF 0 0xFFFF 5 ((j.cores.flatMap engsOf).foldl (fun t e => abandonEngine e 5 t) s)

/-- CORE_UNFENCE: the present engines are tested; with none, the core is in service at once. -/
def coreUnfence (c : Nat) (s : State) : State :=
  if !s.coreFenced c then s
  else coreReturns c (((engsOf c).filter fun e => s.present e && s.fld (F.engStatusState e) == 6).foldl (fun t e => startTest e true t) s)

/-! ### The rows -/

def execBankAck (b : Fin 88) (s : State) : Res := go s (bankAck b)
def execAudit (mask : BitVec 8) (s : State) : Res := go s (onWrite .ldgAudit (audit mask.toNat))
def execAuditRelease (s : State) : Res := go s auditRelease
def execBankRetire (b : Nat) (s : State) : Res := go s (onWrite .csRetire (bankRetire b))
def execSelfTest (e : Fin 8) (s : State) : Res := go s (onWrite (.engTest e) (selfTest e))
def execSelfTestDone (e : Fin 8) (ok : Bool) (s : State) : Res := go s (selfTestDone e ok)
def execEngineUnfence (e : Fin 8) (s : State) : Res := go s (onWrite (.engTest e) (engineUnfence e))
def execCoreFence (c : Fin 4) (s : State) : Res := go s (onWrite (.coreFence c) (coreFence c))
def execCoreUnfence (c : Fin 4) (s : State) : Res := go s (onWrite (.coreFence c) (coreUnfence c))

end Sys2Proof.Machine
end

