-- ==== Sys2Proof/Machine/RegWrite.lean ====
section
/-! DEFINITION. What one 32-bit write to the control space does: field by field under access type and update class (R14, R15, R433, R434),
in the halt state (R471), through a partition-scoped window (Table 16.4), and where the field starts an operation of a row of its own. -/
namespace Sys2Proof.Machine

/-! ### When a field takes a write (R433 and the chapters it names) -/

/-- An engine is idle or in Dusk. -/
def State.engAtRest (s : State) (e : Nat) : Bool := s.engDusk e || s.engIdle e

/-- No page of the device is homed at a lender. -/
def State.nothingAt (s : State) (pos : Nat) : Bool := !(s.pages.any fun x => x.2.home == .t2 && x.2.lender == pos)

/-- The block of a class-Q field is idle, as the field's own chapter says, or by the defaults of R433. -/
def State.qIdle (s : State) (r : Reg) : Bool :=
  match r with
  | .secQpTs q | .qpDest q | .qpRetry q | .qpPsn q | .qpRpsn q | .qpSport q | .qpRingLo q | .qpRingHi q | .qpRingN q | .qpDgid q _ => s.qpState q == 0
  | .engCtrl e => (s.coreJob (e / 2)).isNone
  | .coreRngCtrl c => (s.coreJob c).isNone
  | .jobStashQuota p | .rdeMirAreaLo p | .rdeMirAreaHi p | .rdeMirLen p | .rdePairPlen p | .rdePairMlen p => !s.partTraining p
  | .jobRingCtrl p r => !s.on (F.jobRingCtrlEnable p r)
  | .spnLendPeer n => s.nothingAt (s.fld (F.spnLendPeerPos n))
  | .spnLend p => (s.lentOf p).isEmpty
  | .rdePlan n _ => !(s.rde.colls.any fun x => x.plan == n)
  | .rdeGroupCtrl => !(s.jobs.any fun j => j.2.training)
  | .pwrBrake => s.engines.all s.engAtRest
  | _ => !s.busy

/-- One field of a written word: the state, whether it was dropped, whether an RW field was accepted. -/
def writeField (r : Reg) (w : Word) (f : FieldSpec) (x : State × Bool × Bool) : State × Bool × Bool :=
  let (s, dropped, took) := x
  let v := wordField w f.lo f.width
  let old := wordField (s.reg r) f.lo f.width
  match f.acc with
  | .rw =>
    if f.cls = .s then x
    else if f.cls = .q ∧ v ≠ old ∧ s.qIdle r = false then (s, true, took)
    else (s.setReg r (wordSetField (s.reg r) f.lo f.width v), dropped, true)
  | .w1c => (s.setReg r (s.reg r &&& ~~~(wordSetField 0 f.lo f.width v)), dropped, took)
  | .ro | .wo => x

/-- Every field that software writes, under its own access type and class; a word with a dropped field counts once (R434), an accepted
retained field enters the overlay (R435). -/
def plainWrite (r : Reg) (w : Word) (s : State) : State :=
  let (t, dropped, took) := r.fields.foldl (fun x f => writeField r w f x) (s, false, false)
  let t := if took then overlayNote r t else t
  if dropped then dropLogged r.addr t else t

/-! ### The word of a row's register -/

/-- The environment of a Midnight entry, a training and a channel test, where the command that starts it is a register write. -/
def State.someEntry (s : State) : MidEnv :=
  { wakeAt := if s.pick 2 = 0 then none else some (1 + Config.value s.clock.freeIdx % 6), latched := false
    dawn := { posPins := 0, pgHigh := true, flashOk := true, pllOk := true, csBad := [], fitted := 0, packages := [], chFail := [], chDown := [],
              ports := [], hostLinks := 0, fwCopyOk := true, midnightXclk := 0, midnightUj := [] } }
def State.someLanes (s : State) : BitVec 8 := BitVec.ofNat 8 (Config.value s.clock.freeIdx)
def State.someTest (s : State) : TestRun :=
  { stillAt := if s.pick 2 = 0 then none else some (Config.value s.clock.freeIdx), bad := Config.places s.clock.freeIdx
    pprFails := (Config.places s.clock.freeIdx).map (·.1) }

/-- PWR_REQ. -/
def writePwrReq (w : Word) (s : State) : State :=
  let s := plainWrite .pwrReq w s
  if wordField w 0 1 = 1 then (requestMidnight s.someEntry s).spend else s

/-- PWR_DVFS: refused clears, then the voltage point, then the clock point. -/
def writePwrDvfs (w : Word) (s : State) : State :=
  let s := if wordField w 7 1 = 1 then s.setFld F.pwrDvfsRefused 0 else s
  clkPtWrite (wordField w 0 2) (vPtWrite (wordField w 2 2) s)

/-- SEC_CMD_OP: other codes end with BAD_OP. -/
def writeSecOp (p op : Nat) (s : State) : State :=
  if op = 0 ∨ s.partValid p = false then s
  else secCommand p (fun x t => match op with
    | 1 => secAdmit p x t
    | 2 => evictSlot p x t
    | 3 => keyLoad p x t
    | 4 => keyClear p x t
    | 5 => unsealImage p x t
    | _ => (t, secBadOp, 0)) s

/-- SEC_DEBUG. -/
def writeDebug (w : Word) (s : State) : State :=
  if wordField w 0 1 = 1 then debugEnable s else if s.debug then debugDisable s else s

/-- SPN_WINDOW: a value that would leave less than 16 MiB of span-page cache is dropped and logged (R239). -/
def writeWindow (p : Nat) (r : Reg) (w : Word) (s : State) : State :=
  let tight := match r with | .spnWindow _ => s.windowTight p w | _ => false
  if tight && w &&& r.rwMask != s.reg r &&& r.rwMask then dropLogged r.addr s
  else
    let s := plainWrite r w s
    if s.partBusy p then s else streamBoundary p s

/-- SPN_LEND: a new pool starts whole; a change of what is offered goes out. -/
def writeLend (p : Nat) (w : Word) (s : State) : State :=
  let old := s.reg (.spnLend p)
  let s := plainWrite (.spnLend p) w s
  if s.reg (.spnLend p) = old then s
  else offerChanged (if (s.lentOf p).isEmpty then { s with poolCut := tabDel s.poolCut p } else s)

/-- SPN_POLICYn: a new layout counts for every later packing of the class's pages (R253), a new pin moves them (R248). -/
def writePolicy (p n : Nat) (w : Word) (s : State) : State :=
  let old := s.policy p n
  let s := plainWrite (.spnPolicy p n) w s
  let s := if (s.policy p n).layout = old.layout then s else policyLayout p n s
  if (s.policy p n).pin = old.pin then s else policyMoves p n s

/-- CORE_ENG_CTRL. -/
def writeEngCtrl (e : Nat) (w : Word) (s : State) : State :=
  let s := plainWrite (.engCtrl e) w s
  let s := if wordField w 2 1 = 1 then cntClear e s else s
  if wordField w 0 1 = 1 then preemptWrite e s else s

/-- CORE_ENG_TEST. -/
def writeEngTest (e : Nat) (w : Word) (s : State) : State :=
  let s := if wordField w 0 1 = 1 then selfTest e s else s
  if wordField w 1 1 = 1 then engineUnfence e s else s

/-- CORE_FENCE. -/
def writeFence (c : Nat) (w : Word) (s : State) : State :=
  let s := if wordField w 0 1 = 1 then coreFence c s else s
  if wordField w 1 1 = 1 then coreUnfence c s else s

/-- MCG_TEST: a stop comes before a start. -/
def writeMcgTest (g : Nat) (w : Word) (s : State) : State :=
  let s := if wordField w 3 1 = 1 then stopChannelTest g s else s
  if wordField w 2 1 = 1 then (channelTest g (wordField w 0 2) s.someTest s).spend else s

/-- LNK_CTRL: a cleared disable leaves the port down and no longer held; a retrain trains it on lanes of the moment. -/
def writeLnkCtrl (e : Nat) (w : Word) (s : State) : State :=
  let was := s.on (F.lnkCtrlDisable e)
  let s := if wordField w 1 1 = 1 then (if was then s else settleColls (lnkDisable e s))
    else if was then
      let s := s.setFld (F.lnkCtrlDisable e) 0
      if s.fld (F.lnkStatusState e) = 5 then s.setFld (F.lnkStatusState e) 0 else s
    else s
  if wordField w 0 1 = 1 then (retrain e s.someLanes s).spend else s

/-- LIF_OVL_CTRL. -/
def writeOvlCtrl (w : Word) (s : State) : State :=
  let s := plainWrite .lifOvlCtrl w s
  if wordField w 1 1 = 1 then overlayClear s else s

/-- LIF_FLASH_CMD (Table 14.8). -/
def writeFlashCmd (cmd : Nat) (s : State) : State :=
  if s.flashUp = false ∨ cmd = 0 then s
  else match cmd with
    | 1 => stageFw s
    | 2 => stageCfg s
    | 3 => activateFw s.someEntry.dawn s
    | 4 => activateCfg s
    | 5 => abandonStaged s
    | _ => badFlashCmd s

/-- JOB_CTRL. -/
def writeJobCtrl (p : Nat) (w : Word) (s : State) : State := suspend p (wordField w 4 4) (cancel p (wordField w 0 4) s)

/-- JOB_RING_CTRL: a reset counts under the enable that stood before the write. -/
def writeRingCtrl (p r : Nat) (w : Word) (s : State) : State :=
  let s := if wordField w 1 1 = 1 then ringReset p r s else s
  plainWrite (.jobRingCtrl p r) w s

/-- A write that the device accepts: to a register of the space, in a window that may write it. -/
def regEffect (r : Reg) (w : Word) (s : State) : State :=
  match r with
  | .pwrReq => writePwrReq w s
  | .pwrDvfs => writePwrDvfs w s
  | .pwrBrake => refreshIssue (plainWrite r w s)
  | .secDebug => writeDebug w s
  | .secCmdOp p => writeSecOp p (wordField w 0 4) s
  | .secAttCtrl p => if wordField w 0 1 = 1 then attest p (wordField w 1 4) s else plainWrite r w s
  | .errPreset => settleColls (partialReset (wordField w 0 4) s)
  | .csRetire => if wordField w 0 9 = 0 then s else bankRetire (wordField w 0 9) s
  | .errBankAck b => if wordField w 0 1 = 1 then bankAck b s else s
  | .ldgAudit => audit (wordField w 0 8) (if wordField w 8 1 = 1 then auditRelease s else s)
  | .coreFence c => writeFence c w s
  | .engCtrl e => writeEngCtrl e w s
  | .engTest e => writeEngTest e w s
  | .coreRngCtrl c => if h : c < 4 then rngForce (.core ⟨c, h⟩) w s else s
  | .rdeRngCtrl => rngForce .rde w s
  | .spnWindow p | .spnStreamLo p | .spnStreamHi p | .spnStreamLen p => writeWindow p r w s
  | .spnT1Water _ => offerChanged (plainWrite r w s)
  | .spnLend p => writeLend p w s
  | .spnPolicy p n => writePolicy p n w s
  | .spnCmdOp p => if wordField w 0 6 = 0 then s else spnCommand p (wordField w 0 4) (wordField w 4 2) s
  | .mcgTest g => writeMcgTest g w s
  | .lnkCtrl e => writeLnkCtrl e w s
  | .lnkLaneTest e => if wordField w 0 8 = 0 then s else (linkAct (laneLoopback e (BitVec.ofNat 8 (wordField w 0 8)) s.someLanes) s).spend
  | .qpCtrl q => qpStateWrite q (wordField w 0 3) s
  | .qpRingAck q => ringAck q w s
  | .lifCalSetHi => calendarSet w s
  | .lifLogIdx => logRead w s
  | .lifOvlCtrl => writeOvlCtrl w s
  | .lifFlashCmd => writeFlashCmd (wordField w 0 4) s
  | .jobCtrl p => writeJobCtrl p w s
  | .jobRingCtrl p n => writeRingCtrl p n w s
  | _ => plainWrite r w s

/-! ### Who may write (R471, R474) -/

/-- The Writable column of Table 16.4. -/
def State.partWrites (s : State) (p : Nat) (r : Reg) : Bool :=
  match r with
  | .secCmdLo q | .secCmdHi q | .secCmdOp q | .secAttCtrl q | .secAttNonce q _ => q == p
  | .secQpTs q => s.qpOf p q
  | .errBankAck b => s.bankOwned p b
  | .engCtrl e | .engTest e => (s.partCores p).testBit (e / 2)
  | .coreFence c | .veFlags c => (s.partCores p).testBit c
  | .cxeStarveCtrl q => q == p
  | .spnT1Water q | .spnWindow q | .spnStreamLo q | .spnStreamHi q | .spnStreamLen q | .spnPolicy q _ | .spnLend q | .spnCmdAddrLo q
  | .spnCmdAddrHi q | .spnCmdCount q | .spnCmdOp q => q == p
  | .mcgScrubCtrl g | .mcgRemapCtrl g | .mcgTest g => (s.partMcgs p).testBit g
  | .lnkCtrl e | .lnkLaneTest e => (s.partEps p).testBit e
  | .rdeMirAreaLo q | .rdeMirAreaHi q | .rdeMirLen q | .rdePairPlen q | .rdePairMlen q => q == p
  | .qpCtrl q | .qpDest q | .qpRetry q | .qpPsn q | .qpRpsn q | .qpSport q | .qpRingLo q | .qpRingHi q | .qpRingN q | .qpRingAck q
  | .qpDgid q _ => s.qpOf p q
  | .jobCtrl q | .jobRingCtrl q _ | .jobStashQuota q => q == p
  | _ => false

def State.mayWrite (s : State) (sc : Scope) (r : Reg) : Bool :=
  match sc with
  | .device _ => true
  | .partition _ p => s.partWrites p r

/-- A write in the halt state: four kinds of register take it, every other write is dropped and logged. -/
def haltWrite (r : Reg) (w : Word) (s : State) : State :=
  match r with
  | .errBankAck _ | .glbScratch _ | .lifCalSetLo | .lifCalSetHi => regEffect r w s
  | .ldgAudit =>
    let s := if wordField w 8 1 = 1 then auditRelease s else s
    if wordField w 0 8 = 0 then s else dropLogged r.addr s
  | _ => dropLogged r.addr s

/-- The engine of a register. -/
def Reg.engine : Reg → Option Nat
  | .engStatus e | .engCtrl e | .engTest e | .engRowsLo e | .engRowsHi e | .engFreezeLo e | .engFreezeHi e | .engThrottleLo e
  | .engThrottleHi e => some e
  | _ => none

/-- One 32-bit write: what is no naturally aligned register, a register the window does not write and one of an absent engine ignore it. -/
def regWrite (sc : Scope) (a : Nat) (w : Word) (s : State) : State :=
  if !s.up then s
  else
    let s := accessWakes sc a s
    match regAt a with
    | none => s
    | some r =>
      let absent := match r.engine with | some e => !s.present e | none => false
      if !s.mayWrite sc r || absent then s
      else if s.on F.errStatusHalted then haltWrite r w s
      else regEffect r w s

def execRegisterWrite (a : Nat) (v : Word) (sc : Scope) (s : State) : Res := go s fun t => regWrite sc a v (coarsen t)

end Sys2Proof.Machine
end

