-- ==== Sys2Proof/Machine/Rdma.lean ====
section
/-! DEFINITION. The responder side of a host port (R354 to R358, R142): RDMA WRITEs and READs through memory windows, SENDs into a receive
ring, and requests the device does not support. The order of packets and the answer to one that is out of order are those of RoCE v2 reliable
connections (log entry 87; the waiting, entry 88). A message that must wait for the STU stays in the port's receive buffer; the command stands for its arrival and for
each later attempt to serve it. -/
namespace Sys2Proof.Machine

/-! ### Whether a message is served -/

/-- The queue pair answers: a packet reaches it, and it is in RTR or RTS. -/
def State.answers (s : State) (q : Nat) : Bool := s.hears q && (s.qpState q == 2 || s.qpState q == 3)

/-- The messages that wait in the buffer for the queue pair hold back those that follow. -/
def State.blocked (s : State) (q psn : Nat) : Bool :=
  (s.hp (s.qpPort q)).held.any fun y => y.q == q && y.psn == (s.qp q).epsn && y.psn != psn

/-- The message is refused and the queue pair is in ERROR. -/
def nakError (q psn : Nat) (k : NakKind) (s : State) : State := qpError q ((bufferRelease q psn s).sendQp q (.nak q psn k))

/-- A READ that waits: a responder has at most 16 of them (R353). One beyond is answered with NAK Invalid Request (log entry 218). -/
def holdRead (q psn : Nat) (s : State) : State :=
  let l := (s.hp (s.qpPort q)).held
  if decide (16 ≤ (l.filter fun y => y.q == q && y.isRead).length) && !(l.any fun y => y.q == q && y.psn == psn) then
    nakError q psn .invalidRequest s
  else bufferHold q psn 0 true s

/-- A request at its place in the sequence is served by `f`; a repeated WRITE or SEND is acknowledged again, a repeated READ served again, and
one beyond a gap is answered with NAK for the number expected. `n` is its size in bytes. -/
def inOrder (q psn n : Nat) (ce isRead : Bool) (f : State → State) (s : State) : State :=
  if !s.answers q then s
  else
    let s := ceMarked q ce s
    let e := (s.qp q).epsn
    if psn % 2 ^ 24 = e then f s
    else if psnLe psn ((e + 2 ^ 24 - 1) % 2 ^ 24) then if isRead then f s else s.sendQp q (.ack q ((e + 2 ^ 24 - 1) % 2 ^ 24))
    else if s.blocked q psn then if isRead then holdRead q psn s else bufferHold q psn n false s
    else s.sendQp q (.nak q e .psnSequence)

/-- The expected number moves past a message of `k` packets. -/
def advance (q psn k : Nat) (s : State) : State :=
  if s.answers q && psn % 2 ^ 24 == (s.qp q).epsn then s.setQp q { s.qp q with epsn := (psn + k) % 2 ^ 24 } else s

/-- The message has been placed: its last packet is acknowledged. -/
def ackMessage (q psn k : Nat) (s : State) : State :=
  let s := bufferRelease q psn s
  if s.answers q then (advance q psn k s).sendQp q (.ack q ((psn + k - 1) % 2 ^ 24)) else s

/-- NAK Remote Access Error, counted at the port. -/
def accessError (q psn : Nat) (s : State) : State := nakError q psn .remoteAccess (s.bump (F.hptAccessErrAccess (s.qpPort q)))

/-- RNR NAK with the queue pair's timer code: nothing is placed, and the queue pair stays as it is. -/
def rnrNak (q psn : Nat) (s : State) : State := (bufferRelease q psn s).sendQp q (.nak q psn (.rnr (s.fld (F.qpRetryMinRnr q))))

/-! ### Memory windows (R355) -/

/-- The window and the offset in it that a request is admitted to. -/
def State.admits (s : State) (q rkey va n : Nat) (write : Bool) : Option (Nat × Nat) :=
  if rkey = 0 then none
  else match (List.range 256).find? fun w => (s.reg (.mwKey w)).toNat == rkey
      && (if s.on (F.mwAttrDevice w) then s.on (F.qpPartMgmt q) else s.fld (F.mwAttrPartition w) == s.fld (F.qpPartPartition q)) with
    | some w =>
      let base := s.pair (.mwVaLo w) (.mwVaHi w)
      if base ≤ va ∧ va - base + n ≤ (s.reg (.mwLen w)).toNat * 65536 ∧ (if write then s.on (F.mwAttrWr w) else s.on (F.mwAttrRd w)) = true
      then some (w, va - base) else none
    | none => none

/-- The scope in which a control window shows and takes registers. -/
def State.windowScope (s : State) (q : Fin 1024) (w : Nat) : Scope :=
  if s.on (F.mwAttrDevice w) then .device q else .partition q ⟨s.fld (F.mwAttrPartition w) % 4, Nat.mod_lt _ (by decide)⟩

/-- The span address of an offset in a span window. -/
def State.windowAddr (s : State) (w off : Nat) : Nat := s.pair (.mwBaseLo w) (.mwBaseHi w) % 2 ^ 52 + off

/-- A message to a control window is made of naturally aligned 32-bit accesses (R13, R356); any other one is ignored and reads 0. -/
def controlOk (off n : Nat) : Bool := off % 4 == 0 && n % 4 == 0

/-! ### Receive rings (R357) -/

def State.ringBase (s : State) (q : Nat) : Nat := s.pair (.qpRingLo q) (.qpRingHi q) % 2 ^ 52
def State.slotAddr (s : State) (q : Nat) : Nat := s.ringBase q + ((s.qp q).ringSeq + 2 ^ 32 - 1) % 2 ^ 32 % s.ringSlots q * 4096

/-- The last 64 B of a slot. -/
def trailer (len : Nat) (imm : Option Word) (seq : Nat) : List Byte :=
  leBytes 4 len ++ leBytes 4 ((imm.map (·.toNat)).getD 0) ++ leBytes 4 (boolNat imm.isSome) ++ List.replicate 48 (0 : Byte) ++ leBytes 4 seq

/-- What a message writes into its slot. A ring that does not lie in the partition's span takes no bytes. -/
def State.slotWrites (s : State) (q : Nat) (data : List Byte) (imm : Option Word) : List (Nat × List Byte) :=
  let a := s.slotAddr q
  if inRange (s.range (s.fld (F.qpPartPartition q))) a 4096 then [(a, data), (a + 0xFC0, trailer data.length imm (s.qp q).ringSeq)] else []

/-- The slot is used: one fewer is free, and the next sequence number follows. -/
def takeSlot (q : Nat) (s : State) : State :=
  let x := s.qp q
  s.setQp q { x with freeSlots := x.freeSlots - 1, ringSeq := (x.ringSeq + 1) % 2 ^ 32 }

/-- Bytes are placed in a partition's span and the message acknowledged, or it waits in the buffer for the STU. -/
def place (q psn k p n : Nat) (ws : List (Nat × List Byte)) (after : State → State) (s : State) : State :=
  match touch p { reads := [], writes := (ws.filter fun w => !w.2.isEmpty).map fun w => (w.1, w.2.length) } s with
  | .wait t => bufferHold q psn n false t
  | .ok t _ => ackMessage q psn k (after (ws.foldl (fun u w => u.writeBytes w.1 w.2) t))

/-! ### The requests -/

/-- Ring bytes of a partition (R141). -/
def writeRings (p off : Nat) (data : List Byte) (s : State) : State := { s with rings := memPutAll s.rings (p * 2 ^ 20 + off) data }

/-- RDMA WRITE. -/
def serveWrite (m : RdmaWrite) (s : State) : State :=
  let q := m.q.val
  let n := m.data.length
  let k := s.packets q n
  match s.admits q m.rkey.toNat m.va n true with
  | none => accessError q m.psn s
  | some (w, off) =>
    let p := s.fld (F.mwAttrPartition w)
    match s.fld (F.mwAttrKind w) with
    | 0 =>
      let a := s.windowAddr w off
      let ring := m.imm.isSome && s.ringBase q != 0
      if s.on F.errStatusHalted then s
      else if !inRange (s.range p) a n then accessError q m.psn s
      else if ring && (s.qp q).freeSlots == 0 then rnrNak q m.psn s
      else place q m.psn k p n ((a, m.data) :: (if ring then (s.slotWrites q [] m.imm) else []))
        (fun t => if ring then takeSlot q t else t) s
    | 1 =>
      if s.on F.errStatusHalted then s
      else if 2 ^ 20 < off + n then accessError q m.psn s
      else ackMessage q m.psn k (writeRings p off m.data s)
    | 2 =>
      if 4096 < n then nakError q m.psn .invalidRequest s
      else if !controlOk off n then ackMessage q m.psn k s
      else
        let sc := s.windowScope m.q w
        ackMessage q m.psn k ((List.range (n / 4)).foldl (fun t i => regWrite sc (off + 4 * i) (BitVec.ofNat 32 (leAt m.data (4 * i) 4)) t) s)
    | _ => accessError q m.psn s

/-- The response to a READ. -/
def answerRead (q psn n : Nat) (data : List Byte) (s : State) : State :=
  let s := bufferRelease q psn s
  if s.answers q then (advance q psn (s.packets q n) s).sendQp q (.readResp q psn data) else s

/-- READ_POISON (R358): the packets before the first affected one have gone out. -/
def readPoison (q psn p a : Nat) (data : List Byte) (first : Nat) (s : State) : State :=
  let unit := 1024 * 2 ^ s.fld (F.qpDestPmtu q)
  let s := if first = 0 then s else s.sendQp q (.readResp q psn (data.take (first * unit)))
  errRecord { bank := 0x14 + s.qpPort q, unit := q, cause := 2, cls := 1, part := some p, address := a + first * unit }
    (nakError q ((psn + first) % 2 ^ 24) .remoteOperational (bufferRelease q psn s))

/-- The first packet of a response that a poisoned or lost part of the range falls into. -/
def State.firstBadPacket (s : State) (q a n : Nat) (bad : List Nat) : Option Nat :=
  let unit := 1024 * 2 ^ s.fld (F.qpDestPmtu q)
  (List.range (ceilDiv n unit)).find? fun i => s.bad bad (a + i * unit) (min unit (n - i * unit))

/-- RDMA READ. -/
def serveRead (m : RdmaRead) (s : State) : State :=
  let q := m.q.val
  let n := m.len
  match s.admits q m.rkey.toNat m.va n false with
  | none => accessError q m.psn s
  | some (w, off) =>
    let p := s.fld (F.mwAttrPartition w)
    match s.fld (F.mwAttrKind w) with
    | 0 =>
      let a := s.windowAddr w off
      if !inRange (s.range p) a n then accessError q m.psn s
      else match touch p { reads := if n = 0 then [] else [(a, n)], writes := [] } s with
        | .wait t => holdRead q m.psn t
        | .ok t bad =>
          match t.firstBadPacket q a n bad with
          | some i => readPoison q m.psn p a (t.bytes a n) i t
          | none => answerRead q m.psn n (t.bytes a n) t
    | 1 =>
      if 2 ^ 20 < off + n then accessError q m.psn s
      else answerRead q m.psn n (memBytes s.rings (p * 2 ^ 20 + off) n) s
    | 2 =>
      if 4096 < n then nakError q m.psn .invalidRequest s
      else if !controlOk off n then answerRead q m.psn n (List.replicate n 0) s
      else
        let sc := s.windowScope m.q w
        let r := (List.range (n / 4)).foldl (fun (x : State × List Byte) i =>
          let (t, v) := readWord sc (off + 4 * i) x.1
          (t, x.2 ++ leBytes 4 v.toNat)) (coarsen s, [])
        answerRead q m.psn n r.2 r.1
    | _ => accessError q m.psn s

/-- SEND. A halted device places nothing (R454). -/
def serveSend (m : RdmaSend) (s : State) : State :=
  let q := m.q.val
  let n := m.data.length
  if 4032 < n then nakError q m.psn .invalidRequest s
  else if s.on F.errStatusHalted then s
  else if s.ringBase q = 0 ∨ (s.qp q).freeSlots = 0 then rnrNak q m.psn s
  else place q m.psn (s.packets q n) (s.fld (F.qpPartPartition q)) n (s.slotWrites q m.data m.imm) (takeSlot q) s

/-! ### The rows -/

def rdmaWriteReceive (m : RdmaWrite) (s : State) : State := inOrder m.q m.psn m.data.length m.ce false (serveWrite m) s
def rdmaReadRequest (m : RdmaRead) (s : State) : State := inOrder m.q m.psn 0 m.ce true (serveRead m) s
def sendReceive (m : RdmaSend) (s : State) : State := inOrder m.q m.psn m.data.length m.ce false (serveSend m) s
/-- A SEND with invalidate or an atomic. -/
def invalidRequest (q psn : Nat) (ce : Bool) (s : State) : State := inOrder q psn 0 ce false (nakError q psn .invalidRequest) s

def execRdmaWriteReceive (m : RdmaWrite) (s : State) : Res := go s (rdmaWriteReceive m)
def execRdmaReadRequest (m : RdmaRead) (s : State) : Res := go s (rdmaReadRequest m)
def execSendReceive (m : RdmaSend) (s : State) : Res := go s (sendReceive m)
def execInvalidRequest (q : Fin 1024) (h : Bth) (s : State) : Res := go s (invalidRequest q h.psn h.ce)

end Sys2Proof.Machine
end

