-- ==== Sys2Proof/Machine/Flags.lean ====
section
/-! DEFINITION. The flag computations of the vector engine (R184, R188): what one rounding of a lane raises, and the sticky register
CORE_VE_FLAGS. -/
namespace Sys2Proof.Machine

/-- Flags that an instruction raises. -/
structure VFlags where
  ovf : Bool
  inv : Bool
  nf : Bool
deriving DecidableEq, Repr

def VFlags.none : VFlags := { ovf := false, inv := false, nf := false }

def VFlags.join (a b : VFlags) : VFlags := { ovf := a.ovf || b.ovf, inv := a.inv || b.inv, nf := a.nf || b.nf }

/-- The flags of many lanes. -/
def joinAll (l : List VFlags) : VFlags := l.foldl VFlags.join VFlags.none

/-- A result is sticky until software clears it. -/
def raiseFlags (c : Nat) (f : VFlags) (s : State) : State :=
  let s := if f.ovf then s.setFld (F.veFlagsOvf c) 1 else s
  let s := if f.inv then s.setFld (F.veFlagsInv c) 1 else s
  if f.nf then s.setFld (F.veFlagsNf c) 1 else s

/-- What a written result raises: an infinity of finite operands is ovf, a NaN of operands that are none is inv. -/
def resultFlags (r : Num) (ops : List Num) : VFlags :=
  { ovf := ops.all (·.finite) && (match r with | .inf _ _ => true | _ => false), inv := r.isNan && !ops.any (·.isNan), nf := false }

/-- One rounding of an exact result into BF16 or FP16 (R184): the lane's bits and the flags. -/
def putLane (ty : Nat) (x : Num) (ops : List Num) (rm : Rm) : Half × VFlags :=
  let b := (convert ty x rm).1
  (BitVec.ofNat 16 b, resultFlags (match x with | .nan i => .nan i | _ => decodeElem ty b) ops)

/-- A square root is rounded from its exact value. -/
def putSqrt (ty : Nat) (q : Rat) (ops : List Num) (rm : Rm) : Half × VFlags :=
  match roundMagTo ty false (magSqrt q) rm with
  | some b => (BitVec.ofNat 16 b, VFlags.none)
  | none => (BitVec.ofNat 16 (infBits ty false), resultFlags (.inf false false) ops)

/-- A value rounded to INT16 at spacing 1 and saturated; NaN gives 0 and raises inv (R189). -/
def putInt (x : Num) (rm : Rm) : Half × VFlags :=
  match x with
  | .nan _ => (0, { VFlags.none with inv := true })
  | .inf n _ => (if n then 0x8000 else 0x7FFF, VFlags.none)
  | .fin q _ =>
    if q = 0 then (0, VFlags.none)
    else
      -- spacing 1 at every magnitude below 2^23, beyond which the result saturates
      let a := if q < 0 then -q else q
      let n : Int := if 2 ^ 20 ≤ a then 2 ^ 20 else
        let (s, u) := roundMag 30 30 (magOf a) rm
        ((s : Rat) * pow2 u).floor
      let v : Int := if q < 0 then -n else n
      (BitVec.ofInt 16 (max (-32768) (min 32767 v)), VFlags.none)

end Sys2Proof.Machine
end

