-- ==== Sys2Proof/Machine/Operands.lean ====
section
/-! DEFINITION. The operand forms of the vector engine (R181 to R183, R191): the fields of an instruction, which of them each opcode
uses, its registers, and the memory operands with their checks. -/
namespace Sys2Proof.Machine

/-! ### Instruction words (Table 6.5) -/

/-- An instruction of a vector kernel. -/
structure VInstr where
  op : Nat
  d : Nat
  a : Nat
  b : Nat
  c : Nat
  rm : Bool
  ty : Nat
  sb : Bool
  x : Nat
  imm : Nat
deriving DecidableEq, Repr

/-- The fields of a word. -/
def parseV (w : Nat) : VInstr :=
  { op := bitsAt w 0 8, d := bitsAt w 8 6, a := bitsAt w 14 6, b := bitsAt w 20 6, c := bitsAt w 26 6, rm := bitAt w 32, ty := bitsAt w 33 2,
    sb := bitAt w 35, x := bitsAt w 36 4, imm := bitsAt w 40 24 }

/-- The 24-bit immediate, signed. -/
def VInstr.simm (i : VInstr) : Int := signedOf 24 i.imm

/-- What a register field names: nothing, V, S or A, or a 4-bit number in its low bits. -/
inductive Slot | unused | v | s | a | num
deriving DecidableEq, Repr

def Slot.fits (k : Slot) (f : Nat) : Bool :=
  match k with | .unused => f == 0 | .v => true | .s => decide (f < 32) | .a => decide (f < 16) | .num => decide (f < 16)

/-- How an opcode uses rm: not at all (0 stands there), freely, or fixed at SR. -/
inductive RmUse | zero | free | sr
deriving DecidableEq, Repr

/-- How an opcode uses ty: not at all, BF16 or FP16, INT16 too, BF16 only. -/
inductive TyUse | zero | float | any | bf16
deriving DecidableEq, Repr

/-- The fields that an opcode uses. -/
structure Shape where
  d : Slot
  a : Slot
  b : Slot
  c : Slot
  rm : RmUse
  ty : TyUse
  sb : Bool
  x : Bool
  imm : Bool
deriving DecidableEq, Repr

def shape0 : Shape := { d := .unused, a := .unused, b := .unused, c := .unused, rm := .zero, ty := .zero, sb := false, x := false, imm := false }

/-- Table 6.6: the shape of each opcode, none where it is undefined. -/
def shapeOf (op : Nat) : Option Shape :=
  let vv : Shape := { shape0 with d := .v, a := .v }
  let vvv : Shape := { vv with b := .v }
  let mem : Shape := { shape0 with a := .a, x := true, imm := true }
  match op with
  | 0x00 | 0x01 | 0x09 => some shape0
  | 0x02 | 0x07 | 0x08 => some { shape0 with imm := true }
  | 0x03 => some { shape0 with a := .a, imm := true }
  | 0x04 => some { shape0 with d := .a, imm := true }
  | 0x05 => some { shape0 with d := .a, a := .a, imm := true }
  | 0x06 => some { shape0 with d := .a, a := .a, b := .a }
  | 0x10 | 0x11 | 0x12 => some { vvv with rm := .free, ty := .any, sb := true }
  | 0x13 | 0x14 | 0x15 => some { vvv with c := .v, rm := .free, ty := .float, sb := true }
  | 0x16 | 0x17 => some { vvv with ty := .any, sb := true }
  | 0x18 | 0x19 => some { vv with ty := .float }
  | 0x1A => some { vv with rm := .free, ty := .float, imm := true }
  | 0x1B => some { vv with ty := .any }
  | 0x1C => some { shape0 with d := .v, ty := .float, imm := true }
  | 0x1D | 0x1E | 0x1F => some { vvv with ty := .float, sb := true }
  | 0x20 => some { vvv with ty := .any, sb := true, x := true }
  | 0x21 => some { vvv with c := .v }
  | 0x22 => some { vv with ty := .float }
  | 0x30 | 0x31 | 0x32 | 0x33 | 0x34 | 0x35 | 0x36 | 0x37 | 0x38 | 0x39 => some { vv with rm := .free, ty := .float }
  | 0x3A => some { vvv with rm := .free, ty := .float, sb := true }
  | 0x40 | 0x43 => some { shape0 with d := .s, a := .v, rm := .free, ty := .float }
  | 0x41 | 0x42 => some { shape0 with d := .s, a := .v, ty := .float }
  | 0x44 => some { shape0 with d := .s, a := .v, b := .v, rm := .free, ty := .float }
  | 0x45 => some { shape0 with d := .v, a := .s }
  | 0x46 => some { shape0 with d := .s, a := .v, imm := true }
  | 0x47 => some { shape0 with d := .v, a := .s, imm := true }
  | 0x48 => some vvv
  | 0x50 => some { vv with rm := .free, ty := .any, x := true }
  | 0x51 | 0x52 => some { mem with d := .v, b := .a, c := .num, rm := .free, ty := .float }
  | 0x60 | 0x61 | 0x62 | 0x63 => some { mem with d := .v, b := .a }
  | 0x64 | 0x65 => some { mem with d := .v, b := .v, c := .num }
  | 0x66 | 0x67 => some { mem with d := .s }
  | 0x70 => some { vvv with c := .v, rm := .sr, ty := .bf16 }
  | 0x71 => some { vvv with rm := .sr, ty := .bf16 }
  | 0x72 | 0x73 => some { shape0 with a := .v, rm := .sr, ty := .float }
  | 0x74 => some mem
  | 0x75 => some { shape0 with d := .s, a := .a, x := true }
  | _ => none

/-- The field rules of R181, R182 and R186, R189, R190, R193, R195: a breach is fault 0x01. -/
def VInstr.wellFormed (i : VInstr) : Bool :=
  match shapeOf i.op with
  | none => false
  | some h =>
    h.d.fits i.d && h.a.fits i.a && (if i.sb then h.sb && Slot.s.fits i.b else h.b.fits i.b) && h.c.fits i.c
    && (match h.rm with | .zero => !i.rm | .free => true | .sr => i.rm)
    && (match h.ty with | .zero | .bf16 => i.ty == 0 | .float => decide (i.ty < 2) | .any => decide (i.ty < 3))
    && (h.x || i.x == 0) && (h.imm || i.imm == 0)
    && !(i.op == 0x20 && decide (8 ≤ i.x)) && !(i.op == 0x50 && decide (3 ≤ i.x))
    && !((i.op == 0x51 || i.op == 0x52) && decide (10 ≤ i.c))

/-! ### One instruction at work -/

/-- What an instruction works with: its core, job, kernel and fields, VL, the draws of its act. -/
structure VCtx where
  core : Nat
  k : Nat
  j : Job
  q : QItem
  i : VInstr
  vl : Nat
  draws : Draws
deriving DecidableEq, Repr

/-- How an instruction ends: retired, faulted with a code of Table 6.4, or waiting for data of another tier. -/
inductive VOut
  | ok (s : State)
  | fault (code : Nat) (s : State)
  | wait (s : State)

/-- Registers. A lane that no kernel has written holds 0. -/
def Ve.lane (x : Ve) (r n : Nat) : Half := (tabGet [] x.v r).getD n 0
def Ve.sreg (x : Ve) (r : Nat) : Half := tabGet 0 x.s r
def Ve.areg (x : Ve) (r : Nat) : Nat := (tabGet (0 : Addr48) x.a r).toNat

/-- Lanes 0 to VL − 1 of a register are written; the others keep their values (R183). -/
def Ve.setLanes (x : Ve) (r : Nat) (l : List Half) : Ve :=
  let old := tabGet [] x.v r
  { x with v := tabPut x.v r ((List.range 1024).map fun n => match l[n]? with | some h => h | none => old.getD n 0) }

def Ve.setS (x : Ve) (r : Nat) (h : Half) : Ve := { x with s := tabPut x.s r h }
def Ve.setA (x : Ve) (r : Nat) (v : Int) : Ve := { x with a := tabPut x.a r (BitVec.ofInt 48 v) }

/-- The lanes an instruction acts on. -/
def VCtx.lanes (c : VCtx) : List Nat := List.range c.vl

/-- Operands of lane `n`; operand b may be a broadcast S register (R182). -/
def VCtx.bitsA (c : VCtx) (x : Ve) (n : Nat) : Half := x.lane c.i.a n
def VCtx.bitsB (c : VCtx) (x : Ve) (n : Nat) : Half := if c.i.sb then x.sreg (c.i.b % 32) else x.lane c.i.b n
def VCtx.bitsC (c : VCtx) (x : Ve) (n : Nat) : Half := x.lane c.i.c n

/-- The number that a lane of the instruction's register format holds. -/
def VCtx.num (c : VCtx) (h : Half) : Num := decodeElem c.i.ty h.toNat

/-- The rounding mode at a lane site (R185): output `o`, `occ` fclk of occupancy. -/
def VCtx.rm (c : VCtx) (o occ n : Nat) : Rm := if c.i.rm then .sr (c.draws.at (o * occ + n * occ / 1024) (1024 * o + n)) else .rne

/-- The rounding mode at a scalar site. -/
def VCtx.rmAt (c : VCtx) (site : Nat) : Rm := if c.i.rm then .sr (c.draws.at 0 site) else .rne

/-- A free index for the approximation in lane `n`. -/
def VCtx.idx (c : VCtx) (n : Nat) : Nat := c.draws.idx + 64 + n

/-! ### Memory operands (R149, R191) -/

/-- Base entry x with its strides, none beyond the image's entries. -/
def VCtx.base (c : VCtx) : Option Nat :=
  (c.j.image.bases[c.i.x]?).map fun b => b.addr + b.strideMicro * c.q.micro + b.strideAttempt * c.q.attempt

/-- An address formed from a base and offsets, modulo 2^64. -/
def offAddr (base : Nat) (o : Int) : Nat := (((base : Int) + o) % (2 ^ 64 : Nat)).toNat

/-- Element addresses of LD, ST: contiguous; of LDS, STS: strided; of LDG, STG: by index. -/
def VCtx.contiguous (c : VCtx) (x : Ve) (base : Nat) : List Nat :=
  let o := offAddr base ((x.areg c.i.a : Int) + x.areg c.i.b + c.i.simm)
  c.lanes.map fun n => o + 2 * n
def VCtx.strided (c : VCtx) (x : Ve) (base : Nat) : List Nat :=
  c.lanes.map fun (n : Nat) => offAddr base ((x.areg c.i.a : Int) + c.i.simm + (n : Int) * signedOf 48 (x.areg c.i.b))
def VCtx.indexed (c : VCtx) (x : Ve) (base : Nat) : List Nat :=
  c.lanes.map fun n => offAddr base ((x.areg c.i.a : Int) + c.i.simm + (x.lane c.i.b n).toNat * 2 ^ c.i.c)
/-- The one address of SLD and SST; of NSTORE and CLIPF. -/
def VCtx.scalarAddr (c : VCtx) (x : Ve) (base : Nat) : Nat := offAddr base ((x.areg c.i.a : Int) + c.i.simm)
def VCtx.pairAddr (c : VCtx) (x : Ve) (base : Nat) : Nat := offAddr base (x.areg c.i.a)

/-- A memory instruction (R191): its base entry, its alignment, the span, then the access. `f` acts on the state after it. -/
def VCtx.memory (c : VCtx) (align : Nat) (write : Bool) (ranges : Nat → List (Nat × Nat)) (f : Nat → State → State) (s : State) : VOut :=
  match c.base with
  | none => .fault 3 s
  | some b =>
    let rs := ranges b
    if rs.any fun r => r.1 % align != 0 then .fault 2 s
    else if rs.any fun r => !s.inSlice c.j r.1 r.2 then .fault 3 s
    else match touch c.j.part (if write then { reads := [], writes := rs } else { reads := rs, writes := [] }) s with
      | .wait t => .wait (t.setFld (F.veStatusMemWait c.core) 1)
      | .ok t bad =>
        let t := t.setFld (F.veStatusMemWait c.core) 0
        if write then .ok (pairStream c.k rs (f b t))
        else if rs.any fun r => t.bad bad r.1 r.2 then .fault 4 t else .ok (f b t)

end Sys2Proof.Machine
end

