-- ==== Sys2Proof/Machine/Ve.lean ====
section
/-! DEFINITION. The vector engines (chapter 6): the start of a kernel, one instruction at a time, its end, and its faults. The
instruction at PC in the instruction store decides what a core's vector engine does next; a row of another instruction has no
effect then. -/
namespace Sys2Proof.Machine

/-! ### Kernels (R174 to R180) -/

/-- A kernel stops on a fault: its job ends with VKERN_FAULT, a training job after phase 8 (R180). -/
def veFault (c code : Nat) (s : State) : State :=
  let x := s.ve c
  match x.kernel, s.jobAt c with
  | some q, some (k, j) =>
    let pc := s.fld (F.vePcPc c)
    let s := s.setVe c { x with running := false, kernel := none }
    let s := ((s.setFld (F.veStatusState c) 2).setFld (F.veStatusLastFault c) code).setFld (F.veStatusMemWait c) 0
    let s := failJob k 0x11 q.d.layer q.d.tag q.microNo (pc + code * 2 ^ 24) s
    if j.training then
      match (s.sq c).queue .ve with
      | h :: _ => if h.no = q.no then completeHead c .ve s else s
      | [] => s
    else s
  | _, _ => s

/-- What slot select adds to an A register (Table 6.3), none where it is a fault. -/
def slotSelect (j : Job) (code : Nat) : Option Nat :=
  let t := j.train
  let d : Int := if code ≤ 2 then (t.paramB : Int) - t.paramA else (t.momB : Int) - t.momA
  if code = 0 then some 0
  else if !j.training || decide (4 < code) || decide (d < 0) || decide ((2 ^ 47 : Int) ≤ d) then none
  else some (if (code % 2 == 1) == t.slotB then d.toNat else 0)

/-- A kernel starts with its registers (Tables 6.1 and 6.2). Each V register keeps what an earlier kernel left, or holds zeros (R174). -/
def startKernel (c : Nat) (j : Job) (q : QItem) (block : List Byte) (s : State) : State :=
  let x := s.ve c
  let entry := (j.addrOf q 0x10).getD 0
  let ok := decide (x.storeAt ≤ entry) && (entry - x.storeAt) % 8 == 0 && decide ((entry - x.storeAt) / 8 < 8192)
  let args := !block.isEmpty
  let sel := (List.range 16).map fun i => if args then slotSelect j (leAt block (8 * i + 6) 2 % 8) else some 0
  let kept := x.v.filter fun r => s.clock.freeIdx.add (r.1 + 1) |> Config.pick |> fun n => n % 2 == 0
  let x1 : Ve := { x with
    v := kept
    a := (List.range 16).map fun i => (i, BitVec.ofNat 48 (leAt block (8 * i) 6 + ((sel.getD i none).getD 0)))
    s := (List.range 32).map fun i => (i, BitVec.ofNat 16 (leAt block (0x80 + 2 * i) 2))
    layer := 0xFFFF, nr := (0, 0), nw := (0, 0), nu := (0, 0), nt := (0, 0), ng := (0, 0), stall := 0
    running := true, kernel := some q, lossAt := if args then leAt block 0xC0 4 else noAddr, dusk := false }
  let s := { s.setVe c x1 with clock := { s.clock with freeIdx := s.clock.freeIdx + 80 } }
  let s := ((s.setFld (F.veStatusState c) 1).setFld (F.veStatusVl c) 1024).setFld (F.veStatusMemWait c) 0
  let s := s.setFld (F.vePcPc c) ((entry - x.storeAt) / 8)
  if args && (List.range 16).any fun i => decide (8 ≤ leAt block (8 * i + 6) 2) then veFault c 1 s
  else if sel.any (·.isNone) then veFault c 9 s
  else if !ok then veFault c 6 s
  else s

/-- VKERN: the argument block is read, the registers are loaded, the kernel starts at its entry point. -/
def vkernRow (c : Nat) (s : State) : State :=
  if (s.ve c).running then s
  else match s.ready c .ve 3 with
  | none => s
  | some (k, j, q) =>
    let s := seedFirst k (8 + c) s
    if q.d.at 0x14 4 = noAddr then startKernel c j q [] s
    else
      let dead (code : Nat) (t : State) : State :=
        veFault c code (t.setVe c { t.ve c with running := true, kernel := some q })
      match j.addrOf q 0x14 with
      | none => dead 3 s
      | some a =>
        if !s.inSlice j a 256 then dead 3 s
        else match touch j.part { reads := [(a, 256)], writes := [] } s with
          | .wait t => t
          | .ok t bad => if t.bad bad a 256 then dead 4 t else startKernel c j q (t.bytes a 256) t

/-- VKERN_LIMIT: a kernel past its limit is stopped (R157). -/
def vkernLimit (c : Nat) (s : State) : State :=
  match (s.ve c).kernel with
  | some q => if s.live && (s.ve c).running && q.d.at 0x18 4 != 0 then veFault c 7 s else s
  | none => s

/-! ### Fetch and retire -/

/-- The instruction at PC: its word, none outside the kernel area. -/
def State.vfetch (s : State) (c : Nat) (j : Job) : Option Nat :=
  let pc := s.fld (F.vePcPc c)
  if 8 * pc + 8 ≤ j.image.kernelLen then some (leAt (s.ve c).store (8 * pc) 8) else none

/-- An instruction retires; PC goes on by `step`. -/
def retire (c : Nat) (step : Int) (s : State) : State :=
  let pc := unsignedOf 13 ((s.fld (F.vePcPc c) : Int) + step)
  (s.setFld (F.vePcPc c) pc).bump64 (.veRetiredLo c) (.veRetiredHi c) 1

/-- One instruction of core `c` if its opcode is `op`: fetched, checked, executed. What an instruction leaves it returns in `act`; PC
goes on by one unless the instruction branches. -/
def veRow (c op : Nat) (act : VCtx → State → VOut) (s : State) : State :=
  let x := s.ve c
  match x.kernel, s.jobAt c with
  | some q, some (k, j) =>
    if !s.live || s.coreFenced c || !x.running then s
    else match s.vfetch c j with
      | none => veFault c 6 s
      | some w =>
        let i := parseV w
        if (shapeOf i.op).isNone then veFault c 1 s
        else if i.op ≠ op then s
        else if !i.wellFormed then veFault c 1 s
        else
          let ctx : VCtx := { core := c, k := k, j := j, q := q, i := i, vl := s.fld (F.veStatusVl c), draws := s.draws (8 + c) }
          match act ctx s with
          | .ok t => t
          | .fault code t => veFault c code t
          | .wait t => t.bump64 (.veMemstallLo c) (.veMemstallHi c) (Config.elapsed s.clock.freeIdx)
  | _, _ => s

/-- The instruction changes the vector engine, raises flags, and retires; its rounding sites have used their free values. -/
def VCtx.done (c : VCtx) (x : Ve) (f : VFlags) (s : State) : VOut :=
  .ok (retire c.core 1 (raiseFlags c.core f ((s.setVe c.core x).drawn (8 + c.core) 4096)))

/-! ### Control (Table 6.6) -/

def nopAct (c : VCtx) (s : State) : VOut := .ok (retire c.core 1 s)
def brAct (c : VCtx) (s : State) : VOut := .ok (retire c.core c.i.simm s)

def bnzdAct (c : VCtx) (s : State) : VOut :=
  let x := s.ve c.core
  let x := x.setA c.i.a ((x.areg c.i.a : Int) - 1)
  .ok (retire c.core (if x.areg c.i.a = 0 then 1 else c.i.simm) (s.setVe c.core x))

def amoviAct (c : VCtx) (s : State) : VOut := .ok (retire c.core 1 (s.setVe c.core ((s.ve c.core).setA c.i.d c.i.simm)))

def aaddiAct (c : VCtx) (s : State) : VOut :=
  let x := s.ve c.core
  .ok (retire c.core 1 (s.setVe c.core (x.setA c.i.d ((x.areg c.i.a : Int) + c.i.simm))))

def aaddAct (c : VCtx) (s : State) : VOut :=
  let x := s.ve c.core
  .ok (retire c.core 1 (s.setVe c.core (x.setA c.i.d ((x.areg c.i.a : Int) + x.areg c.i.b))))

def setvlAct (c : VCtx) (s : State) : VOut :=
  let n := c.i.imm % 2 ^ 11
  if n = 0 ∨ 1024 < n then .fault 5 s else .ok (retire c.core 1 (s.setFld (F.veStatusVl c.core) n))

/-! ### Accumulators (R195, R196) -/

/-- An accumulator with a sum added, rounded once by SR; whether it went beyond its range. -/
def addAcc (acc : Half × Half) (x : Num) (draw : Nat) : (Half × Half) × Bool :=
  let (v, e, o) := pairOf ((pairVal acc.1 acc.2).add x) draw
  ((v, e), o)

/-- The flush (R196): NR, NW and NU are added into the entry of LAYER, STALL to its count; all four are zero then. -/
def flush (c : VCtx) (s : State) : State :=
  let x := s.ve c.core
  let d (k : Nat) : Nat := c.draws.at (32 + k) (4112 + k)
  let s :=
    if x.layer = 0xFFFF then s
    else
      let key := c.j.part * 65536 + x.layer
      let e := tabGet { rg := (0, 0), w := (0, 0), u := (0, 0), stalled := 0 } s.layerAcc key
      let rg := addAcc e.rg (pairVal x.nr.1 x.nr.2) (d 0)
      let w := addAcc e.w (pairVal x.nw.1 x.nw.2) (d 1)
      let u := addAcc e.u (pairVal x.nu.1 x.nu.2) (d 2)
      let e : LayerAcc := { e with rg := rg.1, w := w.1, u := u.1, stalled := (e.stalled + x.stall) % 2 ^ 32 }
      let s := { s with layerAcc := tabPut s.layerAcc key e }
      raiseFlags c.core { VFlags.none with ovf := rg.2 || w.2 || u.2 } s
  (s.setVe c.core { x with nr := (0, 0), nw := (0, 0), nu := (0, 0), stall := 0 }).drawn (8 + c.core) 64

def setoptAct (c : VCtx) (s : State) : VOut :=
  let s := flush c s
  .ok (retire c.core 1 (s.setVe c.core { s.ve c.core with layer := c.i.imm % 65536 }))

/-- The loss pair as the sequencer reads it (R178): of a pair that no address names, or that lies outside the span, the value is free. -/
def readLoss (c : VCtx) (at0 : Nat) (s : State) : State :=
  if c.q.d.layer ≠ 0xFFFE ∨ c.j.training = false then s
  else
    let free : Half × Half := (BitVec.ofNat 16 (Config.value s.clock.freeIdx), BitVec.ofNat 16 (Config.value (s.clock.freeIdx + 1)))
    match c.j.resolve c.q.micro c.q.attempt at0 with
    | some a =>
      if s.inSlice c.j a 4 then
        let (s, bs, bad) := readNow c.j.part a 4 s
        onLoss c.k c.q (BitVec.ofNat 16 (leAt bs 0 2)) (BitVec.ofNat 16 (leAt bs 2 2)) bad s
      else onLoss c.k c.q free.1 free.2 false { s with clock := { s.clock with freeIdx := s.clock.freeIdx + 2 } }
    | none => onLoss c.k c.q free.1 free.2 false { s with clock := { s.clock with freeIdx := s.clock.freeIdx + 2 } }

/-- END (R179): flush, then the VKERN is complete. -/
def endAct (c : VCtx) (s : State) : VOut :=
  let s := retire c.core 1 (flush c s)
  let x := s.ve c.core
  let s := (s.setVe c.core { x with running := false, kernel := none }).setFld (F.veStatusState c.core) 0
  let s := readLoss c x.lossAt s
  match (s.sq c.core).queue .ve with
  | h :: _ => .ok (releaseStash c.k (if h.no = c.q.no then completeHead c.core .ve s else s))
  | [] => .ok s

/-! ### Lanes -/

/-- The lanes of d, each computed with its flags. -/
def VCtx.lanewise (c : VCtx) (f : Ve → Nat → Half × VFlags) (s : State) : VOut :=
  let x := s.ve c.core
  let r := c.lanes.map (f x)
  c.done (x.setLanes c.i.d (r.map (·.1))) (joinAll (r.map (·.2))) s

/-- Lanes whose bits no rounding touches. -/
def VCtx.bitwise (c : VCtx) (f : Ve → Nat → Half) (s : State) : VOut := c.lanewise (fun x n => (f x n, VFlags.none)) s

/-- One exact operation on a and b, rounded once; on INT16 an operation modulo 2^16 (R182). -/
def VCtx.arith2 (c : VCtx) (f : Num → Num → Num) (g : Half → Half → Half) (s : State) : VOut :=
  c.lanewise (fun x n =>
    let a := c.bitsA x n
    let b := c.bitsB x n
    if c.i.ty = 2 then (g a b, VFlags.none)
    else putLane c.i.ty (f (c.num a) (c.num b)) [c.num a, c.num b] (c.rm 0 1 n)) s

/-- One exact operation on a, b and c, rounded once. -/
def VCtx.arith3 (c : VCtx) (f : Num → Num → Num → Num) (s : State) : VOut :=
  c.lanewise (fun x n =>
    let l := [c.num (c.bitsA x n), c.num (c.bitsB x n), c.num (c.bitsC x n)]
    putLane c.i.ty (f (l.getD 0 .zero) (l.getD 1 .zero) (l.getD 2 .zero)) l (c.rm 0 1 n)) s

def addAct (c : VCtx) (s : State) : VOut := c.arith2 Num.add (· + ·) s
def subAct (c : VCtx) (s : State) : VOut := c.arith2 Num.sub (· - ·) s
def mulAct (c : VCtx) (s : State) : VOut := c.arith2 Num.mul (· * ·) s
def fmaAct (c : VCtx) (s : State) : VOut := c.arith3 (fun a b d => (a.mul b).add d) s
def fmsAct (c : VCtx) (s : State) : VOut := c.arith3 (fun a b d => (a.mul b).sub d) s
def fnmaAct (c : VCtx) (s : State) : VOut := c.arith3 (fun a b d => (a.mul b).neg.add d) s

/-! ### Order (R186) -/

/-- The lesser of two lanes is the first: −0 lies below +0; INT16 lanes are signed. -/
def laneLess (ty : Nat) (a b : Half) : Bool :=
  if ty = 2 then decide (a.toInt < b.toInt)
  else
    let x := decodeElem ty a.toNat
    let y := decodeElem ty b.toNat
    x.lt y || (x.isZero && y.isZero && x.isNeg && !y.isNeg)

def laneNan (ty : Nat) (a : Half) : Bool := ty != 2 && (decodeElem ty a.toNat).isNan

/-- Minimum or maximum of two lanes; a NaN wins. -/
def pickLane (ty : Nat) (big : Bool) (a b : Half) : Half :=
  if laneNan ty a || laneNan ty b then BitVec.ofNat 16 (nanBits ty)
  else if laneLess ty a b then (if big then b else a) else (if big then a else b)

def minAct (c : VCtx) (s : State) : VOut := c.bitwise (fun x n => pickLane c.i.ty false (c.bitsA x n) (c.bitsB x n)) s
def maxAct (c : VCtx) (s : State) : VOut := c.bitwise (fun x n => pickLane c.i.ty true (c.bitsA x n) (c.bitsB x n)) s

/-- The conditions of Table 6.7. -/
def cmpLane (ty x : Nat) (a b : Half) : Bool :=
  let n := laneNan ty a || laneNan ty b
  let p := decodeElem ty a.toNat
  let q := decodeElem ty b.toNat
  let lt (u v : Half) : Bool := if ty = 2 then decide (u.toInt < v.toInt) else (decodeElem ty u.toNat).lt (decodeElem ty v.toNat)
  let eq := if ty = 2 then a == b else p.eq q
  match x with
  | 0 => !n && eq
  | 1 => n || !eq
  | 2 => !n && lt a b
  | 3 => !n && (lt a b || eq)
  | 4 => !n && lt b a
  | 5 => !n && (lt b a || eq)
  | 6 => n
  | _ => ty == 2 || p.finite

def cmpAct (c : VCtx) (s : State) : VOut :=
  c.bitwise (fun x n => if cmpLane c.i.ty c.i.x (c.bitsA x n) (c.bitsB x n) then 0xFFFF else 0) s

def selAct (c : VCtx) (s : State) : VOut := c.bitwise (fun x n => if c.bitsC x n = 0 then c.bitsB x n else c.bitsA x n) s

/-- CLASS: NaN, −Inf, +Inf, zero, subnormal, sign. -/
def classLane (ty : Nat) (a : Half) : Half :=
  let v := decodeElem ty a.toNat
  let sub := match v with | .fin q _ => decide (q ≠ 0) && decide ((if q < 0 then -q else q) < pow2 (fmtEmin ty)) | _ => false
  BitVec.ofNat 16 (boolNat v.isNan + 2 * boolNat (match v with | .inf true _ => true | _ => false)
    + 4 * boolNat (match v with | .inf false _ => true | _ => false) + 8 * boolNat v.isZero + 16 * boolNat sub + 32 * boolNat a.msb)

def classAct (c : VCtx) (s : State) : VOut := c.bitwise (fun x n => classLane c.i.ty (c.bitsA x n)) s

def absAct (c : VCtx) (s : State) : VOut := c.bitwise (fun x n => c.bitsA x n &&& 0x7FFF) s
def negAct (c : VCtx) (s : State) : VOut := c.bitwise (fun x n => c.bitsA x n ^^^ 0x8000) s
def movAct (c : VCtx) (s : State) : VOut := c.bitwise (fun x n => c.bitsA x n) s
def moviAct (c : VCtx) (s : State) : VOut := c.bitwise (fun _ _ => BitVec.ofNat 16 c.i.imm) s
def andAct (c : VCtx) (s : State) : VOut := c.bitwise (fun x n => c.bitsA x n &&& c.bitsB x n) s
def orAct (c : VCtx) (s : State) : VOut := c.bitwise (fun x n => c.bitsA x n ||| c.bitsB x n) s
def xorAct (c : VCtx) (s : State) : VOut := c.bitwise (fun x n => c.bitsA x n ^^^ c.bitsB x n) s

def scalbAct (c : VCtx) (s : State) : VOut :=
  c.lanewise (fun x n => let a := c.num (c.bitsA x n); putLane c.i.ty (a.scale (signedOf 9 c.i.imm)) [a] (c.rm 0 1 n)) s

/-! ### Transcendentals (R187, Table 6.8) -/

/-- Bounds of R187: relative, absolute. -/
def nearRel (v : Iv) (idx : Nat) : Num := .fin ((v.rel (pow2 (-20))).point idx) false
def nearAbs (v : Iv) (idx : Nat) : Num := .fin ((v.abs (pow2 (-20))).point idx) false

/-- The value to be rounded of each transcendental but SQRT: the operand, a free index. -/
def transcend (op : Nat) (a : Num) (idx : Nat) : Num :=
  match a with
  | .nan _ => .nan true
  | .inf neg _ =>
    (match op with
    | 0x30 => if neg then .zero else .inf false true
    | 0x31 => if neg then .nan false else .inf false true
    | 0x32 => .fin 0 neg
    | 0x33 => if neg then .nan false else .zero
    | 0x35 => if neg then .zero else .one
    | 0x36 => .fin (if neg then -1 else 1) false
    | 0x37 => if neg then .fin 0 true else .inf false true
    | _ => .nan false)
  | .fin q nz =>
    if q = 0 then
      (match op with
      | 0x30 => .one
      | 0x31 => .inf true false
      | 0x32 | 0x33 => .inf nz false
      | 0x35 => .fin (1 / 2) false
      | 0x39 => .one
      | _ => .fin 0 nz)
    else
      (match op with
      | 0x30 =>
        if 200 ≤ q then .fin (pow2 200) false else if q ≤ -200 then .fin (pow2 (-200)) false
        else if q.den = 1 ∧ -133 ≤ q then .fin (pow2 q.floor) false
        else nearRel (exp2Iv q) idx
      | 0x31 => if q < 0 then .nan false else if q = 1 then .zero else nearRel (log2Iv q) idx
      | 0x32 => .fin (1 / q) false
      | 0x33 => if q < 0 then .nan false else let v := sqrtIv q; nearRel { lo := 1 / v.hi, hi := 1 / v.lo } idx
      | 0x35 =>
        if 150 ≤ q then nearRel { lo := 1 - pow2 (-80), hi := 1 } idx else if q ≤ -150 then .fin (pow2 (-210)) false
        else nearRel (sigIv q) idx
      | 0x36 => nearAbs (tanhIv q) idx
      | 0x37 =>
        if 150 ≤ q then nearAbs { lo := q - pow2 (-80), hi := q } idx
        else if q ≤ -150 then nearAbs { lo := -(pow2 (-80)), hi := 0 } idx
        else let v := sigIv q; nearAbs (if q < 0 then { lo := q * v.hi, hi := q * v.lo } else { lo := q * v.lo, hi := q * v.hi }) idx
      | 0x38 => nearAbs (sinTurns q) idx
      | _ => nearAbs (cosTurns q) idx)

def transAct (c : VCtx) (s : State) : VOut :=
  c.lanewise (fun x n => let a := c.num (c.bitsA x n); putLane c.i.ty (transcend c.i.op a (c.idx n)) [a] (c.rm 0 2 n)) s

/-- SQRT rounds the exact result. -/
def sqrtAct (c : VCtx) (s : State) : VOut :=
  c.lanewise (fun x n =>
    let a := c.num (c.bitsA x n)
    match a with
    | .fin q nz =>
      if q = 0 then putLane c.i.ty (.fin 0 nz) [a] .rne
      else if q < 0 then putLane c.i.ty (.nan false) [a] .rne
      else putSqrt c.i.ty q [a] (c.rm 0 2 n)
    | .inf true _ => putLane c.i.ty (.nan false) [a] .rne
    | y => putLane c.i.ty y [a] .rne) s

def divAct (c : VCtx) (s : State) : VOut :=
  c.lanewise (fun x n =>
    let a := c.num (c.bitsA x n)
    let b := c.num (c.bitsB x n)
    putLane c.i.ty (a.div b) [a, b] (c.rm 0 4 n)) s

/-! ### Cross-lane -/

/-- An exact sum over the lanes, rounded once into S(d). -/
def VCtx.reduce (c : VCtx) (f : Ve → Nat → List Num × Num) (s : State) : VOut :=
  let x := s.ve c.core
  let l := c.lanes.map (f x)
  let (v, fl) := putLane c.i.ty (numSum (l.map (·.2))) (l.flatMap (·.1)) (c.rmAt 4104)
  c.done (x.setS c.i.d v) fl s

def rsumAct (c : VCtx) (s : State) : VOut := c.reduce (fun x n => let a := c.num (c.bitsA x n); ([a], a)) s
def rssqAct (c : VCtx) (s : State) : VOut := c.reduce (fun x n => let a := c.num (c.bitsA x n); ([a], a.mul a)) s
def rdotAct (c : VCtx) (s : State) : VOut :=
  c.reduce (fun x n => let a := c.num (c.bitsA x n); let b := c.num (c.bitsB x n); ([a, b], a.mul b)) s

/-- RMAX and RMIN. -/
def VCtx.extreme (c : VCtx) (big : Bool) (s : State) : VOut :=
  let x := s.ve c.core
  let first := if laneNan c.i.ty (c.bitsA x 0) then BitVec.ofNat 16 (nanBits c.i.ty) else c.bitsA x 0
  c.done (x.setS c.i.d (c.lanes.foldl (fun m n => pickLane c.i.ty big m (c.bitsA x n)) first)) VFlags.none s

def rmaxAct (c : VCtx) (s : State) : VOut := c.extreme true s
def rminAct (c : VCtx) (s : State) : VOut := c.extreme false s

def bcastAct (c : VCtx) (s : State) : VOut := c.bitwise (fun x _ => x.sreg c.i.a) s

def extrAct (c : VCtx) (s : State) : VOut :=
  let x := s.ve c.core
  c.done (x.setS c.i.d (x.lane c.i.a (c.i.imm % 1024))) VFlags.none s

def insrtAct (c : VCtx) (s : State) : VOut :=
  let x := s.ve c.core
  let l := (List.range 1024).map fun n => if n = c.i.imm % 1024 then x.sreg c.i.a else x.lane c.i.d n
  c.done (x.setLanes c.i.d l) VFlags.none s

def permAct (c : VCtx) (s : State) : VOut := c.bitwise (fun x n => x.lane c.i.a ((x.lane c.i.b n).toNat % 1024)) s

/-! ### Conversion (R189, R190) -/

def cvtAct (c : VCtx) (s : State) : VOut :=
  c.lanewise (fun x n =>
    let h := c.bitsA x n
    if c.i.ty = 2 then
      if c.i.x = 2 then (h, VFlags.none)
      else let v : Num := .fin (h.toInt : Rat) false; putLane c.i.x v [v] (c.rm 0 1 n)
    else if c.i.x = 2 then putInt (c.num h) (c.rm 0 1 n)
    else putLane c.i.x (c.num h) [c.num h] (c.rm 0 1 n)) s

/-- The ranges of LDX and STX: the elements, and the scales of an MX format. -/
def VCtx.packed (c : VCtx) (x : Ve) (base : Nat) : List (Nat × Nat) :=
  (c.scalarAddr x base, rowBytes c.i.c c.vl) :: (if fmtMx c.i.c then [(offAddr base (x.areg c.i.b), c.vl / 32)] else [])

/-- 16-bit memory formats take even addresses, any other any byte; scales any byte. -/
def VCtx.packedAlign (c : VCtx) : Nat := if c.i.c ≤ 1 then 2 else 1

def ldxAct (c : VCtx) (s : State) : VOut :=
  if fmtMx c.i.c ∧ c.vl % 32 ≠ 0 then .fault 5 s
  else
    let x := s.ve c.core
    match c.memory c.packedAlign false (c.packed x) (fun _ t => t) s with
    | .ok t =>
      let base := c.base.getD 0
      let bs := t.bytes (c.scalarAddr x base) (rowBytes c.i.c c.vl)
      let sc := t.bytes (offAddr base (x.areg c.i.b)) (c.vl / 32)
      c.lanewise (fun _ n =>
        let v := elemVal c.i.c (elemAt c.i.c bs n) (leAt sc (n / 32) 1)
        putLane c.i.ty v [v] (c.rm 0 1 n)) t
    | r => r

def stxAct (c : VCtx) (s : State) : VOut :=
  if fmtMx c.i.c ∧ c.vl % 32 ≠ 0 then .fault 5 s
  else
    let x := s.ve c.core
    let vals := c.lanes.map fun n => (c.num (x.lane c.i.d n), c.rm 0 1 n)
    let (sc, codes, ov) : List Nat × List Nat × Bool :=
      if fmtMx c.i.c then
        let bl := (List.range (c.vl / 32)).map fun b => mxBlock c.i.c ((vals.drop (32 * b)).take 32)
        (bl.map (·.1), bl.flatMap (·.2.1), bl.any (·.2.2))
      else let cs := vals.map fun v => convert c.i.c v.1 v.2; ([], cs.map (·.1), cs.any (·.2))
    match c.memory c.packedAlign true (c.packed x) (fun base t =>
        let t := t.writeBytes (c.scalarAddr x base) (packRow c.i.c codes [])
        if fmtMx c.i.c then t.writeBytes (offAddr base (x.areg c.i.b)) (sc.map fun v => BitVec.ofNat 8 v) else t) s with
    | .ok t => c.done x { VFlags.none with ovf := ov } t
    | r => r

/-! ### Memory (R191) -/

/-- A load of 16-bit elements into d. -/
def VCtx.load (c : VCtx) (addrs : Ve → Nat → List Nat) (s : State) : VOut :=
  let x := s.ve c.core
  match c.memory 2 false (fun b => (addrs x b).map fun a => (a, 2)) (fun _ t => t) s with
  | .ok t => c.done (x.setLanes c.i.d ((addrs x (c.base.getD 0)).map fun a => BitVec.ofNat 16 (t.num a 2))) VFlags.none t
  | r => r

/-- A store of the lanes of d; of lanes with one address the highest is written last. -/
def VCtx.store (c : VCtx) (addrs : Ve → Nat → List Nat) (s : State) : VOut :=
  let x := s.ve c.core
  match c.memory 2 true (fun b => (addrs x b).map fun a => (a, 2))
      (fun b t => (addrs x b).zipIdx.foldl (fun u y => u.writeBytes y.1 (leBytes 2 (x.lane c.i.d y.2).toNat)) t) s with
  | .ok t => c.done x VFlags.none t
  | r => r

def ldAct (c : VCtx) (s : State) : VOut := c.load c.contiguous s
def stAct (c : VCtx) (s : State) : VOut := c.store c.contiguous s
def ldsAct (c : VCtx) (s : State) : VOut := c.load c.strided s
def stsAct (c : VCtx) (s : State) : VOut := c.store c.strided s
def ldgAct (c : VCtx) (s : State) : VOut := c.load c.indexed s
def stgAct (c : VCtx) (s : State) : VOut := c.store c.indexed s

def sldAct (c : VCtx) (s : State) : VOut :=
  let x := s.ve c.core
  match c.memory 2 false (fun b => [(c.scalarAddr x b, 2)]) (fun _ t => t) s with
  | .ok t => c.done (x.setS c.i.d (BitVec.ofNat 16 (t.num (c.scalarAddr x (c.base.getD 0)) 2))) VFlags.none t
  | r => r

def sstAct (c : VCtx) (s : State) : VOut :=
  let x := s.ve c.core
  match c.memory 2 true (fun b => [(c.scalarAddr x b, 2)]) (fun b t => t.writeBytes (c.scalarAddr x b) (leBytes 2 (x.sreg c.i.d).toNat)) s with
  | .ok t => c.done x VFlags.none t
  | r => r

/-! ### Optimizer and norms (R120, R123, R193 to R197) -/

/-- A hyper-parameter as phase 1 latched it; outside a training job its value is free. -/
def VCtx.hyper (c : VCtx) (x : Ve) (i : Nat) : Num := bf (x.hyper.getD i (BitVec.ofNat 16 (Config.value (c.draws.idx + 40 + i))))

/-- 1 − b^t, within 2^−60 of its value: b^t comes from its square-and-multiply enclosure. -/
def oneMinusPow (b : Num) (t : Nat) : Num :=
  match b with
  | .fin q _ =>
    let a := if q < 0 then -q else q
    let p : Rat := if a = 0 then 0 else if a = 1 then 1 else let v := powIv { lo := a, hi := a } 64 t; (v.lo + v.hi) / 2
    .fin (1 - (if q < 0 ∧ t % 2 = 1 then -p else p)) false
  | y => Num.one.sub (if t % 2 = 0 then y.mul y else y)

/-- A square root as a number, within 2^−60 of its value. -/
def sqrtNum (x : Num) : Num :=
  match x with
  | .fin q nz => if q = 0 then .fin 0 nz else if q < 0 then .nan false else let v := sqrtIv q; .fin ((v.lo + v.hi) / 2) false
  | .inf true _ => .nan false
  | y => y

/-- a·(m/(1 − b1^t))/(√(v/(1 − b2^t)) + eps), a free value within 2^−18 of it (R120). -/
def adamTerm (a m v eps c1 c2 : Num) (idx : Nat) : Num :=
  match (a.mul (m.div c1)).div ((sqrtNum (v.div c2)).add eps) with
  | .fin q nz => if q = 0 then .fin 0 nz else .fin ((Iv.rel { lo := q, hi := q } (pow2 (-18))).point idx) false
  | y => y

/-- The spacing of BF16 at a weight (R84). -/
def spacingBf (w : Num) : Option Rat :=
  match w with
  | .fin q _ => some (if q = 0 then pow2 (-133) else pow2 (max (ilog2 (if q < 0 then -q else q)) (-126) - 7))
  | _ => none

/-- An update counts as stalled (R123). -/
def stalls (w upd : Num) : Bool :=
  match spacingBf w, upd with
  | some u, .fin q _ => decide (q ≠ 0) && decide ((if q < 0 then -q else q) < u * pow2 (-16))
  | _, _ => false

/-- What one lane of an update gives. -/
structure OptLane where
  m : Half
  v : Half
  w : Half
  upd : Num
  flags : VFlags
  stalled : Bool

/-- One lane of OADAM, of OSGD. -/
def VCtx.optLane (c : VCtx) (x : Ve) (adam : Bool) (n : Nat) : OptLane :=
  let h := c.hyper x
  let w := bf (x.lane c.i.d n)
  let gr := bf (x.lane c.i.a n)
  let m := bf (x.lane c.i.b n)
  let v := bf (x.lane c.i.c n)
  let layer : Int := match c.j.train.elayers[x.layer]? with | some e => e | none => signedOf 8 (Config.value (c.draws.idx + 50))
  let a := (h 0).scale layer
  let g := (gr.mul (h 6)).mul (bf x.clip)
  let sr (o : Nat) : Rm := .sr (c.draws.at (4 * o + n / 256) (1024 * o + n))
  let ops := if adam then [w, gr, m, v, h 0, h 1, h 2, h 3, h 4, h 6, bf x.clip] else [w, gr, m, h 0, h 4, h 5, h 6, bf x.clip]
  if adam then
    let mn := putLane 0 (((h 1).mul m).add ((Num.one.sub (h 1)).mul g)) ops (sr 0)
    let vn := putLane 0 (((h 2).mul v).add (((Num.one.sub (h 2)).mul g).mul g)) ops (sr 1)
    let upd := (adamTerm a (bf mn.1) (bf vn.1) (h 3) (oneMinusPow (h 1) x.t) (oneMinusPow (h 2) x.t) (c.idx n)).add ((a.mul (h 4)).mul w)
    let wn := putLane 0 (w.sub upd) ops (sr 2)
    let nf := !gr.finite || !(bf mn.1).finite || !(bf vn.1).finite || !(bf wn.1).finite
    { m := mn.1, v := vn.1, w := wn.1, upd := upd, flags := ((mn.2.join vn.2).join wn.2).join { VFlags.none with nf := nf }, stalled := stalls w upd }
  else
    let mn := putLane 0 ((((h 5).mul m).add g).add ((h 4).mul w)) ops (sr 0)
    let upd := a.mul (bf mn.1)
    let wn := putLane 0 (w.sub upd) ops (sr 2)
    let nf := !gr.finite || !(bf mn.1).finite || !(bf wn.1).finite
    { m := mn.1, v := 0, w := wn.1, upd := upd, flags := (mn.2.join wn.2).join { VFlags.none with nf := nf }, stalled := stalls w upd }

/-- OADAM and OSGD: m, v and w_new, the norm sums, the stalled count. -/
def VCtx.optimise (c : VCtx) (adam : Bool) (s : State) : VOut :=
  let x := s.ve c.core
  if !c.j.training || !c.q.upd || x.layer == 0xFFFF then .fault 8 s
  else
    let l := c.lanes.map (c.optLane x adam)
    let nw := addAcc x.nw (numSum (l.map fun o => (bf o.w).mul (bf o.w))) (c.draws.at 20 4097)
    let nu := addAcc x.nu (numSum (l.map fun o => o.upd.mul o.upd)) (c.draws.at 21 4098)
    let y := x.setLanes c.i.b (l.map (·.m))
    let y := if adam then y.setLanes c.i.c (l.map (·.v)) else y
    let y := y.setLanes c.i.d (l.map (·.w))
    let y := { y with nw := nw.1, nu := nu.1, stall := (y.stall + (l.filter (·.stalled)).length) % 2 ^ 32 }
    let s := s.onTrain c.k fun t => { t with optimizing := true }
    c.done y ((joinAll (l.map (·.flags))).join { VFlags.none with ovf := nw.2 || nu.2 }) s

def oadamAct (c : VCtx) (s : State) : VOut := c.optimise true s
def osgdAct (c : VCtx) (s : State) : VOut := c.optimise false s

/-- NRG: Σ(a·g_scale)² into NR and NT. -/
def nrgAct (c : VCtx) (s : State) : VOut :=
  let x := s.ve c.core
  let gs := c.hyper x 6
  let l := c.lanes.map fun n => c.num (c.bitsA x n)
  let sum := numSum (l.map fun a => (a.mul gs).mul (a.mul gs))
  let nr := addAcc x.nr sum (c.draws.at 20 4096)
  let nt := addAcc x.nt sum (c.draws.at 21 4099)
  -- a NaN of operands that are none: Inf · 0 with g_scale
  let inv (acc new : Half × Half) : Bool := (bf new.1).isNan && !(bf acc.1).isNan && !gs.isNan && !(l.any (·.isNan))
  c.done { x with nr := nr.1, nt := nt.1 }
    { ovf := nr.2 || nt.2, inv := inv x.nr nr.1 || inv x.nt nt.1, nf := l.any fun a => !a.finite } s

/-- NSSQ: Σ a² into NG. -/
def nssqAct (c : VCtx) (s : State) : VOut :=
  let x := s.ve c.core
  let ng := addAcc x.ng (numSum (c.lanes.map fun n => let a := c.num (c.bitsA x n); a.mul a)) (c.draws.at 20 4100)
  c.done { x with ng := ng.1 } { VFlags.none with ovf := ng.2 } s

/-- NSTORE: NT or NG is stored as a pair, then zero. -/
def nstoreAct (c : VCtx) (s : State) : VOut :=
  let x := s.ve c.core
  let ng := bitAt c.i.imm 0
  let p := if ng then x.ng else x.nt
  match c.memory 4 true (fun b => [(c.pairAddr x b, 4)])
      (fun b t => t.writeBytes (c.pairAddr x b) (leBytes 2 p.1.toNat ++ leBytes 2 p.2.toNat)) s with
  | .ok t => c.done (if ng then { x with ng := (0, 0) } else { x with nt := (0, 0) }) VFlags.none t
  | r => r

/-- The clip factor of a total (R197): min(1, clip_norm/√T), rounded once to nearest even; whether nf is set. -/
def clipOf (cn total : Num) : Half × Bool :=
  match total with
  | .fin q _ =>
    if q = 0 then (0x3F80, false)
    else if q < 0 then (0x7FC0, true)
    else
      (match cn with
      | .nan _ => (0x7FC0, false)
      | .inf neg _ => (if neg then 0xFF80 else 0x3F80, false)
      | .fin p nz =>
        if p = 0 then (if nz then 0x8000 else 0, false)
        else if 0 < p ∧ q ≤ p * p then (0x3F80, false)
        else (match roundMagTo 0 (decide (p < 0)) (magSqrt (p * p / q)) .rne with
          | some b => (BitVec.ofNat 16 b, false)
          | none => (BitVec.ofNat 16 (infBits 0 (decide (p < 0))), false)))
  | _ => (0x7FC0, true)

/-- CLIPF: the clip factor of a total in memory, into S(d), and latched for the step. -/
def clipfAct (c : VCtx) (s : State) : VOut :=
  let x := s.ve c.core
  match c.memory 4 false (fun b => [(c.pairAddr x b, 4)]) (fun _ t => t) s with
  | .ok t =>
    let a := c.pairAddr x (c.base.getD 0)
    let total := pairVal (BitVec.ofNat 16 (t.num a 2)) (BitVec.ofNat 16 (t.num (a + 2) 2))
    let (v, nf) := clipOf (c.hyper x 7) total
    c.done { x.setS c.i.d v with clip := v } { resultFlags (bf v) [c.hyper x 7, total] with nf := nf } t
  | r => r

/-! ### The rows -/

def execVkern (c : Fin 4) (s : State) : Res := go s (vkernRow c)
def execVkernLimit (c : Fin 4) (s : State) : Res := go s (vkernLimit c)
def execNop (c : Fin 4) (s : State) : Res := go s (veRow c 0x00 nopAct)
def execKernelEnd (c : Fin 4) (s : State) : Res := go s (veRow c 0x01 endAct)
def execBr (c : Fin 4) (s : State) : Res := go s (veRow c 0x02 brAct)
def execBnzd (c : Fin 4) (s : State) : Res := go s (veRow c 0x03 bnzdAct)
def execAmovi (c : Fin 4) (s : State) : Res := go s (veRow c 0x04 amoviAct)
def execAaddi (c : Fin 4) (s : State) : Res := go s (veRow c 0x05 aaddiAct)
def execAadd (c : Fin 4) (s : State) : Res := go s (veRow c 0x06 aaddAct)
def execSetvl (c : Fin 4) (s : State) : Res := go s (veRow c 0x07 setvlAct)
def execSetopt (c : Fin 4) (s : State) : Res := go s (veRow c 0x08 setoptAct)
def execFencem (c : Fin 4) (s : State) : Res := go s (veRow c 0x09 nopAct)
def execAdd (c : Fin 4) (s : State) : Res := go s (veRow c 0x10 addAct)
def execSub (c : Fin 4) (s : State) : Res := go s (veRow c 0x11 subAct)
def execMul (c : Fin 4) (s : State) : Res := go s (veRow c 0x12 mulAct)
def execFma (c : Fin 4) (s : State) : Res := go s (veRow c 0x13 fmaAct)
def execFms (c : Fin 4) (s : State) : Res := go s (veRow c 0x14 fmsAct)
def execFnma (c : Fin 4) (s : State) : Res := go s (veRow c 0x15 fnmaAct)
def execMin (c : Fin 4) (s : State) : Res := go s (veRow c 0x16 minAct)
def execMax (c : Fin 4) (s : State) : Res := go s (veRow c 0x17 maxAct)
def execAbs (c : Fin 4) (s : State) : Res := go s (veRow c 0x18 absAct)
def execNeg (c : Fin 4) (s : State) : Res := go s (veRow c 0x19 negAct)
def execScalb (c : Fin 4) (s : State) : Res := go s (veRow c 0x1A scalbAct)
def execMov (c : Fin 4) (s : State) : Res := go s (veRow c 0x1B movAct)
def execMovi (c : Fin 4) (s : State) : Res := go s (veRow c 0x1C moviAct)
def execAnd (c : Fin 4) (s : State) : Res := go s (veRow c 0x1D andAct)
def execOr (c : Fin 4) (s : State) : Res := go s (veRow c 0x1E orAct)
def execXor (c : Fin 4) (s : State) : Res := go s (veRow c 0x1F xorAct)
def execCmp (c : Fin 4) (s : State) : Res := go s (veRow c 0x20 cmpAct)
def execSel (c : Fin 4) (s : State) : Res := go s (veRow c 0x21 selAct)
def execClassify (c : Fin 4) (s : State) : Res := go s (veRow c 0x22 classAct)
def execExp2 (c : Fin 4) (s : State) : Res := go s (veRow c 0x30 transAct)
def execLog2 (c : Fin 4) (s : State) : Res := go s (veRow c 0x31 transAct)
def execRcp (c : Fin 4) (s : State) : Res := go s (veRow c 0x32 transAct)
def execRsq (c : Fin 4) (s : State) : Res := go s (veRow c 0x33 transAct)
def execSqrt (c : Fin 4) (s : State) : Res := go s (veRow c 0x34 sqrtAct)
def execSig (c : Fin 4) (s : State) : Res := go s (veRow c 0x35 transAct)
def execTanh (c : Fin 4) (s : State) : Res := go s (veRow c 0x36 transAct)
def execSilu (c : Fin 4) (s : State) : Res := go s (veRow c 0x37 transAct)
def execSint (c : Fin 4) (s : State) : Res := go s (veRow c 0x38 transAct)
def execCost (c : Fin 4) (s : State) : Res := go s (veRow c 0x39 transAct)
def execDiv (c : Fin 4) (s : State) : Res := go s (veRow c 0x3A divAct)
def execRsum (c : Fin 4) (s : State) : Res := go s (veRow c 0x40 rsumAct)
def execRmax (c : Fin 4) (s : State) : Res := go s (veRow c 0x41 rmaxAct)
def execRmin (c : Fin 4) (s : State) : Res := go s (veRow c 0x42 rminAct)
def execRssq (c : Fin 4) (s : State) : Res := go s (veRow c 0x43 rssqAct)
def execRdot (c : Fin 4) (s : State) : Res := go s (veRow c 0x44 rdotAct)
def execBcast (c : Fin 4) (s : State) : Res := go s (veRow c 0x45 bcastAct)
def execExtr (c : Fin 4) (s : State) : Res := go s (veRow c 0x46 extrAct)
def execInsrt (c : Fin 4) (s : State) : Res := go s (veRow c 0x47 insrtAct)
def execPerm (c : Fin 4) (s : State) : Res := go s (veRow c 0x48 permAct)
def execCvt (c : Fin 4) (s : State) : Res := go s (veRow c 0x50 cvtAct)
def execLdx (c : Fin 4) (s : State) : Res := go s (veRow c 0x51 ldxAct)
def execStx (c : Fin 4) (s : State) : Res := go s (veRow c 0x52 stxAct)
def execLd (c : Fin 4) (s : State) : Res := go s (veRow c 0x60 ldAct)
def execSt (c : Fin 4) (s : State) : Res := go s (veRow c 0x61 stAct)
def execLds (c : Fin 4) (s : State) : Res := go s (veRow c 0x62 ldsAct)
def execSts (c : Fin 4) (s : State) : Res := go s (veRow c 0x63 stsAct)
def execLdg (c : Fin 4) (s : State) : Res := go s (veRow c 0x64 ldgAct)
def execStg (c : Fin 4) (s : State) : Res := go s (veRow c 0x65 stgAct)
def execSld (c : Fin 4) (s : State) : Res := go s (veRow c 0x66 sldAct)
def execSst (c : Fin 4) (s : State) : Res := go s (veRow c 0x67 sstAct)
def execOadam (c : Fin 4) (s : State) : Res := go s (veRow c 0x70 oadamAct)
def execOsgd (c : Fin 4) (s : State) : Res := go s (veRow c 0x71 osgdAct)
def execNrg (c : Fin 4) (s : State) : Res := go s (veRow c 0x72 nrgAct)
def execNssq (c : Fin 4) (s : State) : Res := go s (veRow c 0x73 nssqAct)
def execNstore (c : Fin 4) (s : State) : Res := go s (veRow c 0x74 nstoreAct)
def execClipf (c : Fin 4) (s : State) : Res := go s (veRow c 0x75 clipfAct)

end Sys2Proof.Machine
end

