-- ==== Sys2Proof/Machine/Dispatch.lean ====
section
/-! DEFINITION. `exec`: one direct call of a meaning per row of spec/opcode_table.json. -/
namespace Sys2Proof.Machine

/-- The effect of one command on everything but the queue. -/
def exec (i : Instr) (s : State) : Host.Outcome State Fault Refusal :=
  match i with
  | .porstNRelease env => Sys2Proof.Machine.execPorstNRelease env s
  | .warmNRelease env => Sys2Proof.Machine.execWarmNRelease env s
  | .powerGoodLoss rail => Sys2Proof.Machine.execPowerGoodLoss rail s
  | .thermalTrip sensor => Sys2Proof.Machine.execThermalTrip sensor s
  | .thermalSample temps => Sys2Proof.Machine.execThermalSample temps s
  | .capStep p => Sys2Proof.Machine.execCapStep p s
  | .energyMeasure m => Sys2Proof.Machine.execEnergyMeasure m s
  | .droopTrip c => Sys2Proof.Machine.execDroopTrip c s
  | .rampStep e => Sys2Proof.Machine.execRampStep e s
  | .phase2Start c => Sys2Proof.Machine.execPhase2Start c s
  | .duskEntry d => Sys2Proof.Machine.execDuskEntry d s
  | .duskWake d => Sys2Proof.Machine.execDuskWake d s
  | .autoMidnight env => Sys2Proof.Machine.execAutoMidnight env s
  | .midnightRequest env => Sys2Proof.Machine.execMidnightRequest env s
  | .wakeNLow env => Sys2Proof.Machine.execWakeNLow env s
  | .wakeFrame f env => Sys2Proof.Machine.execWakeFrame f env s
  | .calendarAlarm env => Sys2Proof.Machine.execCalendarAlarm env s
  | .clkPtWrite v => Sys2Proof.Machine.execClkPtWrite v s
  | .vPtWrite v => Sys2Proof.Machine.execVPtWrite v s
  | .rdmaWriteReceive m => Sys2Proof.Machine.execRdmaWriteReceive m s
  | .rdmaReadRequest m => Sys2Proof.Machine.execRdmaReadRequest m s
  | .sendReceive m => Sys2Proof.Machine.execSendReceive m s
  | .invalidRequest q h => Sys2Proof.Machine.execInvalidRequest q h s
  | .roceAckReceive q h => Sys2Proof.Machine.execRoceAckReceive q h s
  | .roceNakReceive q h k => Sys2Proof.Machine.execRoceNakReceive q h k s
  | .readResponseReceive q h data => Sys2Proof.Machine.execReadResponseReceive q h data s
  | .ackTimeout q => Sys2Proof.Machine.execAckTimeout q s
  | .cnpReceive q => Sys2Proof.Machine.execCnpReceive q s
  | .ccIncreaseTick q => Sys2Proof.Machine.execCcIncreaseTick q s
  | .pfcFrameReceive h prio time => Sys2Proof.Machine.execPfcFrameReceive h prio time s
  | .pfcRefresh h => Sys2Proof.Machine.execPfcRefresh h s
  | .pfcStorm h prio => Sys2Proof.Machine.execPfcStorm h prio s
  | .arpRequest h m => Sys2Proof.Machine.execArpRequest h m s
  | .neighbourSolicitation h m => Sys2Proof.Machine.execNeighbourSolicitation h m s
  | .echoRequest h m => Sys2Proof.Machine.execEchoRequest h m s
  | .neighbourAgeOut h ip => Sys2Proof.Machine.execNeighbourAgeOut h ip s
  | .hostLinkUp h => Sys2Proof.Machine.execHostLinkUp h s
  | .jobTake p => Sys2Proof.Machine.execJobTake p s
  | .completionWrite c => Sys2Proof.Machine.execCompletionWrite c s
  | .descriptorDispatch c => Sys2Proof.Machine.execDescriptorDispatch c s
  | .mainRunStart c => Sys2Proof.Machine.execMainRunStart c s
  | .updateStreamStart c => Sys2Proof.Machine.execUpdateStreamStart c s
  | .load env => Sys2Proof.Machine.execLoad env s
  | .pass e env => Sys2Proof.Machine.execPass e env s
  | .passReplay e => Sys2Proof.Machine.execPassReplay e s
  | .preempt e => Sys2Proof.Machine.execPreempt e s
  | .cntClear e => Sys2Proof.Machine.execCntClear e s
  | .vkern c => Sys2Proof.Machine.execVkern c s
  | .xferCopy c => Sys2Proof.Machine.execXferCopy c s
  | .xferZeroFill c => Sys2Proof.Machine.execXferZeroFill c s
  | .xferHostWrite c => Sys2Proof.Machine.execXferHostWrite c s
  | .xferHostWriteImm c => Sys2Proof.Machine.execXferHostWriteImm c s
  | .xferHostRead c => Sys2Proof.Machine.execXferHostRead c s
  | .ctxOpen c => Sys2Proof.Machine.execCtxOpen c s
  | .appendReserve c => Sys2Proof.Machine.execAppendReserve c s
  | .appendWrite c => Sys2Proof.Machine.execAppendWrite c s
  | .ctxFork c => Sys2Proof.Machine.execCtxFork c s
  | .ctxTrim c => Sys2Proof.Machine.execCtxTrim c s
  | .ctxPark c => Sys2Proof.Machine.execCtxPark c s
  | .ctxUnpark c => Sys2Proof.Machine.execCtxUnpark c s
  | .ctxClose c => Sys2Proof.Machine.execCtxClose c s
  | .ctxPlan c => Sys2Proof.Machine.execCtxPlan c s
  | .starveRetest p => Sys2Proof.Machine.execStarveRetest p s
  | .starveTimeout c => Sys2Proof.Machine.execStarveTimeout c s
  | .reduceScatter c => Sys2Proof.Machine.execReduceScatter c s
  | .allGather c => Sys2Proof.Machine.execAllGather c s
  | .allReduce c => Sys2Proof.Machine.execAllReduce c s
  | .wait c => Sys2Proof.Machine.execWait c s
  | .signal c => Sys2Proof.Machine.execSignal c s
  | .fence c => Sys2Proof.Machine.execFence c s
  | .vote c => Sys2Proof.Machine.execVote c s
  | .commit c => Sys2Proof.Machine.execCommit c s
  | .endStream c => Sys2Proof.Machine.execEndStream c s
  | .counterTimeout w => Sys2Proof.Machine.execCounterTimeout w s
  | .vkernLimit c => Sys2Proof.Machine.execVkernLimit c s
  | .cancel p mask => Sys2Proof.Machine.execCancel p mask s
  | .suspend p mask => Sys2Proof.Machine.execSuspend p mask s
  | .ringReset p r => Sys2Proof.Machine.execRingReset p r s
  | .nop c => Sys2Proof.Machine.execNop c s
  | .kernelEnd c => Sys2Proof.Machine.execKernelEnd c s
  | .br c => Sys2Proof.Machine.execBr c s
  | .bnzd c => Sys2Proof.Machine.execBnzd c s
  | .amovi c => Sys2Proof.Machine.execAmovi c s
  | .aaddi c => Sys2Proof.Machine.execAaddi c s
  | .aadd c => Sys2Proof.Machine.execAadd c s
  | .setvl c => Sys2Proof.Machine.execSetvl c s
  | .setopt c => Sys2Proof.Machine.execSetopt c s
  | .fencem c => Sys2Proof.Machine.execFencem c s
  | .add c => Sys2Proof.Machine.execAdd c s
  | .sub c => Sys2Proof.Machine.execSub c s
  | .mul c => Sys2Proof.Machine.execMul c s
  | .fma c => Sys2Proof.Machine.execFma c s
  | .fms c => Sys2Proof.Machine.execFms c s
  | .fnma c => Sys2Proof.Machine.execFnma c s
  | .min c => Sys2Proof.Machine.execMin c s
  | .max c => Sys2Proof.Machine.execMax c s
  | .abs c => Sys2Proof.Machine.execAbs c s
  | .neg c => Sys2Proof.Machine.execNeg c s
  | .scalb c => Sys2Proof.Machine.execScalb c s
  | .mov c => Sys2Proof.Machine.execMov c s
  | .movi c => Sys2Proof.Machine.execMovi c s
  | .and c => Sys2Proof.Machine.execAnd c s
  | .or c => Sys2Proof.Machine.execOr c s
  | .xor c => Sys2Proof.Machine.execXor c s
  | .cmp c => Sys2Proof.Machine.execCmp c s
  | .sel c => Sys2Proof.Machine.execSel c s
  | .classify c => Sys2Proof.Machine.execClassify c s
  | .exp2 c => Sys2Proof.Machine.execExp2 c s
  | .log2 c => Sys2Proof.Machine.execLog2 c s
  | .rcp c => Sys2Proof.Machine.execRcp c s
  | .rsq c => Sys2Proof.Machine.execRsq c s
  | .sqrt c => Sys2Proof.Machine.execSqrt c s
  | .sig c => Sys2Proof.Machine.execSig c s
  | .tanh c => Sys2Proof.Machine.execTanh c s
  | .silu c => Sys2Proof.Machine.execSilu c s
  | .sint c => Sys2Proof.Machine.execSint c s
  | .cost c => Sys2Proof.Machine.execCost c s
  | .div c => Sys2Proof.Machine.execDiv c s
  | .rsum c => Sys2Proof.Machine.execRsum c s
  | .rmax c => Sys2Proof.Machine.execRmax c s
  | .rmin c => Sys2Proof.Machine.execRmin c s
  | .rssq c => Sys2Proof.Machine.execRssq c s
  | .rdot c => Sys2Proof.Machine.execRdot c s
  | .bcast c => Sys2Proof.Machine.execBcast c s
  | .extr c => Sys2Proof.Machine.execExtr c s
  | .insrt c => Sys2Proof.Machine.execInsrt c s
  | .perm c => Sys2Proof.Machine.execPerm c s
  | .cvt c => Sys2Proof.Machine.execCvt c s
  | .ldx c => Sys2Proof.Machine.execLdx c s
  | .stx c => Sys2Proof.Machine.execStx c s
  | .ld c => Sys2Proof.Machine.execLd c s
  | .st c => Sys2Proof.Machine.execSt c s
  | .lds c => Sys2Proof.Machine.execLds c s
  | .sts c => Sys2Proof.Machine.execSts c s
  | .ldg c => Sys2Proof.Machine.execLdg c s
  | .stg c => Sys2Proof.Machine.execStg c s
  | .sld c => Sys2Proof.Machine.execSld c s
  | .sst c => Sys2Proof.Machine.execSst c s
  | .oadam c => Sys2Proof.Machine.execOadam c s
  | .osgd c => Sys2Proof.Machine.execOsgd c s
  | .nrg c => Sys2Proof.Machine.execNrg c s
  | .nssq c => Sys2Proof.Machine.execNssq c s
  | .nstore c => Sys2Proof.Machine.execNstore c s
  | .clipf c => Sys2Proof.Machine.execClipf c s
  | .flitReceive ep r => Sys2Proof.Machine.execFlitReceive ep r s
  | .ackTimer ep => Sys2Proof.Machine.execAckTimer ep s
  | .nakRepeat ep retrainOk => Sys2Proof.Machine.execNakRepeat ep retrainOk s
  | .creditStall ep vc => Sys2Proof.Machine.execCreditStall ep vc s
  | .laneFailure ep lanes => Sys2Proof.Machine.execLaneFailure ep lanes s
  | .widthAckTimeout ep => Sys2Proof.Machine.execWidthAckTimeout ep s
  | .exchange ep m => Sys2Proof.Machine.execExchange ep m s
  | .verify ep m => Sys2Proof.Machine.execVerify ep m s
  | .width ep m => Sys2Proof.Machine.execWidth ep m s
  | .widthAck ep m => Sys2Proof.Machine.execWidthAck ep m s
  | .keyxEk ep m => Sys2Proof.Machine.execKeyxEk ep m s
  | .keyxCt ep m => Sys2Proof.Machine.execKeyxCt ep m s
  | .keyxCert ep m => Sys2Proof.Machine.execKeyxCert ep m s
  | .keyxSig ep m => Sys2Proof.Machine.execKeyxSig ep m s
  | .keyxDone ep m => Sys2Proof.Machine.execKeyxDone ep m s
  | .fenced ep m => Sys2Proof.Machine.execFenced ep m s
  | .keepaliveTimer ep => Sys2Proof.Machine.execKeepaliveTimer ep s
  | .peerLoss pos => Sys2Proof.Machine.execPeerLoss pos s
  | .keepalive ep f => Sys2Proof.Machine.execKeepalive ep f s
  | .lost ep f => Sys2Proof.Machine.execLost ep f s
  | .depart ep f => Sys2Proof.Machine.execDepart ep f s
  | .reduce ep f => Sys2Proof.Machine.execReduce ep f s
  | .gather ep f => Sys2Proof.Machine.execGather ep f s
  | .ready ep f => Sys2Proof.Machine.execReady ep f s
  | .abort ep f => Sys2Proof.Machine.execAbort ep f s
  | .arrive ep f => Sys2Proof.Machine.execArrive ep f s
  | .release ep f => Sys2Proof.Machine.execRelease ep f s
  | .assign ep f => Sys2Proof.Machine.execAssign ep f s
  | .resync ep f => Sys2Proof.Machine.execResync ep f s
  | .mirror ep f => Sys2Proof.Machine.execMirror ep f s
  | .heartbeat ep f => Sys2Proof.Machine.execHeartbeat ep f s
  | .takeover ep f => Sys2Proof.Machine.execTakeover ep f s
  | .reassignTimeout job => Sys2Proof.Machine.execReassignTimeout job s
  | .offer ep m => Sys2Proof.Machine.execOffer ep m s
  | .place ep m => Sys2Proof.Machine.execPlace ep m s
  | .placed ep m => Sys2Proof.Machine.execPlaced ep m s
  | .fetch ep m => Sys2Proof.Machine.execFetch ep m s
  | .data ep m => Sys2Proof.Machine.execData ep m s
  | .free ep m => Sys2Proof.Machine.execFree ep m s
  | .reclaim ep m => Sys2Proof.Machine.execReclaim ep m s
  | .returned ep m => Sys2Proof.Machine.execReturned ep m s
  | .taken ep m => Sys2Proof.Machine.execTaken ep m s
  | .reclaimDeadline peer => Sys2Proof.Machine.execReclaimDeadline peer s
  | .stripeFill page stripe => Sys2Proof.Machine.execStripeFill page stripe s
  | .pageMoveComplete page => Sys2Proof.Machine.execPageMoveComplete page s
  | .demotion p => Sys2Proof.Machine.execDemotion p s
  | .stashSpill p => Sys2Proof.Machine.execStashSpill p s
  | .slabFill p => Sys2Proof.Machine.execSlabFill p s
  | .map p cls => Sys2Proof.Machine.execMap p cls s
  | .unmap p => Sys2Proof.Machine.execUnmap p s
  | .setClass p cls => Sys2Proof.Machine.execSetClass p cls s
  | .prefetch p => Sys2Proof.Machine.execPrefetch p s
  | .query p => Sys2Proof.Machine.execQuery p s
  | .checkGroupInit g => Sys2Proof.Machine.execCheckGroupInit g s
  | .refresh g rank bank => Sys2Proof.Machine.execRefresh g rank bank s
  | .refreshRateRead g reports => Sys2Proof.Machine.execRefreshRateRead g reports s
  | .oscillatorCheck g drift => Sys2Proof.Machine.execOscillatorCheck g drift s
  | .rankPowerDown g => Sys2Proof.Machine.execRankPowerDown g s
  | .patrolScrub g found => Sys2Proof.Machine.execPatrolScrub g found s
  | .rowRemap g => Sys2Proof.Machine.execRowRemap g s
  | .rowRetire g => Sys2Proof.Machine.execRowRetire g s
  | .mcgReinit g => Sys2Proof.Machine.execMcgReinit g s
  | .snapshotWrite sec => Sys2Proof.Machine.execSnapshotWrite sec s
  | .bankAck b => Sys2Proof.Machine.execBankAck b s
  | .audit mask => Sys2Proof.Machine.execAudit mask s
  | .partialReset mask => Sys2Proof.Machine.execPartialReset mask s
  | .bankRetire b => Sys2Proof.Machine.execBankRetire b s
  | .selfTest e => Sys2Proof.Machine.execSelfTest e s
  | .selfTestDone e ok => Sys2Proof.Machine.execSelfTestDone e ok s
  | .engineUnfence e => Sys2Proof.Machine.execEngineUnfence e s
  | .coreFence c => Sys2Proof.Machine.execCoreFence c s
  | .coreUnfence c => Sys2Proof.Machine.execCoreUnfence c s
  | .channelTest g ch run => Sys2Proof.Machine.execChannelTest g ch run s
  | .channelTestStop g => Sys2Proof.Machine.execChannelTestStop g s
  | .laneLoopback ep lanes pass => Sys2Proof.Machine.execLaneLoopback ep lanes pass s
  | .retrain ep lanes => Sys2Proof.Machine.execRetrain ep lanes s
  | .lnkDisable ep => Sys2Proof.Machine.execLnkDisable ep s
  | .admitTenant p => Sys2Proof.Machine.execAdmit p s
  | .evict p => Sys2Proof.Machine.execEvict p s
  | .keyLoad p => Sys2Proof.Machine.execKeyLoad p s
  | .keyClear p => Sys2Proof.Machine.execKeyClear p s
  | .unseal p => Sys2Proof.Machine.execUnseal p s
  | .attest p tenant => Sys2Proof.Machine.execAttest p tenant s
  | .rngForce t v => Sys2Proof.Machine.execRngForce t v s
  | .calendarSet hi => Sys2Proof.Machine.execCalendarSet hi s
  | .logRead seq => Sys2Proof.Machine.execLogRead seq s
  | .qpStateWrite q st => Sys2Proof.Machine.execQpStateWrite q st s
  | .ringAck q v => Sys2Proof.Machine.execRingAck q v s
  | .counterLoRead q a => Sys2Proof.Machine.execCounterLoRead q a s
  | .registerWrite a v w => Sys2Proof.Machine.execRegisterWrite a v w s
  | .smbAlertClear v => Sys2Proof.Machine.execSmbAlertClear v s
  | .smbAlertMaskWrite v => Sys2Proof.Machine.execSmbAlertMaskWrite v s
  | .samplePreload v => Sys2Proof.Machine.execSamplePreload v s
  | .hostLinkDown h => Sys2Proof.Machine.execHostLinkDown h s
  | .linkPartnerTraining ep lanes => Sys2Proof.Machine.execLinkPartnerTraining ep lanes s
  | .arpReply h m => Sys2Proof.Machine.execArpReply h m s
  | .neighbourAdvertisement h m => Sys2Proof.Machine.execNeighbourAdvertisement h m s
  | .hostFrameDrop h why => Sys2Proof.Machine.execHostFrameDrop h why s
  | .pfcPauseExpiry h prio => Sys2Proof.Machine.execPfcPauseExpiry h prio s
  | .rnrRetryTimer q => Sys2Proof.Machine.execRnrRetryTimer q s
  | .thermalRelease => Sys2Proof.Machine.execThermalRelease s
  | .droopRelease => Sys2Proof.Machine.execDroopRelease s
  | .pwrBrakeAssert => Sys2Proof.Machine.execPwrBrakeAssert s
  | .pwrBrakeRelease => Sys2Proof.Machine.execPwrBrakeRelease s
  | .voltageConfirm => Sys2Proof.Machine.execVoltageConfirm s
  | .dvfsTimeout => Sys2Proof.Machine.execDvfsTimeout s
  | .readyRepeat => Sys2Proof.Machine.execReadyRepeat s
  | .heartbeatTimer => Sys2Proof.Machine.execHeartbeatTimer s
  | .pairSilence => Sys2Proof.Machine.execPairSilence s
  | .offerTimer => Sys2Proof.Machine.execOfferTimer s
  | .lifeLogRecord => Sys2Proof.Machine.execLifeLogRecord s
  | .auditRelease => Sys2Proof.Machine.execAuditRelease s
  | .debugEnable => Sys2Proof.Machine.execDebugEnable s
  | .stageFw => Sys2Proof.Machine.execStageFw s
  | .stageCfg => Sys2Proof.Machine.execStageCfg s
  | .activateFw env => Sys2Proof.Machine.execActivateFw env s
  | .activateCfg => Sys2Proof.Machine.execActivateCfg s
  | .abandon => Sys2Proof.Machine.execAbandon s
  | .overlayClear => Sys2Proof.Machine.execOverlayClear s
  | .smbAlertResponse => Sys2Proof.Machine.execSmbAlertResponse s
  | .extest => Sys2Proof.Machine.execExtest s
  | .idcode => Sys2Proof.Machine.execIdcode s
  | .clamp => Sys2Proof.Machine.execClamp s
  | .highz => Sys2Proof.Machine.execHighz s
  | .bypass => Sys2Proof.Machine.execBypass s
  | .tapReset => Sys2Proof.Machine.execTapReset s
  | .porstNAssert => Sys2Proof.Machine.execPorstNAssert s
  | .warmNAssert => Sys2Proof.Machine.execWarmNAssert s
  | .powerUp => Sys2Proof.Machine.execPowerUp s
  | .clockFault => Sys2Proof.Machine.execClockFault s
  | .secFault => Sys2Proof.Machine.execSecFault s
  | .smbBusTimeout => Sys2Proof.Machine.execSmbBusTimeout s
  | .debugDisable => Sys2Proof.Machine.execDebugDisable s

end Sys2Proof.Machine
end

