-- ==== Sys2Proof/WellFormed.lean ====
section
/-! DEFINITION. The operand values that the wires can carry: each check is the width of a field of the spec, or a count it fixes.
`exec` is defined on every command, well formed or not. -/
namespace Sys2Proof

/-- An IPv4 or IPv6 address. -/
def addressFits (v6 : Bool) (a : Nat) : Bool := decide (a < 2 ^ (if v6 then 128 else 32))

/-- A link message (R340): a 12-bit position, a port below 16, and a body of at most 64 parts of 224 bytes. -/
def LinkMsg.wf (m : LinkMsg) : Bool := decide (m.src < 4096) && decide (m.port < 16) && decide (m.body.length ≤ 14336)

def PortEnv.wf (p : PortEnv) : Bool := match p.peer with | some m => m.wf | none => true

/-- Sixteen ports, 24 packages, channels below 96, banks below 264 (R485, R461). -/
def BootEnv.wf (e : BootEnv) : Bool :=
  decide (e.ports.length = 16) && e.ports.all PortEnv.wf && decide (e.packages.length = 24) && e.chFail.all (fun c => decide (c < 96))
  && e.chDown.all (fun c => decide (c < 96)) && e.csBad.all (fun b => decide (b < 264)) && decide (e.midnightUj.length ≤ 7)

/-- An abort point A1 to A6 (R376). -/
def MidEnv.wf (e : MidEnv) : Bool := e.dawn.wf && (match e.wakeAt with | some a => decide (1 ≤ a) && decide (a ≤ 6) | none => true)

def WakeFrame.wf (f : WakeFrame) : Bool := decide (f.host < 4) && decide (f.dstPort < 65536) && decide (f.payload.length ≤ 4224)

/-- Nine rails, each with at most four partitions (R398). -/
def EnergySample.wf (m : EnergySample) : Bool :=
  decide (m.rails.length = 9)
  && m.rails.all fun r => decide (r.owned.length ≤ 4) && r.shared.all fun b => decide (b.tags.length ≤ 4)

/-- A 24-bit packet sequence number, a 64-bit address, a message of at most 2^31 bytes. -/
def RdmaWrite.wf (m : RdmaWrite) : Bool := decide (m.psn < 2 ^ 24) && decide (m.va < 2 ^ 64) && decide (m.data.length ≤ 2 ^ 31)
def RdmaRead.wf (m : RdmaRead) : Bool := decide (m.psn < 2 ^ 24) && decide (m.va < 2 ^ 64) && decide (m.len ≤ 2 ^ 31)
def RdmaSend.wf (m : RdmaSend) : Bool := decide (m.psn < 2 ^ 24) && decide (m.data.length ≤ 2 ^ 31)

def Bth.wf (h : Bth) : Bool := decide (h.psn < 2 ^ 24)

/-- An RNR timer code of 5 bits. -/
def NakKind.wf : NakKind → Bool
  | .rnr t => decide (t < 32)
  | .psnSequence | .invalidRequest | .remoteAccess | .remoteOperational => true

def ArpMsg.wf (m : ArpMsg) : Bool := addressFits m.v6 m.target && addressFits m.v6 m.sender
def EchoMsg.wf (m : EchoMsg) : Bool := addressFits m.v6 m.dst && addressFits m.v6 m.src

/-- Issue rates of R60: 1 to 64. -/
def ratesWf (l : List (Nat × Nat)) : Bool := l.all fun x => decide (1 ≤ x.2) && decide (x.2 ≤ 64)

/-- A parity error strikes within the 1,024 eclk of a load and a fill. -/
def LoadEnv.wf (e : LoadEnv) : Bool :=
  ratesWf e.rates && (match e.hwFault with | some n => decide (n < 1024) | none => true) && (match e.preemptAt with | some n => decide (n < 1024) | none => true)

/-- Cause 0x01 or 0x04, before the last copy-out of 65,536 rows ends; segments and rows of a pass. -/
def PassEnv.wf (e : PassEnv) : Bool :=
  ratesWf e.rates && (match e.hwFault with | some f => (f.1 == 1 || f.1 == 4) && decide (f.2 < 67072) | none => true)
  && (match e.preemptIn with | some g => decide (g < 128) | none => true) && (match e.upTo with | some g => decide (g ≤ 128) | none => true)
  && e.stagedUe.all fun r => decide (r < 65536)

/-- A flit is 256 bytes over at most 8 lanes (R330). -/
def FlitIn.wf (r : FlitIn) : Bool := decide (r.bytes.length = 256) && decide (r.laneSyms.length ≤ 8)

/-- Field widths of Tables 10.3 and 10.5; a payload of at most 255 units of 64 B. -/
def Frame.wf (f : Frame) : Bool :=
  decide (f.fmt < 256) && decide (f.job < 4096) && decide (f.bucket < 65536) && decide (f.n < 256) && decide (f.dim < 4)
  && decide (f.blockFirst < 2 ^ 32) && decide (f.count < 65536) && decide (f.src < 4096) && decide (f.dst < 4096)
  && decide (f.hops < 65536) && decide (f.attempt < 2 ^ 32) && decide (f.step < 2 ^ 32)
  && decide (f.info.length ≤ 16) && f.info.all (fun b => decide (b.scale < 256) && decide (b.agreed < 256))
  && decide (f.payload.length ≤ 16320)

/-- Field widths of Table 11.5. -/
def LendMsg.wf (m : LendMsg) : Bool :=
  decide (m.part < 8) && decide (m.src < 4096) && decide (m.seq < 2 ^ 32) && decide (m.handle < 2 ^ 32) && decide (m.arg < 2 ^ 32)
  && decide (m.payload.length ≤ 8192)

/-- A register access names a word of the 64 MiB control space (R466). -/
def addressInControl (a : Nat) : Bool := decide (a < 2 ^ 26) && decide (a % 4 = 0)

/-- Symbols of a codeword: 140 places, each with a nibble added (R283). -/
def ScrubRead.wf (r : ScrubRead) : Bool :=
  let ok (x : Nat × Nat) : Bool := decide (x.1 < 140) && decide (x.2 < 16)
  r.errs.all ok && r.strikes.all fun k => k.2.2.all ok

def RateReport.wf (r : RateReport) : Bool := decide (r.code < 32)

/-- A row of a package: 2 ranks, 16 banks, 2^18 rows at most. -/
def rowFits (x : Nat × Nat × Nat) : Bool := decide (x.1 < 2) && decide (x.2.1 < 16) && decide (x.2.2 < 2 ^ 18)

/-- A command whose operands are ones that the wires can carry. -/
def Instr.wf : Instr → Bool
  | .porstNRelease env | .warmNRelease env | .wakeNLow env | .calendarAlarm env | .activateFw env => env.wf
  | .autoMidnight env | .midnightRequest env => env.wf
  | .wakeFrame f env => f.wf && env.wf
  | .thermalSample temps => decide (temps.length = 80) && temps.all fun t => decide (t < 4096)
  | .energyMeasure m => m.wf
  | .rdmaWriteReceive m => m.wf
  | .rdmaReadRequest m => m.wf
  | .sendReceive m => m.wf
  | .invalidRequest _ h | .roceAckReceive _ h => h.wf
  | .roceNakReceive _ h k => h.wf && k.wf
  | .readResponseReceive _ h d => h.wf && decide (d.length ≤ 2 ^ 31)
  | .arpRequest _ m | .arpReply _ m => m.wf && !m.v6
  | .neighbourSolicitation _ m | .neighbourAdvertisement _ m => m.wf && m.v6
  | .echoRequest _ m => m.wf
  | .neighbourAgeOut _ ip => addressFits true ip
  | .load env => env.wf
  | .pass _ env => env.wf
  | .flitReceive _ r => r.wf
  | .exchange _ m | .verify _ m | .width _ m | .widthAck _ m | .keyxEk _ m | .keyxCt _ m | .keyxCert _ m | .keyxSig _ m
  | .keyxDone _ m | .fenced _ m => m.wf
  | .keepalive _ f | .lost _ f | .depart _ f | .reduce _ f | .gather _ f | .ready _ f | .abort _ f | .arrive _ f | .release _ f
  | .assign _ f | .resync _ f | .mirror _ f | .heartbeat _ f | .takeover _ f => f.wf
  | .offer _ m | .place _ m | .placed _ m | .fetch _ m | .data _ m | .free _ m | .reclaim _ m | .returned _ m | .taken _ m => m.wf
  | .stripeFill page _ | .pageMoveComplete page => decide (page < 2 ^ 36)
  | .refresh _ _ bank => decide (bank < 16)
  | .refreshRateRead _ rs => decide (rs.length = 4) && rs.all RateReport.wf
  | .oscillatorCheck _ d => decide (d.length = 4)
  | .patrolScrub _ r => r.wf
  | .bankRetire b => decide (b < 264)
  | .channelTest _ _ r => r.bad.all rowFits
  | .counterLoRead _ a => addressInControl a
  | .registerWrite a _ _ => addressInControl a
  | .samplePreload v => decide (v.length = 10830)
  | .powerGoodLoss _ | .thermalTrip _ | .capStep _ | .droopTrip _ | .rampStep _ | .phase2Start _ | .duskEntry _ | .duskWake _
  | .clkPtWrite _ | .vPtWrite _ | .ackTimeout _ | .cnpReceive _ | .ccIncreaseTick _ | .pfcFrameReceive _ _ _ | .pfcRefresh _
  | .pfcStorm _ _ | .hostLinkUp _ | .jobTake _ | .completionWrite _ | .descriptorDispatch _ | .mainRunStart _ | .updateStreamStart _
  | .passReplay _ | .preempt _ | .cntClear _ | .vkern _ | .xferCopy _ | .xferZeroFill _ | .xferHostWrite _
  | .xferHostWriteImm _ | .xferHostRead _ | .ctxOpen _ | .appendReserve _ | .appendWrite _ | .ctxFork _ | .ctxTrim _ | .ctxPark _
  | .ctxUnpark _ | .ctxClose _ | .ctxPlan _ | .starveRetest _ | .starveTimeout _ | .reduceScatter _ | .allGather _ | .allReduce _
  | .wait _ | .signal _ | .fence _ | .vote _ | .commit _ | .endStream _ | .counterTimeout _ | .vkernLimit _ | .cancel _ _
  | .suspend _ _ | .ringReset _ _ | .nop _ | .kernelEnd _ | .br _ | .bnzd _ | .amovi _ | .aaddi _ | .aadd _ | .setvl _ | .setopt _
  | .fencem _ | .add _ | .sub _ | .mul _ | .fma _ | .fms _ | .fnma _ | .min _ | .max _ | .abs _ | .neg _ | .scalb _ | .mov _
  | .movi _ | .and _ | .or _ | .xor _ | .cmp _ | .sel _ | .classify _ | .exp2 _ | .log2 _ | .rcp _ | .rsq _ | .sqrt _ | .sig _
  | .tanh _ | .silu _ | .sint _ | .cost _ | .div _ | .rsum _ | .rmax _ | .rmin _ | .rssq _ | .rdot _ | .bcast _ | .extr _
  | .insrt _ | .perm _ | .cvt _ | .ldx _ | .stx _ | .ld _ | .st _ | .lds _ | .sts _ | .ldg _ | .stg _ | .sld _ | .sst _ | .oadam _
  | .osgd _ | .nrg _ | .nssq _ | .nstore _ | .clipf _ | .ackTimer _ | .nakRepeat _ _ | .creditStall _ _ | .laneFailure _ _
  | .widthAckTimeout _ | .keepaliveTimer _ | .peerLoss _ | .reassignTimeout _ | .reclaimDeadline _ | .demotion _ | .stashSpill _
  | .slabFill _ | .map _ _ | .unmap _ | .setClass _ _ | .prefetch _ | .query _ | .checkGroupInit _ | .rankPowerDown _ | .rowRemap _
  | .rowRetire _ | .mcgReinit _ | .snapshotWrite _ | .bankAck _ | .audit _ | .partialReset _ | .selfTest _ | .selfTestDone _ _
  | .engineUnfence _ | .coreFence _ | .coreUnfence _ | .channelTestStop _ | .laneLoopback _ _ _ | .retrain _ _ | .lnkDisable _
  | .admitTenant _ | .evict _ | .keyLoad _ | .keyClear _ | .unseal _ | .attest _ _ | .rngForce _ _ | .calendarSet _ | .logRead _
  | .qpStateWrite _ _ | .ringAck _ _ | .smbAlertClear _ | .smbAlertMaskWrite _ | .hostLinkDown _ | .linkPartnerTraining _ _
  | .hostFrameDrop _ _ | .pfcPauseExpiry _ _ | .rnrRetryTimer _ | .thermalRelease | .droopRelease | .pwrBrakeAssert
  | .pwrBrakeRelease | .voltageConfirm | .dvfsTimeout | .readyRepeat | .heartbeatTimer | .pairSilence | .offerTimer | .lifeLogRecord
  | .auditRelease | .debugEnable | .stageFw | .stageCfg | .activateCfg | .abandon | .overlayClear | .smbAlertResponse
  | .extest | .idcode | .clamp | .highz | .bypass | .tapReset | .porstNAssert | .warmNAssert | .powerUp | .clockFault | .secFault
  | .smbBusTimeout | .debugDisable => true

end Sys2Proof
end

