-- ==== Sys2Proof/Safety.lean ====
section
/-! DEFINITION. The terms that statements about the block are written in: when a unit is about to run a row, and what a row
leaves unchanged. -/
namespace Sys2Proof.Machine

/-! ### What stays -/

/-- Only registers of the list changed, and time passed. -/
def OnlyRegs (l : List Reg) (s t : State) : Prop :=
  t = { s with regs := t.regs, clock := t.clock } ∧ ∀ r, r ∉ l → t.reg r = s.reg r

/-- Every byte of span memory outside a range reads as before. -/
def MemKept (a n : Nat) (s t : State) : Prop := ∀ x, x < a ∨ a + n ≤ x → memGet t.mem x = memGet s.mem x

/-- Every byte of span memory reads as before. -/
def MemSame (s t : State) : Prop := ∀ x, memGet t.mem x = memGet s.mem x

/-- No stored bit of the span is in error: a read delivers what was written (R283 to R285). -/
def State.sound (s : State) : Prop := s.upsets = [] ∧ s.flips = []

/-- An access has been served: where no stored bit was in error, no byte has changed. -/
def Fetched (s u : State) : Prop := s.sound → MemSame s u ∧ u.sound

/-- Ranges of bytes have been written from `u` to `t`: no byte of another 64-byte sector changes, and where no stored bit is in error no
other byte does (a word written in part is read and merged, R284). -/
def Stored (rs : List (Nat × Nat)) (u t : State) : Prop :=
  (∀ x, (∀ r ∈ rs, x / 64 < r.1 / 64 ∨ (r.1 + r.2 + 63) / 64 ≤ x / 64) → memGet t.mem x = memGet u.mem x)
  ∧ (u.sound → ∀ x, (∀ r ∈ rs, x < r.1 ∨ r.1 + r.2 ≤ x) → memGet t.mem x = memGet u.mem x)

/-! ### The vector engine (chapter 6) -/

/-- The vector engine of core `c` runs kernel `q` of job `j`, and the instruction at PC is `i`, with opcode `op` and no fault of form. -/
structure VeNext (s : State) (c : Fin 4) (op k : Nat) (j : Job) (q : QItem) (i : VInstr) : Prop where
  live : s.live = true
  inService : s.coreFenced c = false
  running : (s.ve c).running = true
  kernel : (s.ve c).kernel = some q
  job : s.jobAt c = some (k, j)
  word : ∃ w, s.vfetch c j = some w ∧ parseV w = i
  opcode : i.op = op
  form : i.wellFormed = true

/-- What an instruction sees: its fields, VL, and the draws its roundings take. -/
def veCtx (s : State) (c : Fin 4) (k : Nat) (j : Job) (q : QItem) (i : VInstr) : VCtx :=
  { core := c, k := k, j := j, q := q, i := i, vl := s.fld (F.veStatusVl c), draws := s.elapse.draws (8 + c) }

/-- The instruction retires: PC goes on by `step` modulo 2^13, the retired count by one. Beyond the engine itself only its PC,
count and flags change; no byte of memory does. -/
def VeRetires (c : Fin 4) (step : Int) (s t : State) : Prop :=
  t = { s with regs := t.regs, ves := t.ves, gens := t.gens, clock := t.clock }
  ∧ (∀ i, i ≠ c.val → t.ve i = s.ve i)
  ∧ (∀ r, r ∉ [Reg.vePc c, .veRetiredLo c, .veRetiredHi c, .veFlags c] → t.reg r = s.reg r)
  ∧ t.fld (F.vePcPc c) = unsignedOf 13 ((s.fld (F.vePcPc c) : Int) + step)
  ∧ t.pair (.veRetiredLo c) (.veRetiredHi c) = (s.pair (.veRetiredLo c) (.veRetiredHi c) + 1) % 2 ^ 64

/-- The sticky flags of VE_FLAGS: each stays set, or is raised now (R185). -/
def VeRaises (c : Fin 4) (f : VFlags) (s t : State) : Prop :=
  t.on (F.veFlagsOvf c) = (s.on (F.veFlagsOvf c) || f.ovf) ∧ t.on (F.veFlagsInv c) = (s.on (F.veFlagsInv c) || f.inv)
  ∧ t.on (F.veFlagsNf c) = (s.on (F.veFlagsNf c) || f.nf)

/-- A lanewise instruction: the lanes of d below VL get the results, every other lane and register of the engine stays. -/
def VeLanes (c : Fin 4) (s t : State) (d : Nat) (r : List (Half × VFlags)) : Prop :=
  t.ve c = (s.ve c).setLanes d (r.map (·.1)) ∧ VeRaises c (joinAll (r.map (·.2))) s t ∧ VeRetires c 1 s t

/-- A memory instruction at PC whose accesses are served: the base entry exists, every range is aligned and in the job's slice,
the STU has the data, and none of it reads poisoned. `u` is the state after the service. -/
structure VeServed (s : State) (C : VCtx) (align b : Nat) (write : Bool) (rs : List (Nat × Nat)) (u : State) : Prop where
  base : C.base = some b
  aligned : (rs.any fun r => r.1 % align != 0) = false
  inside : (rs.any fun r => !s.inSlice C.j r.1 r.2) = false
  served : ∃ bad, touch C.j.part (if write then { reads := [], writes := rs } else { reads := rs, writes := [] }) s.elapse = .ok u bad
    ∧ (write = false → (rs.any fun r => (u.setFld (F.veStatusMemWait C.core) 0).bad bad r.1 r.2) = false)

/-- A memory instruction has retired: PC goes on by one, and the engine's registers are `x`. -/
def VeEnds (c : Fin 4) (x : Ve) (s t : State) : Prop :=
  t.ve c = x ∧ t.fld (F.vePcPc c) = unsignedOf 13 ((s.fld (F.vePcPc c) : Int) + 1) ∧ ∀ i, i ≠ c.val → t.ve i = s.ve i

/-! ### Jobs and sequencers (chapter 5) -/

/-- A descriptor's signal has been raised, and no other register changed (R162). -/
def Signals (j : Job) (d : Desc) (s t : State) : Prop :=
  (d.sigEn = true → t.ctr j d.sigCtr =
    (if d.opcode = 9 then (if d.at 0x10 1 = 1 then d.at 0x12 2 else s.ctr j d.sigCtr + d.at 0x12 2) else s.ctr j d.sigCtr + 1) % 65536)
  ∧ ∀ r, (d.sigEn = true → r ≠ (F.coreCtrValue (j.core (d.sigCtr / 256 % 4)) (d.sigCtr % 256)).reg) → t.reg r = s.reg r

/-- The sequencer of core `c` has a descriptor of its own at hand, with its fence passed and its wait met: it is neither skipped
nor of a stopped job. `u` is the state once the fence and the admission of its layer have been passed and the core is awake. -/
structure OwnNext (s u : State) (c : Fin 4) (op k : Nat) (j : Job) (d : Desc) : Prop where
  hand : ∃ v j0, ownHand c op s.elapse = some (v, k, j0, d) ∧ v.job k = some j ∧ v.skips c j d = false
    ∧ v.waitMet j d ((v.sq c).stream == .update) = true ∧ u = v.setSq c { v.sq c with dusk := false }
  here : u.atHand c = some (k, j, d)

/-- The sequencer is done with the descriptor at hand. -/
def SteppedOver (c : Fin 4) (k : Nat) (j : Job) (u t : State) : Prop :=
  (t.sq c).pos = (u.sq c).pos + 1 ∧ t.job k = some { j with issued := j.issued + 1 } ∧ MemSame u t

/-! ### Matrix engines (chapters 2 and 3) -/

/-- Engine `e` holds a loaded operand, and its pass is `p`. -/
structure EngHolds (s : State) (e : Fin 8) (k : Nat) (j : Job) (l p : QItem) : Prop where
  loaded : (s.eng e).loaded = some l ∧ l.skipped = false
  job : s.jobAt (e / 2) = some (k, j)
  pass : s.passOf e l = some p

/-- The state in which an engine starts a LOAD: its generator is seeded where this is its first descriptor, and it is awake. -/
def loadStart (k : Nat) (e : Fin 8) (s : State) : State :=
  let t := seedFirst k e s.elapse
  t.setEng e { t.eng e with dusk := false, rampDone := true }

/-- What a LOAD begins with: the descriptor, at the e_pass its tensor starts from (R135). -/
def loadItem (k : Nat) (e : Fin 8) (j : Job) (q p : QItem) (s : State) : QItem :=
  if q.replays = 0 then { q with ePass := ((loadStart k e s).passRange j p.d).1 } else q

/-- Engine `e` takes a LOAD: it is free, or the rows of its pass have all entered (R44). The load is at the head of its queue with its pass
behind it, and the engine needs no ramp. `v` is the state in which the operand is read, with the plan entry `pl` (none where the
descriptor names none). -/
structure LoadNext (s v : State) (e : Fin 8) (k : Nat) (j : Job) (q p : QItem) (pl : List Byte) : Prop where
  present : s.present e = true
  free : s.takesLoad e = true
  empty : (s.eng e).loaded = none
  ready : s.ready (e / 2) (engUnit e) 1 = some (k, j, q)
  pair : s.passOf e q = some p
  awake : (s.eng e).dusk = false ∧ (s.eng e).rampDone = true
  plan : ((loadItem k e j q p s).d.at 0x28 4 = noAddr ∧ pl = [] ∧ v = loadStart k e s)
    ∨ ∃ a bad, (loadItem k e j q p s).d.at 0x28 4 ≠ noAddr ∧ j.addrOf (loadItem k e j q p s) 0x28 = some a
      ∧ (loadStart k e s).inSlice j a 256 = true ∧ touch j.part { reads := [(a, 256)], writes := [] } (loadStart k e s) = .ok v bad
      ∧ v.bad bad a 256 = false ∧ pl = v.bytes a 256

/-- What a PASS works with. -/
def passCtx (s : State) (e : Fin 8) (k : Nat) (j : Job) (l p : QItem) : PassCtx :=
  runCtx e j (startRun e k j l p s.elapse) s.elapse

/-- The segments that a run still has to commit. -/
def PassCtx.left (c : PassCtx) : List Nat := (List.range (max c.l.resume c.segments)).filter fun g => decide (c.l.resume ≤ g)

/-- What the rows of a pass read and write, inside the job's slice. -/
def passAccess (s : State) (c : PassCtx) : Access :=
  { reads := ((c.left.flatMap c.segRows).flatMap fun m => c.feed m ++ c.drain m).filter fun x => s.inSlice c.j x.1 x.2
    writes := (c.left.flatMap c.stores).filter fun x => s.inSlice c.j x.1 x.2 }

/-- The pass of the loaded operand is at the head of engine `e`'s queue, its accesses are served, and no row that it feeds faults.
`v` is the state in which its first row enters. -/
structure PassNext (s v : State) (e : Fin 8) (k : Nat) (j : Job) (l p : QItem) (bad : List Nat) : Prop where
  loaded : (s.eng e).loaded = some l ∧ l.skipped = false ∧ (s.eng e).replayAt = none ∧ (s.eng e).run = none
  ready : s.ready (e / 2) (engUnit e) 2 = some (k, j, p)
  stash : s.stashFull j p = false
  named : (passCtx s e k j l p).named = true
  served : ∃ u, touch j.part (passAccess s (passCtx s e k j l p)) s.elapse = .ok u bad
    ∧ v = firstRow e (u.drawn e PassCtx.span)
    ∧ (passCtx s e k j l p).firstFault v bad (passCtx s e k j l p).feed 2 ((passCtx s e k j l p).left.flatMap (passCtx s e k j l p).segRows) = none

/-- The commits of a pass whose rows stream in one act with nothing to interrupt them: the sums of all its segments are staged, and each
segment commits in its turn. -/
def passCommits (c : PassCtx) (stagedUe bad : List Nat) (v : State) : PassRunSt :=
  c.left.foldl (fun a g => c.commitSeg stagedUe bad a g ((c.left.map (c.sums v)).getD (g - c.l.resume) []))
    { s := v, done := c.l.resume, empty := 0, ue := false, limit := max c.l.resume c.segments, asked := false, stop := none }

/-- The array streams all that is left of a pass, and nothing comes from outside while it does. -/
def quietRun (env : PassEnv) : Prop := env.upTo = none ∧ env.preemptIn = none ∧ env.hwFault = none

/-! ### Host transfers and ports (R158, R347 to R361) -/

/-- A transfer of mode `mode` at the head of core `c`'s queue may start: its span side, `n` bytes at `a`, is named and lies in the
job's slice, and no request of the core is out. -/
structure XferNext (s : State) (c : Fin 4) (mode k : Nat) (j : Job) (q : QItem) (a n : Nat) : Prop where
  ready : s.ready c .xfer 4 = some (k, j, q)
  mode : q.d.at 0x10 1 = mode
  quiet : (s.requests.any fun r => r.owner == .xfer c) = false
  size : q.d.at 0x1C 4 = n
  addr : j.addrOf q 0x14 = some a
  inside : s.inSlice j a n = true

/-- A request of `n` bytes reaches a queue pair at its place in the sequence; `u` is the state once a CE mark is answered. -/
structure RequestNext (s u : State) (q : Fin 1024) (psn : Nat) (ce : Bool) : Prop where
  answers : s.answers q = true
  marked : u = ceMarked q ce s.elapse
  inOrder : psn % 2 ^ 24 = (u.qp q).epsn

/-! ### The context engine (chapter 7) -/

/-- The operation reads staged rows as it goes: an APPEND of one layer. -/
def cxStaging (op : Nat) (q : QItem) : Bool := op == 2 && q.d.at 0x12 2 != 0xFFFF

/-- The bytes that an operation reads before it begins: its record, for UNPARK; else its key array or staging area. -/
def cxArea (x : CxPart) (j : Job) (q : QItem) (op : Nat) : Option (Nat × Nat) :=
  if op = 6 then
    let id := q.d.at 0x14 4 % 2 ^ 20
    some (if id < x.parkFirst ∨ x.parkFirst + x.parkCount ≤ id then (0, 0) else (x.parkDir + 128 * (id - x.parkFirst), 128))
  else operandOf x j q op

/-- The CXE starts operation `op` of core `c`: item `q`, `n` places down the queue. Its status word lies in the slot's span, and what it
reads first has been served (`t`) and is clean. `a` is what the operation works with. -/
structure CxNext (s t : State) (c : Fin 4) (op k n : Nat) (j : Job) (q : QItem) (a : CxArgs) : Prop where
  next : s.cxeNext c op = some (k, j, n, q)
  valid : (s.cxp j.part).valid = true
  word : ∃ b, j.addrOf q 0x24 = some b ∧ s.inSlice j b 8 = true
  served : ∃ at0 len bad u listed, cxArea (s.cxp j.part) j q op = some (at0, len) ∧ (len ≠ 0 → op ≠ 6 → s.inSlice j at0 len = true)
    ∧ touch j.part { reads := if len = 0 then [] else [(at0, len)], writes := [] }
        (s.elapse.setSq c { s.sq c with cxe := (s.sq c).cxe.eraseIdx n }) = .ok u bad
    ∧ cxListed j.part (s.cxp j.part) (op == 6) (u.bytes at0 len) u = (t, listed, false)
    ∧ (len ≠ 0 → cxStaging op q = false → t.bad bad at0 len = false)
    ∧ a = { p := j.part, tenant := j.record.tenant, d := q.d, area := if cxStaging op q then [] else t.bytes at0 len, areaAt := at0
            liveFirst := t.fld (F.cxePartIdsLiveFirst j.part), liveCount := t.fld (F.cxePartIdsLiveCount j.part)
            held := (t.stalled.filter fun y => y.part == j.part && y.item.no != q.no).flatMap (·.ids), listed := listed }

/-- The tables an operation starts from. -/
def cxStart (s t : State) (p : Nat) : CxWork :=
  { x := s.cxp p, now := t.clock.fclk, copies := [], fresh := [], idx := t.clock.freeIdx, coll := 0 }

/-- What a successful operation reads of the tables in the span, and the pages it copies, have been served (`u`) and read clean. -/
def CxServed (s t u : State) (op : Nat) (j : Job) (q : QItem) (a : CxArgs) (w : CxWork) : Prop :=
  let tables := (s.cxp j.part).cxTables w.x op a.ctx
  ∃ bad, touch j.part { reads := tables ++ w.copies.map fun y => (y.1, y.2.2), writes := w.copies.map fun y => (y.2.1, y.2.2) } t = .ok u bad
    ∧ (tables.any fun y => u.bad bad y.1 y.2) = false ∧ (cxStaging op q = true ∨ (w.copies.any fun y => u.bad bad y.1 y.2.2) = false)

/-- The state after a successful operation: its tables, copies and bytes are in force, its status word and results are written, its signal is
raised. -/
def cxEnds (s u : State) (c k : Nat) (j : Job) (q : QItem) (w : CxWork) (id tok : Nat) (outs : List (Nat × List Byte)) : State :=
  s.keep (settle c .cxe (cxFinish k c 0 id tok q (outs.foldl (fun v o => writeNow j.part o.1 o.2 v) (w.apply j.part u))))

/-! ### The fabric (chapters 10 and 11) -/

/-- A fabric frame that has arrived whole at a port is taken from it, and shows the peer of the port alive (R313). -/
def landed (e : Fin 16) (type : Nat) (f : Frame) (s : State) : State :=
  heardPort e (s.elapse.setEp e { s.ep e with inbox := (s.ep e).inbox.erase (.coll type f) })

/-- A link message that has arrived whole at a port is taken from it. -/
def linkLanded (e : Fin 16) (type : Nat) (m : LinkMsg) (s : State) : State :=
  s.elapse.setEp e { s.ep e with linbox := (s.ep e).linbox.erase (type, m) }

/-- One register counts up by one, and no other changes. -/
def Counts (f : Fld) (s t : State) : Prop := t.fld f = (s.fld f + 1) % 2 ^ f.width ∧ ∀ r, r ≠ f.reg → t.reg r = s.reg r

/-- A lending message that its pair has not seen before arrives; `u` is the state once it is noted (R343). -/
structure LendNext (s u : State) (e : Fin 16) (type : Nat) (m : LendMsg) : Prop where
  live : s.live = true
  fresh : ∃ l, (s.lendPair m.src).note m.seq = some l ∧ u = (heardPort e (takeLend e type m s.elapse)).setLendPair m.src l

/-- The message is in one frame, and no part of another is held. -/
def LendWhole (s : State) (m : LendMsg) : Prop := m.part = 0 ∧ m.lastPart = true ∧ (s.lendPair m.src).parts = []

/-- No part is held for the sender. -/
def State.noParts (s : State) (m : LendMsg) : State := s.setLendPair m.src { s.lendPair m.src with parts := [] }

/-! ### SEC (chapter 13) -/

/-- SEC takes a command of partition `p`: its block of 64 bytes lies in the partition's span, reads clean, and names a tenant slot that
the partition has. `u` is the state once the block is read, `x` what it says (R421). -/
structure SecNext (s u : State) (p : Fin 4) (x : SecArgs) : Prop where
  writable : s.writable = true
  valid : s.partValid p = true
  inside : inRange (s.range p) (s.pair (.secCmdLo p) (.secCmdHi p) % 2 ^ 52) 64 = true
  block : ∃ bs, readNow p (s.pair (.secCmdLo p) (.secCmdHi p) % 2 ^ 52) 64 s.elapse = (u, bs, false)
    ∧ x = { tenant := leAt bs 0 1, key := leAt bs 1 1, src := leAt bs 8 8, dst := leAt bs 0x10 8, len := leAt bs 0x18 8 }
  slot : x.tenant < 2 ^ u.fld (F.secPartCfgSlotsLog2 p)

/-- A command of SEC has ended with a status and a detail. -/
def SecEnds (p : Fin 4) (status detail : Nat) (t : State) : Prop :=
  t.fld (F.secCmdStatusStatus p) = status ∧ t.fld (F.secCmdDetailDetail p) = detail ∧ t.fld (F.secCmdStatusBusy p) = 0

end Sys2Proof.Machine
end

