-- ==== Sys2Proof/Certificates/Slice0/Obligations.lean ====
section
/-! DEFINITION. The statements for the provers. Each docstring names the rules of spec/ it comes from. -/
open Sys2Proof Sys2Proof.Machine

/-! ### Vector engine (chapter 6) -/

/-- R183, R184, R187, R189: the arithmetic lane instructions write each lane of d below VL with the operation of Table 6.6 on the
operand lanes, rounded once; lanes from VL upward keep their values, flags are raised (R185), nothing else changes. -/
def Obligations.VeArithmeticLanes : Prop :=
  ∀ (s : State) (c : Fin 4) (k : Nat) (j : Job) (q : QItem) (i : VInstr),
    let C := veCtx s c k j q i
    let x := s.ve c
    let A (n : Nat) : Machine.Num := C.num (C.bitsA x n)
    let B (n : Nat) : Machine.Num := C.num (C.bitsB x n)
    let D (n : Nat) : Machine.Num := C.num (C.bitsC x n)
    let one (y : Machine.Num) (ops : List Machine.Num) (n : Nat) : Half × VFlags := putLane i.ty y ops (C.rm 0 1 n)
    ∀ r ∈ [ (Instr.add c, 0x10, fun n => if i.ty = 2 then (C.bitsA x n + C.bitsB x n, VFlags.none) else one ((A n).add (B n)) [A n, B n] n),
            (.sub c, 0x11, fun n => if i.ty = 2 then (C.bitsA x n - C.bitsB x n, VFlags.none) else one ((A n).sub (B n)) [A n, B n] n),
            (.mul c, 0x12, fun n => if i.ty = 2 then (C.bitsA x n * C.bitsB x n, VFlags.none) else one ((A n).mul (B n)) [A n, B n] n),
            (.fma c, 0x13, fun n => one (((A n).mul (B n)).add (D n)) [A n, B n, D n] n),
            (.fms c, 0x14, fun n => one (((A n).mul (B n)).sub (D n)) [A n, B n, D n] n),
            (.fnma c, 0x15, fun n => one (((A n).mul (B n)).neg.add (D n)) [A n, B n, D n] n),
            (.scalb c, 0x1A, fun n => one ((A n).scale (signedOf 9 i.imm)) [A n] n),
            (.div c, 0x3A, fun n => putLane i.ty ((A n).div (B n)) [A n, B n] (C.rm 0 4 n)) ],
      VeNext s c r.2.1 k j q i →
      ∃ t, exec r.1 s = .next t ∧ VeLanes c s t i.d ((List.range C.vl).map r.2.2)

/-- R183, R186: the lane instructions that round nothing write each lane of d below VL as Table 6.6 says; nothing else changes. -/
def Obligations.VeBitLanes : Prop :=
  ∀ (s : State) (c : Fin 4) (k : Nat) (j : Job) (q : QItem) (i : VInstr),
    let C := veCtx s c k j q i
    let x := s.ve c
    let A := C.bitsA x
    let B := C.bitsB x
    ∀ r ∈ [ (Instr.min c, 0x16, fun n => pickLane i.ty false (A n) (B n)),
            (.max c, 0x17, fun n => pickLane i.ty true (A n) (B n)),
            (.abs c, 0x18, fun n => A n &&& 0x7FFF),
            (.neg c, 0x19, fun n => A n ^^^ 0x8000),
            (.mov c, 0x1B, fun n => A n),
            (.movi c, 0x1C, fun _ => BitVec.ofNat 16 i.imm),
            (.and c, 0x1D, fun n => A n &&& B n),
            (.or c, 0x1E, fun n => A n ||| B n),
            (.xor c, 0x1F, fun n => A n ^^^ B n),
            (.cmp c, 0x20, fun n => if cmpLane i.ty i.x (A n) (B n) then 0xFFFF else 0),
            (.sel c, 0x21, fun n => if C.bitsC x n = 0 then B n else A n),
            (.classify c, 0x22, fun n => classLane i.ty (A n)),
            (.bcast c, 0x45, fun _ => x.sreg i.a),
            (.perm c, 0x48, fun n => x.lane i.a ((x.lane i.b n).toNat % 1024)) ],
      VeNext s c r.2.1 k j q i →
      ∃ t, exec r.1 s = .next t ∧ VeLanes c s t i.d ((List.range C.vl).map fun n => (r.2.2 n, VFlags.none))

/-- R187, R189: SQRT rounds the exact root once; CVT converts lanes between BF16, FP16 and INT16.
R187: a transcendental writes each lane of d below VL with its value, within the bound of R187 before the one rounding; the
position inside the bound is free. -/
def Obligations.VeTranscendentalsAndConversion : Prop :=
  (∀ (s : State) (c : Fin 4) (k : Nat) (j : Job) (q : QItem) (i : VInstr),
    let C := veCtx s c k j q i
    let x := s.ve c
    let A (n : Nat) : Machine.Num := C.num (C.bitsA x n)
    (VeNext s c 0x34 k j q i → ∃ t, exec (.sqrt c) s = .next t ∧ VeLanes c s t i.d ((List.range C.vl).map fun n =>
      match A n with
      | .fin y nz =>
        if y = 0 then putLane i.ty (.fin 0 nz) [A n] .rne
        else if y < 0 then putLane i.ty (.nan false) [A n] .rne
        else putSqrt i.ty y [A n] (C.rm 0 2 n)
      | .inf true _ => putLane i.ty (.nan false) [A n] .rne
      | y => putLane i.ty y [A n] .rne))
    ∧ (VeNext s c 0x50 k j q i → ∃ t, exec (.cvt c) s = .next t ∧ VeLanes c s t i.d ((List.range C.vl).map fun n =>
        let h := C.bitsA x n
        if i.ty = 2 then
          if i.x = 2 then (h, VFlags.none) else putLane i.x (.fin (h.toInt : Rat) false) [.fin (h.toInt : Rat) false] (C.rm 0 1 n)
        else if i.x = 2 then putInt (A n) (C.rm 0 1 n)
        else putLane i.x (A n) [A n] (C.rm 0 1 n))))
  ∧ (∀ (s : State) (c : Fin 4) (k : Nat) (j : Job) (q : QItem) (i : VInstr),
    let C := veCtx s c k j q i
    let A (n : Nat) : Machine.Num := C.num (C.bitsA (s.ve c) n)
    ∀ r ∈ [ (Instr.exp2 c, 0x30), (.log2 c, 0x31), (.rcp c, 0x32), (.rsq c, 0x33), (.sig c, 0x35), (.tanh c, 0x36), (.silu c, 0x37),
            (.sint c, 0x38), (.cost c, 0x39) ],
      VeNext s c r.2 k j q i →
      ∃ t, exec r.1 s = .next t
        ∧ VeLanes c s t i.d ((List.range C.vl).map fun n => putLane i.ty (transcend r.2 (A n) (C.idx n)) [A n] (C.rm 0 2 n)))

/-- R183, R186, R188: the reductions write S(d) from the active lanes, exact and rounded once, or the extreme lane; EXTR and INSRT
name one lane whatever VL holds, and INSRT leaves every other lane of d unchanged. -/
def Obligations.VeScalars : Prop :=
  ∀ (s : State) (c : Fin 4) (k : Nat) (j : Job) (q : QItem) (i : VInstr),
    let C := veCtx s c k j q i
    let x := s.ve c
    let A (n : Nat) : Machine.Num := C.num (C.bitsA x n)
    let B (n : Nat) : Machine.Num := C.num (C.bitsB x n)
    let L := List.range C.vl
    let first : Half := if laneNan i.ty (C.bitsA x 0) then BitVec.ofNat 16 (nanBits i.ty) else C.bitsA x 0
    (∀ r ∈ [ (Instr.rsum c, 0x40, L.map A, L.map A), (.rssq c, 0x43, L.map fun n => (A n).mul (A n), L.map A),
             (.rdot c, 0x44, L.map fun n => (A n).mul (B n), L.flatMap fun n => [A n, B n]) ],
      VeNext s c r.2.1 k j q i →
      ∃ t, exec r.1 s = .next t ∧ t.ve c = x.setS i.d (putLane i.ty (numSum r.2.2.1) r.2.2.2 (C.rmAt 4104)).1
        ∧ VeRaises c (putLane i.ty (numSum r.2.2.1) r.2.2.2 (C.rmAt 4104)).2 s t ∧ VeRetires c 1 s t)
    ∧ (∀ r ∈ [ (Instr.rmax c, 0x41, L.foldl (fun m n => pickLane i.ty true m (C.bitsA x n)) first),
               (.rmin c, 0x42, L.foldl (fun m n => pickLane i.ty false m (C.bitsA x n)) first),
               (.extr c, 0x46, x.lane i.a (i.imm % 1024)) ],
      VeNext s c r.2.1 k j q i → ∃ t, exec r.1 s = .next t ∧ t.ve c = x.setS i.d r.2.2 ∧ VeRetires c 1 s t)
    ∧ (VeNext s c 0x47 k j q i →
      ∃ t, exec (.insrt c) s = .next t ∧ VeRetires c 1 s t
        ∧ t.ve c = x.setLanes i.d ((List.range 1024).map fun n => if n = i.imm % 1024 then x.sreg i.a else x.lane i.d n))


/-- R191, R189: a load whose access is served writes the lanes of d below VL, or S(d), from memory; it changes no byte of memory (the
service of the access changes none where no stored bit is in error). -/
def Obligations.VeLoads : Prop :=
  ∀ (s u : State) (c : Fin 4) (k b : Nat) (j : Job) (q : QItem) (i : VInstr),
    let C := veCtx s c k j q i
    let x := s.ve c
    let two (a : Nat) : Half := BitVec.ofNat 16 (u.num a 2)
    let ends (y : Ve) (t : State) : Prop := VeEnds c y s t ∧ MemSame u t ∧ Fetched s u
    (∀ r ∈ [ (Instr.ld c, 0x60, C.contiguous x b), (.lds c, 0x62, C.strided x b), (.ldg c, 0x64, C.indexed x b) ],
      VeNext s c r.2.1 k j q i → VeServed s C 2 b false (r.2.2.map fun a => (a, 2)) u →
      ∃ t, exec r.1 s = .next t ∧ ends (x.setLanes i.d (r.2.2.map two)) t)
    ∧ (VeNext s c 0x66 k j q i → VeServed s C 2 b false [(C.scalarAddr x b, 2)] u →
      ∃ t, exec (.sld c) s = .next t ∧ ends (x.setS i.d (two (C.scalarAddr x b))) t)
    ∧ (VeNext s c 0x51 k j q i → (fmtMx i.c = true → C.vl % 32 = 0) → VeServed s C C.packedAlign b false (C.packed x b) u →
      ∃ t, exec (.ldx c) s = .next t
        ∧ ends (x.setLanes i.d ((List.range C.vl).map fun n =>
            let v := elemVal i.c (elemAt i.c (u.bytes (C.scalarAddr x b) (rowBytes i.c C.vl)) n)
              (leAt (u.bytes (offAddr b (x.areg i.b)) (C.vl / 32)) (n / 32) 1)
            (putLane i.ty v [v] (C.rm 0 1 n)).1)) t)

/-- R191: a store whose access is served writes the lanes of d below VL, highest lane last, or S(d), and with STX the converted elements
and the scales; every byte of memory outside the bytes stored reads as before, and the engine's registers stay. -/
def Obligations.VeStores : Prop :=
  ∀ (s u : State) (c : Fin 4) (k b : Nat) (j : Job) (q : QItem) (i : VInstr),
    let C := veCtx s c k j q i
    let x := s.ve c
    let ends (rs : List (Nat × Nat)) (t : State) : Prop := VeEnds c x s t ∧ Fetched s u ∧ Stored rs u t
    (∀ r ∈ [ (Instr.st c, 0x61, C.contiguous x b), (.sts c, 0x63, C.strided x b), (.stg c, 0x65, C.indexed x b) ],
      VeNext s c r.2.1 k j q i → VeServed s C 2 b true (r.2.2.map fun a => (a, 2)) u →
      ∃ t, exec r.1 s = .next t ∧ ends (r.2.2.map fun a => (a, 2)) t
        ∧ t.mem = (r.2.2.zipIdx.foldl (fun v y => v.writeBytes y.1 (leBytes 2 (x.lane i.d y.2).toNat)) u).mem)
    ∧ (VeNext s c 0x67 k j q i → VeServed s C 2 b true [(C.scalarAddr x b, 2)] u →
      ∃ t, exec (.sst c) s = .next t ∧ ends [(C.scalarAddr x b, 2)] t
        ∧ t.mem = (u.writeBytes (C.scalarAddr x b) (leBytes 2 (x.sreg i.d).toNat)).mem)
    ∧ (VeNext s c 0x52 k j q i → (fmtMx i.c = true → C.vl % 32 = 0) → VeServed s C C.packedAlign b true (C.packed x b) u →
      let vals := (List.range C.vl).map fun n => (C.num (x.lane i.d n), C.rm 0 1 n)
      let blocks := (List.range (C.vl / 32)).map fun n => mxBlock i.c ((vals.drop (32 * n)).take 32)
      let codes := if fmtMx i.c then blocks.flatMap (·.2.1) else vals.map fun v => (convert i.c v.1 v.2).1
      let w := u.writeBytes (C.scalarAddr x b) (packRow i.c codes [])
      ∃ t, exec (.stx c) s = .next t ∧ ends (C.packed x b) t
        ∧ t.mem = (if fmtMx i.c then w.writeBytes (offAddr b (x.areg i.b)) (blocks.map fun y => BitVec.ofNat 8 y.1) else w).mem)

/-- R193, R195, R197: OADAM and OSGD in the update stream of a training job write m, v and the new weight, and add the squares of weights
and updates and the stalled updates to their accumulators; NRG and NSSQ add to their accumulators; NSTORE stores NT or NG as a pair and zeroes it; CLIPF latches the clip factor. -/
def Obligations.VeOptimizer : Prop :=
  ∀ (s u : State) (c : Fin 4) (k b : Nat) (j : Job) (q : QItem) (i : VInstr),
    let C := veCtx s c k j q i
    let x := s.ve c
    let L := List.range C.vl
    (∀ r ∈ [ (Instr.oadam c, 0x70, true), (.osgd c, 0x71, false) ],
      VeNext s c r.2.1 k j q i → j.training = true → q.upd = true → x.layer ≠ 0xFFFF →
      ∃ t, exec r.1 s = .next t ∧ MemSame s t
        ∧ (t.ve c).v = (((if r.2.2 then (x.setLanes i.b (L.map fun n => (C.optLane x r.2.2 n).m)).setLanes i.c
            (L.map fun n => (C.optLane x r.2.2 n).v) else x.setLanes i.b (L.map fun n => (C.optLane x r.2.2 n).m)).setLanes i.d
            (L.map fun n => (C.optLane x r.2.2 n).w)).v)
        ∧ (let l := L.map (C.optLane x r.2.2)
           (t.ve c).nw = (addAcc x.nw (numSum (l.map fun o => (bf o.w).mul (bf o.w))) (C.draws.at 20 4097)).1
           ∧ (t.ve c).nu = (addAcc x.nu (numSum (l.map fun o => o.upd.mul o.upd)) (C.draws.at 21 4098)).1
           ∧ (t.ve c).stall = (x.stall + (l.filter (·.stalled)).length) % 2 ^ 32)
        ∧ t.fld (F.vePcPc c) = unsignedOf 13 ((s.fld (F.vePcPc c) : Int) + 1))
    ∧ (VeNext s c 0x72 k j q i →
      let sum := numSum (L.map fun n => let a := C.num (C.bitsA x n); (a.mul (C.hyper x 6)).mul (a.mul (C.hyper x 6)))
      ∃ t, exec (.nrg c) s = .next t ∧ VeRetires c 1 s t
        ∧ t.ve c = { x with nr := (addAcc x.nr sum (C.draws.at 20 4096)).1, nt := (addAcc x.nt sum (C.draws.at 21 4099)).1 })
    ∧ (VeNext s c 0x73 k j q i →
      let sum := numSum (L.map fun n => let a := C.num (C.bitsA x n); a.mul a)
      ∃ t, exec (.nssq c) s = .next t ∧ VeRetires c 1 s t ∧ t.ve c = { x with ng := (addAcc x.ng sum (C.draws.at 20 4100)).1 })
    ∧ (VeNext s c 0x74 k j q i → VeServed s C 4 b true [(C.pairAddr x b, 4)] u →
      let ng := bitAt i.imm 0
      let p := if ng then x.ng else x.nt
      ∃ t, exec (.nstore c) s = .next t ∧ VeEnds c (if ng then { x with ng := (0, 0) } else { x with nt := (0, 0) }) s t
        ∧ t.mem = (u.writeBytes (C.pairAddr x b) (leBytes 2 p.1.toNat ++ leBytes 2 p.2.toNat)).mem ∧ Fetched s u ∧ Stored [(C.pairAddr x b, 4)] u t)
    ∧ (VeNext s c 0x75 k j q i → VeServed s C 4 b false [(C.pairAddr x b, 4)] u →
      let a := C.pairAddr x b
      let v := (clipOf (C.hyper x 7) (pairVal (BitVec.ofNat 16 (u.num a 2)) (BitVec.ofNat 16 (u.num (a + 2) 2)))).1
      ∃ t, exec (.clipf c) s = .next t ∧ VeEnds c { x.setS i.d v with clip := v } s t ∧ MemSame u t ∧ Fetched s u)

/-- R183, R180: the control instructions: PC, the A registers and VL as Table 6.6 says. SETVL of 0 or above 1,024 is fault 0x05.
R176, R179, R196, R157: VKERN with no argument block starts the kernel at its entry point with VL 1,024 and every A and S
register 0; SETOPT zeroes the norm accumulators and sets LAYER; END stops the engine; a kernel past its limit stops with fault 0x07. -/
def Obligations.VeControlAndKernels : Prop :=
  (∀ (s : State) (c : Fin 4) (k : Nat) (j : Job) (q : QItem) (i : VInstr),
    let x := s.ve c
    (∀ r ∈ [ (Instr.nop c, 0x00, (1 : Int), x), (.fencem c, 0x09, 1, x), (.br c, 0x02, i.simm, x),
             (.bnzd c, 0x03, if (x.setA i.a ((x.areg i.a : Int) - 1)).areg i.a = 0 then 1 else i.simm, x.setA i.a ((x.areg i.a : Int) - 1)),
             (.amovi c, 0x04, 1, x.setA i.d i.simm), (.aaddi c, 0x05, 1, x.setA i.d ((x.areg i.a : Int) + i.simm)),
             (.aadd c, 0x06, 1, x.setA i.d ((x.areg i.a : Int) + x.areg i.b)) ],
      VeNext s c r.2.1 k j q i → ∃ t, exec r.1 s = .next t ∧ t.ve c = r.2.2.2 ∧ VeRetires c r.2.2.1 s t)
    ∧ (VeNext s c 0x07 k j q i → 1 ≤ i.imm % 2048 → i.imm % 2048 ≤ 1024 →
      ∃ t, exec (.setvl c) s = .next t ∧ t.fld (F.veStatusVl c) = i.imm % 2048 ∧ t.ve c = x
        ∧ t.fld (F.vePcPc c) = unsignedOf 13 ((s.fld (F.vePcPc c) : Int) + 1) ∧ MemSame s t)
    ∧ (VeNext s c 0x07 k j q i → (i.imm % 2048 = 0 ∨ 1024 < i.imm % 2048) →
      exec (.setvl c) s = .next (s.keep (veFault c 5 s.elapse))))
  ∧ (∀ (s : State) (c : Fin 4) (k : Nat) (j : Job) (q : QItem) (i : VInstr),
    let x := s.ve c
    (∀ e, x.running = false → s.ready c .ve 3 = some (k, j, q) → q.d.at 0x14 4 = noAddr → j.addrOf q 0x10 = some e → x.storeAt ≤ e →
      (e - x.storeAt) % 8 = 0 → (e - x.storeAt) / 8 < 8192 →
      ∃ t, exec (.vkern c) s = .next t ∧ (t.ve c).running = true ∧ (t.ve c).kernel = some q ∧ t.fld (F.veStatusState c) = 1
        ∧ t.fld (F.veStatusVl c) = 1024 ∧ t.fld (F.vePcPc c) = (e - x.storeAt) / 8
        ∧ (∀ n < 16, (t.ve c).areg n = 0) ∧ (∀ n < 32, (t.ve c).sreg n = 0) ∧ (t.ve c).layer = 0xFFFF ∧ MemSame s t)
    ∧ (VeNext s c 0x08 k j q i →
      ∃ t, exec (.setopt c) s = .next t ∧ (t.ve c).layer = i.imm % 65536 ∧ (t.ve c).nr = (0, 0) ∧ (t.ve c).nw = (0, 0)
        ∧ (t.ve c).nu = (0, 0) ∧ (t.ve c).stall = 0 ∧ (t.ve c).v = x.v ∧ MemSame s t)
    ∧ (VeNext s c 0x01 k j q i → j.training = false →
      ∃ t, exec (.kernelEnd c) s = .next t ∧ (t.ve c).running = false ∧ (t.ve c).kernel = none ∧ t.fld (F.veStatusState c) = 0
        ∧ (t.ve c).nr = (0, 0) ∧ (t.ve c).nw = (0, 0) ∧ (t.ve c).nu = (0, 0) ∧ MemSame s t)
    ∧ (s.live = true → x.running = true → x.kernel = some q → q.d.at 0x18 4 ≠ 0 → s.jobAt c = some (k, j) → j.training = false →
      ∃ t, exec (.vkernLimit c) s = .next t ∧ (t.ve c).running = false ∧ t.fld (F.veStatusState c) = 2
        ∧ t.fld (F.veStatusLastFault c) = 7))

/-! ### Sequencers and jobs (chapter 5) -/

/-- R153, R157, R162: a WAIT, a SIGNAL, a FENCE whose units have completed and an END at hand are done by the sequencer itself: the
signal is raised, the next descriptor stands, the job counts one more; END ends the stream, and lets go of the stash of layers that need
none any more (R115). -/
def Obligations.SequencerDescriptors : Prop :=
  ∀ (s u : State) (c : Fin 4) (k : Nat) (j : Job) (d : Desc),
    (∀ r ∈ [(Instr.wait c, 8), (.signal c, 9), (.fence c, 0xA), (.endStream c, 0xF)], OwnNext s u c r.2 k j d →
      (r.2 = 0xA → u.fenceMet c j (d.at 0x10 1) = true) →
      ∃ t, exec r.1 s = .next (if r.2 = 0xF then s.keep (releaseStash k t) else t) ∧ SteppedOver c k j u t ∧ Signals j d u t
        ∧ ((t.sq c).ended = true ↔ ((u.sq c).ended = true ∨ r.2 = 0xF)))
    ∧ (OwnNext s u c 0xA k j d → u.fenceMet c j (d.at 0x10 1) = false → exec (.fence c) s = .next (s.keep u))

/-- R126, R127, R131, R167: VOTE in a group of one decides by the window and the shards' finiteness, in a larger group it starts the
scalar all-reduce; COMMIT, once every collective and mirror has ended, takes phase 8, and the job goes on with the next attempt or
ends.
R127: a flip adds one to the committed step count and inverts the slot; nothing else of the training state changes. -/
def Obligations.VoteAndCommit : Prop :=
  (∀ (s u : State) (c : Fin 4) (k : Nat) (j : Job) (d : Desc), OwnNext s u c 0xB k j d →
    let bad := j.train.poisoned || j.cores.any fun o => u.on (F.veFlagsNf o)
    (d.at 0x10 1 = 1 → j.train.vote = none → (u.rde.colls.any fun x => x.key == k && x.item.isNone) = false →
      (j.record.groupSize ≤ 1 → exec (.vote c) s = .next (s.keep (voteDone k c (!bad) u)))
      ∧ (1 < j.record.groupSize → ∃ x, exec (.vote c) s = .next (s.keep (startColl x (u.onTrain k fun y => { y with phase := .voting, collsDone := 0xFFFF :: y.collsDone })))
          ∧ x.key = k ∧ x.op = 2 ∧ x.fmt = 0 ∧ x.group = j.record.groupSize ∧ x.item = none
          ∧ x.scalar = (if bad then [0x7FC0] else [0]) ++ List.replicate 31 0))
    ∧ (∀ v, d.at 0x10 1 = 2 → j.train.vote = some v → (j.cores.all fun o => (u.pendingNos o .coll).isEmpty) = true → u.mirrorsDone j = true →
      let w := commitStep k u
      let w := completeHere c (if w.fld F.rdeStatusPairState = 1 then sendHeartbeat w else w)
      let w := (w.setSq c { w.sq c with skipping := false }).onTrain k fun y => { y with attempt := y.attempt + 1 }
      ∀ i, w.job k = some i →
        (∀ st, i.endStatus = some st → exec (.commit c) s = .next (s.keep (w.onTrain k fun y => { y with phase := .done, endAfter := some st })))
        ∧ (i.endStatus = none → exec (.commit c) s = .next (s.keep (beginAttempt k false w)))))
  ∧ (∀ t : Train, t.commitWord < 2 ^ 64 →
    t.flip.step = (t.step + 1) % 2 ^ 63 ∧ t.flip.slotB = !t.slotB ∧ t.flip = { t with commitWord := t.flip.commitWord })

/-- R152, R161: DESCRIPTOR_DISPATCH moves a descriptor at hand for a unit whose queue has room to the tail of that queue, with the
micro-step and attempt of the main stream, and the next descriptor stands; one that is skipped on an empty queue is complete at once
and never enters it. -/
def Obligations.DescriptorsEnterQueues : Prop :=
  ∀ (s v : State) (c : Fin 4) (k : Nat) (j0 j : Job) (d : Desc) (q : QUnit),
    s.live = true → s.coreFenced c = false → s.atHand c = some (k, j0, d) → d.queue = some q → j0.stopped = false →
    ((s.sq c).queue q).length < 16 → bwdFence k c j0 d s.elapse = some v →
    let u := if d.layerStart && j0.training && (v.sq c).stream == .main then layerStart k d.layer v else v
    u.job k = some j → (u.sq c).job = some k → (d.opcode = 2 → ∀ l, (u.eng (2 * c + d.unit % 2)).loaded = some l → l.skipped = false) →
    (d.opcode = 2 → (u.eng (2 * c + d.unit % 2)).dropNext = false) →
    ((∀ x ∈ (u.sq c).queue q, x.skipped = false) → u.skips c j d = false →
      ∃ t x, exec (.descriptorDispatch c) s = .next t ∧ (t.sq c).queue q = (u.sq c).queue q ++ [x] ∧ SteppedOver c k j u t
        ∧ t.regs = u.regs ∧ x.d = d ∧ x.skipped = false ∧ x.no = j.issued ∧ x.upd = ((u.sq c).stream == .update)
        ∧ (j.training = true → (u.sq c).stream = .main → x.micro = j.train.micro ∧ x.attempt = j.train.attempt))
    ∧ ((u.sq c).queue q = [] → u.skips c j d = true →
      ∃ t, exec (.descriptorDispatch c) s = .next t ∧ (t.sq c).queue q = [] ∧ SteppedOver c k j u t
        ∧ Signals { j with issued := j.issued + 1 } d u t)

/-- R166: MAIN_RUN_START zeroes the job's counters and begins the main stream of every core for the next micro-step, once every
stream has ended and every unit is idle, and lets go of the stash of the micro-step before; UPDATE_STREAM_START begins the update stream after the last main run, at once where the
window is poisoned, and of a job that is no training job after its main streams. -/
def Obligations.RunsAndUpdateStreamsStart : Prop :=
  ∀ (s : State) (c : Fin 4) (k : Nat) (j : Job), s.live = true → s.jobAt c = some (k, j) → s.between j = true →
    (j.training = true → j.ending = none → j.train.phase = .micro → j.train.poisoned = false → j.train.microRun < j.record.window →
      s.unitsIdle j = true →
      ∃ t, exec (.mainRunStart c) s = .next t ∧ MemSame s t
        ∧ (∃ i, t.job k = some i ∧ i.train.micro = j.train.microRun ∧ i.train.microRun = j.train.microRun + 1 ∧ i.record = j.record)
        ∧ (∀ o ∈ j.cores, (t.sq o).stream = .main ∧ (t.sq o).pos = 0 ∧ (t.sq o).ended = (j.stream (j.logical o) .main).isEmpty)
        ∧ (∀ o ∈ j.cores, ∀ n < 256, t.fld (F.coreCtrValue o n) = 0) ∧ tabFind t.stashes j.part = none)
    ∧ (j.stopped = false →
      (j.training = true ∧ j.train.phase = .micro ∧ (j.train.poisoned = true ∨ j.record.window ≤ j.train.microRun)
        ∨ j.training = false ∧ (s.sq c).stream = .main ∧ (j.image.update.any fun l => !l.isEmpty) = true) →
      ∃ t, exec (.updateStreamStart c) s = .next t ∧ MemSame s t ∧ t.regs = s.regs
        ∧ (∀ o ∈ j.cores, (t.sq o).stream = .update ∧ (t.sq o).pos = 0 ∧ (t.sq o).ended = (j.stream (j.logical o) .update).isEmpty)
        ∧ (j.training = true → ∃ i, t.job k = some i ∧ i.train.phase = .update))

/-- R141, R143, R144, R172: JOB_TAKE takes the entry of the lowest ring that has one to take: the ring's next number and the count
of jobs taken go on by one, and the entry becomes a job on its cores, or is refused with the lowest status it fails with.
R141, R434: RING_RESET of a disabled ring clears its bytes and its next number becomes 1; while the ring is enabled the write is
dropped and logged. -/
def Obligations.RingEntriesBecomeJobs : Prop :=
  (∀ (s : State) (p : Fin 4) (r : Nat), s.intake p = true → (List.range 16).find? (s.takeable p) = some r →
    let n := s.fld (F.jobRingSeqNextSeq p r)
    let u := (s.elapse.setFld (F.jobRingSeqNextSeq p r) (n + 1)).bump (F.ldgJobsTakenTaken p)
    let x := loadEntry p ((s.ringHead p r).getD []) u
    u.fld (F.jobRingSeqNextSeq p r) = (n + 1) % 2 ^ 32 ∧ u.fld (F.ldgJobsTakenTaken p) = (s.fld (F.ldgJobsTakenTaken p) + 1) % 2 ^ 32
    ∧ (worstFail x.fails = none → exec (.jobTake p) s = .next (s.keep (startJob p r n s.elapse.clock.fclk x x.s)))
    ∧ (∀ f, worstFail x.fails = some f → f ∈ x.fails ∧ (∀ g ∈ x.fails, f.code ≤ g.code)
        ∧ exec (.jobTake p) s = .next (s.keep (refuseJob p r n s.elapse.clock.fclk x f x.s))))
  ∧ (∀ (s : State) (p : Fin 4) (r : Fin 16), s.writable = true →
    (s.on (F.jobRingCtrlEnable p r) = false →
      ∃ t, exec (.ringReset p r) s = .next t ∧ t.fld (F.jobRingSeqNextSeq p r) = 1 ∧ MemSame s t
        ∧ (∀ q, q ≠ Reg.jobRingSeq p r → t.reg q = s.reg q)
        ∧ ∀ a, memGet t.rings a = if p.val * 2 ^ 20 + r.val * 2 ^ 16 ≤ a ∧ a < p.val * 2 ^ 20 + r.val * 2 ^ 16 + 65536 then 0 else memGet s.rings a)
    ∧ (s.on (F.jobRingCtrlEnable p r) = true →
      ∃ t, exec (.ringReset p r) s = .next t ∧ t.fld F.glbDropAddrAddr = (Reg.jobRingCtrl p r).addr % 2 ^ 26 ∧ t.rings = s.rings
        ∧ t.fld F.glbDropCntDrops = (s.fld F.glbDropCntDrops + 1) % 2 ^ 32))

/-- R165, R168, R170, R180: how a job is stopped. A timeout or a CANCEL ends a job that is no training job with its status; a
training job is poisoned and ends after phase 8. SUSPEND marks a training job for its next commit, pre-empts the passes of any other,
and is dropped where the record names no save area. -/
def Obligations.TimeoutCancelSuspend : Prop :=
  ∀ (s : State) (k : Nat) (j : Job), s.job k = some j → j.ending = none →
    let ended (st tag : Nat) : Job := { j with ending := some st, failTag := tag, failDetail := 0 }
    let after (st : Nat) (t : State) : Prop := ∃ i, t.job k = some i ∧ i.train.endAfter = some st ∧ i.train.poisoned = true ∧ i.ending = none
    (∀ (c : Fin 4) (unit : Option (Fin 6)) (n : Nat) (d : Desc), s.live = true →
      (match unit with | none => s.handTimeout c | some y => (allUnits[y.val]?).bind (s.headTimeout c)) = some (n + 1, k, j, d) →
      ∃ t, exec (.counterTimeout ⟨c, unit⟩) s = .next t
        ∧ (j.training = false → j.train.endAfter = none → t.job k = some (ended 0x15 d.tag))
        ∧ (j.training = true → j.train.phase.open = true → j.train.poisoned = false → j.train.endAfter = none → after 0x15 t))
    ∧ (∀ (p : Fin 4) (m : BitVec 4), s.writable = true → s.maskJobs p m.toNat = [k] →
      (∃ t, exec (.cancel p m) s = .next t
        ∧ (j.training = false → t.job k = some (ended 1 0))
        ∧ (j.training = true → j.train.phase.open = true → j.train.poisoned = false → j.train.endAfter = none → after 1 t))
      ∧ (∃ t, exec (.suspend p m) s = .next t
        ∧ (j.record.saveAddr = 0 → t.job k = some j ∧ t.fld F.glbDropCntDrops = (s.fld F.glbDropCntDrops + 1) % 2 ^ 32)
        ∧ (j.record.saveAddr ≠ 0 → j.training = true → t.job k = some { j with train := { j.train with suspendAfter := true } })
        ∧ (j.record.saveAddr ≠ 0 → j.training = false → t = s.keep ((j.cores.flatMap engsOf).foldl (fun u e => preemptPass e u)
            (s.elapse.setJob k { j with suspend := true })))))

/-- R145, R168: COMPLETION_WRITE of a job that ends now, whatever status it ends with: the record goes out (after a suspend, once the
save area is written), and the job's cores are free and say how it ended. -/
def Obligations.JobCompletionFreesCores : Prop :=
  ∀ (s : State) (c : Fin 4) (k st : Nat) (j : Job), s.live = true → s.jobAt c = some (k, j) → s.endsNow j = some st →
    let u := if st = 2 then writeSave k s.elapse else s.elapse
    (∀ i, u.job k = some i → exec (.completionWrite c) s = .next (s.keep (freeJob k st (reportJob i st u))))
    ∧ ∃ t, exec (.completionWrite c) s = .next t ∧ t.job k = none ∧ ∀ o ∈ j.cores, t.coreJob o = none
        ∧ t.fld (F.jobCoreStatusState j.part o) = 0 ∧ t.fld (F.jobCoreStatusLastStatus j.part o) = st % 2 ^ (F.jobCoreStatusLastStatus j.part o).width


/-! ### Matrix engines (chapters 2 and 3) -/

/-- R36, R39, R41, R44, R45, R57, R67: a LOAD at the head of the queue of an engine that takes one, whose operand lies in the job's slice and
reads clean, fills the stationary registers, scales and vectors, and the transpose buffer where the pass needs it; it leaves its queue,
and the engine waits for the pass. A LOAD whose plan entry says SKIPPED leaves its queue and its pass is skipped (R225). -/
def Obligations.EngineLoad : Prop :=
  ∀ (s v : State) (env : LoadEnv) (k : Nat) (j : Job) (q p : QItem) (pl : List Byte),
    let e := env.engine
    LoadNext s v e k j q p pl →
    let l := loadItem k e j q p s
    (pl ≠ [] ∧ planKind pl = 0 → exec (.load env) s = .next (s.keep (skipPass e l (popHead (e / 2) (engUnit e) v))))
    ∧ (∀ (u : State) (m : LoadMap) (bad : List Nat), pl = [] ∨ planKind pl ≠ 0 → env.hwFault = none → env.preemptAt = none →
      loadMap j l pl (bitAt (p.d.at 0x3C 2) 4) = some m → (∃ a, j.addrOf p 0x34 = some a ∧ v.inSlice j a 64 = true) →
      let reads := (m.timeline j l p (v.pick 512)).map (·.2)
      let trans := bitAt (p.d.at 0x3A 1) 2
      (reads.all fun r => v.inSlice j r.1 r.2) = true → touch j.part { reads := reads, writes := [] } v = .ok u bad →
      let w := m.rows.foldl (fun x a => streamLoad j.part a x) u
      (reads.all fun r => w.inSlice j r.1 r.2 && !w.bad bad r.1 r.2) = true →
      ∃ t, exec (.load env) s = .next t ∧ (t.eng e).loaded = some l ∧ t.fld (F.engStatusState e) = (if trans then 2 else 1)
        ∧ ((∀ x ∈ ((w.sq (e / 2)).queue (engUnit e)).tail, x.skipped = false) →
            (t.sq (e / 2)).queue (engUnit e) = ((w.sq (e / 2)).queue (engUnit e)).tail)
        ∧ (t.eng e).station = stationOf w (l.d.at 0x20 1) (bitAt (l.d.at 0x21 1) 0) m ∧ (t.eng e).scales = scalesOf w m
        ∧ (t.eng e).vecs = vecsOf w l m ∧ (t.eng e).plan = pl ∧ (t.eng e).kExt = m.kExt ∧ (t.eng e).nExt = m.nExt
        ∧ (t.eng e).tbuf = (if trans then (bufferLines j p m.kExt l.resume).map fun r => w.bytes r.1 r.2 else []))

/-- R61 to R63, R65, R72, R104: a PASS whose rows stream in one act with nothing to interrupt it, and whose segments all commit, reports
DONE with its rows and segments, its signal is raised, and the engine is free.
R61, R101, R103: a segment of a run commits whole when its drain reads clean, what it stores lies in the job's slice, and it does not
overflow, or may not overflow again; its rows, its records and its tile record are then written, in a job that is no training job.
R68, R69, R73, R103: the other commands of an engine, each where it acts: a PASS_REPLAY, a PREEMPT of a pass under way, CNT_CLEAR. -/
def Obligations.EnginePass : Prop :=
  (∀ (s v : State) (e : Fin 8) (k : Nat) (j : Job) (l p : QItem) (bad : List Nat) (env : PassEnv), PassNext s v e k j l p bad → quietRun env →
    let c := passCtx s e k j l p
    let r := passCommits c env.stagedUe bad v
    r.stop = none → r.asked = false → (r.s.eng e).loaded = none → r.s.wants (startRun e k j l p s) = true →
    ∃ run w, exec (.pass e env) s = .next (s.keep (passDone c (endRun j e c.x.kExt c.x.nExt l p run w)))
      ∧ run.status = 0 ∧ run.cause = 0 ∧ run.rows = c.rows - 512 * l.resume ∧ run.resume = r.done ∧ run.committed = r.done - l.resume
      ∧ run.emptyRows = r.empty ∧ run.flags = 8 * boolNat r.ue
      ∧ (w.eng e).run = none ∧ (w.eng e).loaded = none ∧ w.fld (F.engStatusState e) = 0 ∧ w.mem = r.s.mem)
  ∧ (∀ (c : PassCtx) (stagedUe bad : List Nat) (r : PassRunSt) (seg : Nat) (raw : List (List (Half × Bool))), r.stop = none → seg < r.limit →
    c.firstFault r.s bad c.drain 3 (c.segRows seg) = none → ((c.stores seg).any fun x => !r.s.inSlice c.j x.1 x.2) = false →
    let ues := (c.segRows seg).filter fun m => stagedUe.contains m
    let o := c.segment r.s seg raw (!ues.isEmpty)
    let t := c.commitSeg stagedUe bad r seg raw
    (o.overflow = true → c.final = false → (t.stop.map (·.1)) = some 3 ∧ t.limit = seg ∧ t.s = r.s ∧ t.done = r.done)
    ∧ (o.overflow = false → (∃ i, r.s.job c.k = some i ∧ i.training = false) →
      t.done = seg + 1 ∧ t.stop = none ∧ t.limit = r.limit ∧ t.empty = r.empty + o.empty
      ∧ t.s.mem = ((o.stores.foldl (fun t x => t.writeBytes x.1 x.2) r.s).writeBytes (c.tileAt seg) o.tile).mem))
  ∧ (∀ (s : State) (e : Fin 8) (k : Nat) (j : Job) (l p : QItem), s.live = true → s.present e = true → EngHolds s e k j l p →
    (∀ seg, (s.eng e).replayAt = some seg → j.ending = none →
      ∃ t, exec (.passReplay e) s = .next t ∧ (t.eng e).loaded = none ∧ ((t.sq (e / 2)).queue (engUnit e)).length = ((s.sq (e / 2)).queue (engUnit e)).length + 1)
    ∧ ((s.eng e).replayAt = none →
      ∃ t, exec (.preempt e) s = .next t ∧ (t.sq (e / 2)).queue (engUnit e) = l :: (s.sq (e / 2)).queue (engUnit e))
    ∧ ∃ t, exec (.cntClear e) s = .next t ∧ t.reg (.engRowsLo e) = 0 ∧ t.reg (.engRowsHi e) = 0 ∧ (t.eng e).loaded = some l)

/-- R68, R69, R103: a PASS_REPLAY puts the overflowed pass back in its queue from its LOAD, resumed at the segment that overflowed
with a larger exponent offset; a PREEMPT puts a loaded pass that has not begun back the same way, where it resumes from. Both leave the
engine free, or draining the pass before. A PREEMPT of a pass whose rows stream lets no segment open after the one that is open.
CNT_CLEAR zeroes the engine's six cumulative count registers and nothing else. -/
def Obligations.EngineControl : Prop :=
  ∀ (s : State) (e : Fin 8),
    (∀ (k seg : Nat) (j : Job) (l p : QItem), EngHolds s e k j l p →
      let freed (t : State) (x : QItem) : Prop :=
        (t.sq (e / 2)).queue (engUnit e) = x :: (s.sq (e / 2)).queue (engUnit e) ∧ (t.eng e).loaded = none ∧ (t.eng e).replayAt = none
        ∧ (t.eng e).run = (s.eng e).run ∧ t.fld (F.engStatusState e) = (if (s.eng e).run.isSome then 4 else 0)
      ((s.eng e).replayAt = some seg → s.live = true → j.ending = none →
        ∃ t x, exec (.passReplay e) s = .next t ∧ freed t x ∧ x.d = l.d ∧ x.resume = seg ∧ x.replays = l.replays + 1
          ∧ x.ePass ≤ 127 ∧ (j.accumulates p ((j.addrOf p 0x20).getD 0) = false → x.ePass = min (l.ePass + (s.passRange j p.d).2.1) 127))
      ∧ ((s.eng e).replayAt = none → s.writable = true → s.present e = true →
        ∃ t, exec (.preempt e) s = .next t ∧ freed t l))
    ∧ (∀ r : EngRun, (s.eng e).loaded = none → (s.eng e).replayAt = none → (s.eng e).run = some r → s.writable = true → s.present e = true →
      ∃ t, exec (.preempt e) s = .next t ∧ (t.eng e).run = some r.preempted ∧ t.sqs = s.sqs ∧ MemSame s t
        ∧ (r.limit = none → r.next + 1 < r.p.segments → r.preempted.limit = some (r.next + 1) ∧ t.on (F.engStatusPreemptPending e) = true)
        ∧ (r.limit = none → r.p.segments ≤ r.next + 1 → r.preempted = r))
    ∧ (s.writable = true → s.present e = true →
      ∃ t, exec (.cntClear e) s = .next t
        ∧ (∀ r ∈ [Reg.engRowsLo e, .engRowsHi e, .engFreezeLo e, .engFreezeHi e, .engThrottleLo e, .engThrottleHi e], t.reg r = 0)
        ∧ OnlyRegs [.engRowsLo e, .engRowsHi e, .engFreezeLo e, .engFreezeHi e, .engThrottleLo e, .engThrottleHi e] s t)


/-! ### Host transfers and host ports (R158, R347 to R361) -/

/-- R22, R153, R158: a copy, 64 KiB of destination at a time, and a zero fill, whose accesses are served, write their destination, and
raise their signal when all of it is written; a host write, with or without immediate, and a host read put a request on their queue
pair, which is RTS. A transfer fails where its queue pair is not RTS or its source reads poisoned. -/
def Obligations.HostTransfers : Prop :=
  ∀ (s u : State) (c : Fin 4) (k a n : Nat) (j : Job) (q : QItem) (bad : List Nat),
    let qp := q.d.at 0x12 2
    let host := q.d.at 0x20 8
    let key := q.d.at 0x28 4
    (XferNext s c 0 k j q a n → ∀ b, j.addrOf q 0x18 = some b → s.inSlice j b n = true →
      let o := 65536 * q.resume
      let m := min 65536 (n - o)
      touch j.part { reads := [(b + o, m)], writes := [(a + o, m)] } s.elapse = .ok u bad →
      (u.bad bad (b + o) m = false →
        let w := pairStream k [(a + o, m)] (u.writeBytes (a + o) (u.bytes (b + o) m))
        exec (.xferCopy c) s = .next (s.keep (if n ≤ o + m then xferDone k c w else replaceHead c .xfer { q with resume := q.resume + 1 } w))
        ∧ Fetched s u ∧ Stored [(a + o, m)] u w)
      ∧ (u.bad bad (b + o) m = true → exec (.xferCopy c) s = .next (s.keep (xferFail k c u))))
    ∧ (XferNext s c 1 k j q a n → touch j.part { reads := [], writes := [(a, n)] } s.elapse = .ok u bad →
      let w := pairStream k [(a, n)] (u.writeBytes a (List.replicate n 0))
      exec (.xferZeroFill c) s = .next (s.keep (xferDone k c w)) ∧ Fetched s u ∧ Stored [(a, n)] u w)
    ∧ (∀ r ∈ [(Instr.xferHostWrite c, 2, none), (.xferHostWriteImm c, 3, some (BitVec.ofNat 32 (q.d.at 0x2C 4)))], XferNext s c r.2.1 k j q a n →
      (s.qpState qp = 3 → touch j.part { reads := [(a, n)], writes := [] } s.elapse = .ok u bad → u.bad bad a n = false →
        ∃ t, exec r.1 s = .next t ∧ t = s.keep (issueWrite qp host key (u.bytes a n) r.2.2 (.xfer c) u)
          ∧ ∃ x, t.requests = u.requests ++ [x] ∧ x.q = qp ∧ x.owner = .xfer c ∧ x.isRead = false ∧ x.data = u.bytes a n ∧ x.imm = r.2.2)
      ∧ (s.qpState qp ≠ 3 → exec r.1 s = .next (s.keep (xferFail k c s.elapse))))
    ∧ (XferNext s c 4 k j q a n → s.qpState qp = 3 → s.readsOut qp < 16 →
      ∃ t x, exec (.xferHostRead c) s = .next t ∧ t.requests = s.requests ++ [x] ∧ x.q = qp ∧ x.owner = .xfer c ∧ x.isRead = true
        ∧ x.dst = a ∧ x.len = n ∧ x.va = host ∧ x.rkey = key)

/-- R354 to R357, R142: a WRITE in sequence that a window admits places its bytes in span memory, in the rings, or word by word in
the registers, and is acknowledged; a READ is answered with the bytes; of a control window an unaligned access is ignored, or reads 0 (R13); a SEND goes into a receive slot, and one slot fewer is free; a
request of a kind that the device does not serve puts the queue pair into ERROR. -/
def Obligations.RdmaRequestsServed : Prop :=
  ∀ (s u v : State) (bad : List Nat),
    (∀ (m : RdmaWrite) (w off : Nat), RequestNext s u m.q m.psn m.ce → u.admits m.q m.rkey.toNat m.va m.data.length true = some (w, off) →
      u.on F.errStatusHalted = false →
      let p := u.fld (F.mwAttrPartition w)
      let a := u.windowAddr w off
      let n := m.data.length
      let done (t : State) : Res := .next (s.keep (ackMessage m.q m.psn (u.packets m.q n) t))
      (u.fld (F.mwAttrKind w) = 0 → (m.imm = none ∨ u.ringBase m.q = 0) → n ≠ 0 → inRange (u.range p) a n = true →
        touch p { reads := [], writes := [(a, n)] } u = .ok v bad → exec (.rdmaWriteReceive m) s = done (v.writeBytes a m.data))
      ∧ (u.fld (F.mwAttrKind w) = 1 → off + n ≤ 2 ^ 20 → exec (.rdmaWriteReceive m) s = done (writeRings p off m.data u))
      ∧ (u.fld (F.mwAttrKind w) = 2 → n ≤ 4096 → controlOk off n = false → exec (.rdmaWriteReceive m) s = done u)
      ∧ (u.fld (F.mwAttrKind w) = 2 → n ≤ 4096 → controlOk off n = true → exec (.rdmaWriteReceive m) s
          = done ((List.range (n / 4)).foldl (fun t i => regWrite (u.windowScope m.q w) (off + 4 * i) (BitVec.ofNat 32 (leAt m.data (4 * i) 4)) t) u)))
    ∧ (∀ (m : RdmaRead) (w off : Nat), RequestNext s u m.q m.psn m.ce → u.admits m.q m.rkey.toNat m.va m.len false = some (w, off) →
      let p := u.fld (F.mwAttrPartition w)
      let a := u.windowAddr w off
      (u.fld (F.mwAttrKind w) = 0 → m.len ≠ 0 → inRange (u.range p) a m.len = true → touch p { reads := [(a, m.len)], writes := [] } u = .ok v bad →
        v.firstBadPacket m.q a m.len bad = none →
        exec (.rdmaReadRequest m) s = .next (s.keep (answerRead m.q m.psn m.len (v.bytes a m.len) v)))
      ∧ (u.fld (F.mwAttrKind w) = 1 → off + m.len ≤ 2 ^ 20 →
        exec (.rdmaReadRequest m) s = .next (s.keep (answerRead m.q m.psn m.len (memBytes u.rings (p * 2 ^ 20 + off) m.len) u)))
      ∧ (u.fld (F.mwAttrKind w) = 2 → m.len ≤ 4096 → controlOk off m.len = false →
        exec (.rdmaReadRequest m) s = .next (s.keep (answerRead m.q m.psn m.len (List.replicate m.len 0) u)))
      ∧ (u.fld (F.mwAttrKind w) = 2 → m.len ≤ 4096 → controlOk off m.len = true →
        let r := (List.range (m.len / 4)).foldl (fun (x : State × List Byte) i =>
          let (t, y) := readWord (u.windowScope m.q w) (off + 4 * i) x.1
          (t, x.2 ++ leBytes 4 y.toNat)) (coarsen u, [])
        exec (.rdmaReadRequest m) s = .next (s.keep (answerRead m.q m.psn m.len r.2 r.1))))
    ∧ (∀ (m : RdmaSend), RequestNext s u m.q m.psn m.ce → m.data.length ≤ 4032 → u.on F.errStatusHalted = false →
      (u.ringBase m.q ≠ 0 → (u.qp m.q).freeSlots ≠ 0 →
        let ws := u.slotWrites m.q m.data m.imm
        touch (u.fld (F.qpPartPartition m.q)) { reads := [], writes := (ws.filter fun w => !w.2.isEmpty).map fun w => (w.1, w.2.length) } u = .ok v bad →
        exec (.sendReceive m) s = .next (s.keep (ackMessage m.q m.psn (u.packets m.q m.data.length)
          (takeSlot m.q (ws.foldl (fun t w => t.writeBytes w.1 w.2) v)))))
      ∧ (u.ringBase m.q = 0 ∨ (u.qp m.q).freeSlots = 0 → exec (.sendReceive m) s = .next (s.keep (rnrNak m.q m.psn u))))
    ∧ (∀ (q : Fin 1024) (psn : Nat) (ce : Bool), RequestNext s u q psn ce →
        exec (.invalidRequest q ⟨psn, ce⟩) s = .next (s.keep (nakError q psn .invalidRequest u)))

/-- R353: an acknowledgement ends the WRITEs it covers, oldest first; a read response that answers the oldest request ends it; an RNR
NAK is counted and waits, while rnr_retry allows; another NAK, and a timeout with its retries used up, put the queue pair into ERROR; a
timeout before that, and the end of an RNR wait, send every outstanding request of the queue pair again. A packet marked CE is answered
with a CNP before that (R360). -/
def Obligations.AcknowledgementsAndRetries : Prop :=
  ∀ (s : State) (q : Fin 1024) (r : Request) (ce : Bool), s.hears q = true → s.qpState q = 3 →
    let x := s.qp q
    let u := ceMarked q ce s.elapse
    let y := u.qp q
    let gone : State := { u with requests := s.requests.eraseP fun y => y.q == q.val }
    (∀ psn, s.requests = [r] → r.q = q → r.isRead = false → psnLe r.last psn = true →
      exec (.roceAckReceive q ⟨psn, ce⟩) s = .next (s.keep (requestDone r [] (gone.setQp q { y with retries := 0, rnr := 0 }))))
    ∧ (∀ psn data, (s.requests.find? fun y => y.q == q.val) = some r → r.isRead = true → r.psn = psn → data.length = r.len →
      exec (.readResponseReceive q ⟨psn, ce⟩ data) s = .next (s.keep (requestDone r data (gone.setQp q { y with retries := 0, rnr := 0 }))))
    ∧ (∀ psn n, (∀ y, (s.requests.find? fun y => y.q == q.val) = some y → y.isRead = true ∨ psnLe y.last ((psn + 2 ^ 24 - 1) % 2 ^ 24) = false) →
      (s.fld (F.qpRetryRnrRetry q) = 7 ∨ x.rnr < s.fld (F.qpRetryRnrRetry q) → ∃ t, exec (.roceNakReceive q ⟨psn, ce⟩ (.rnr n)) s = .next t
        ∧ t.qp q = { y with rnr := x.rnr + 1, rnrWait := true } ∧ t.requests = s.requests ∧ t.regs = u.regs)
      ∧ (¬(s.fld (F.qpRetryRnrRetry q) = 7 ∨ x.rnr < s.fld (F.qpRetryRnrRetry q)) →
        exec (.roceNakReceive q ⟨psn, ce⟩ (.rnr n)) s = .next (s.keep (qpError q u)))
      ∧ ∀ k ∈ [NakKind.psnSequence, .invalidRequest, .remoteAccess, .remoteOperational],
        exec (.roceNakReceive q ⟨psn, ce⟩ k) s = .next (s.keep (qpError q u)))
    ∧ (s.fld (F.qpDestAckTimeout q) ≠ 0 → x.rnrWait = false → (s.requests.any fun y => y.q == q.val) = true →
      (x.retries < s.fld (F.qpRetryRetryCnt q) →
        exec (.ackTimeout q) s = .next (s.keep (resendRequests q (s.elapse.setQp q { x with retries := x.retries + 1 }))))
      ∧ (s.fld (F.qpRetryRetryCnt q) ≤ x.retries → exec (.ackTimeout q) s = .next (s.keep (qpError q s.elapse))))
    ∧ (x.rnrWait = true → exec (.rnrRetryTimer q) s = .next (s.keep (resendRequests q (s.elapse.setQp q { x with rnrWait := false }))))

/-- R360, R361: a CNP is counted and cuts the rate, no more than once in t_cut_us and not below line rate / 256; a tick with no CNP
since the last raises it, up to the line rate.
R359: a PAUSE frame of nonzero time pauses its priority, and one of time 0 or the expiry of the time resumes it; XOFF is repeated
while it stands; a storm on a priority is recorded once an episode. -/
def Obligations.CongestionAndFlowControl : Prop :=
  (∀ (s : State) (q : Fin 1024),
    let h := s.qpPort q
    let x := s.qp q
    let line := s.lineRate h
    (s.hears q = true → ∃ t, exec (.cnpReceive q) s = .next t ∧ t.fld (F.hptCnpRxCnpRx h) = (s.fld (F.hptCnpRxCnpRx h) + 1) % 2 ^ 32
      ∧ (∀ r, r ≠ Reg.hptCnpRx h → t.reg r = s.reg r) ∧ (∀ i, i ≠ q.val → t.qp i = s.qp i)
      ∧ (x.lastCut = none → t.qp q = { x with rate := max (line / 256) (x.rate - x.rate / 2 ^ max 1 (s.fld (F.hptCcCutShift h))), lastCut := some s.elapse.clock.fclk, ticks := 0, cnpSeen := true })
      ∧ (∀ f, x.lastCut = some f → s.elapse.clock.fclk < f + max 1 (s.fld (F.hptCcTCutUs h)) * 1400 → t.qp q = { x with cnpSeen := true }))
    ∧ (s.up = true → s.qpState q = 3 → ∃ t, exec (.ccIncreaseTick q) s = .next t ∧ t.regs = s.regs ∧ (∀ i, i ≠ q.val → t.qp i = s.qp i)
      ∧ (x.cnpSeen = true → t.qp q = { x with cnpSeen := false })
      ∧ (x.cnpSeen = false → t.qp q = { x with ticks := x.ticks + 1, rate := min line (x.rate + line / 2 ^ (max 3 (s.fld (F.hptCcIncShift h)) - min ((x.ticks + 1) / 8) 3)) })))
  ∧ (∀ (s : State) (h : Fin 4) (p : Fin 8), s.up = true →
    let x := s.hp h
    (s.linkUp h = true → ∀ time, time ≠ 0 → x.paused.toNat.testBit p = false → ∃ t, exec (.pfcFrameReceive h p time) s = .next t
      ∧ (t.hp h).paused = x.paused ||| BitVec.ofNat 8 (2 ^ p.val) ∧ t.regs = s.regs ∧ t.tx = s.tx)
    ∧ (s.linkUp h = true → x.paused.toNat.testBit p = true → ∃ t, exec (.pfcFrameReceive h p 0) s = .next t ∧ (t.hp h).paused = x.paused &&& ~~~BitVec.ofNat 8 (2 ^ p.val))
    ∧ (x.paused.toNat.testBit p = true → ∃ t, exec (.pfcPauseExpiry h p) s = .next t ∧ (t.hp h).paused = x.paused &&& ~~~BitVec.ofNat 8 (2 ^ p.val)
      ∧ (p.val ≠ s.fld (F.hptPfcPcp h) → t.regs = s.regs))
    ∧ (x.xoffSent = true → s.linkUp h = true → ∃ t, exec (.pfcRefresh h) s = .next t ∧ t.tx = s.tx ++ [.pfc h (s.fld (F.hptPfcPcp h)) 0xFFFF]
      ∧ t.regs = s.regs ∧ t.hp h = x)
    ∧ (x.paused.toNat.testBit p = true → x.stormed.toNat.testBit p = false → ∃ t, exec (.pfcStorm h p) s = .next t
      ∧ t.hp h = { x with stormed := x.stormed ||| BitVec.ofNat 8 (2 ^ p.val) } ∧ t.tx = s.tx
      ∧ (s.bank (0x14 + h) = [] → ∃ r, t.bank (0x14 + h) = [r] ∧ r.cause = 1 ∧ r.cls = 1 ∧ r.detail = p.val)))

/-- R348, R350, R351: an ARP request or a neighbour solicitation for the port's own address is answered with its MAC; an answer to an
open resolution enters the cache, and ages out; an echo request is answered, at most 1,000 times a second; a dropped frame is counted;
the link comes up in its configured mode, and what waited for it is lost when it goes down.
R352, R357: a write of a queue pair's state takes it to RESET from any state, or one step on; any other change is dropped and
logged. RING_ACK frees the slots up to the sequence number consumed. -/
def Obligations.EthernetAndQueuePairs : Prop :=
  (∀ (s : State) (h : Fin 4) (c : HostCfg) (m : ArpMsg), s.hostCfg h = some c → s.up = true → s.linkUp h = true →
    let x := s.hp h
    (∀ r ∈ [(Instr.arpRequest h m, false, Out.arpReply h { target := m.sender, sender := m.target, mac := c.mac, v6 := false }),
            (.neighbourSolicitation h m, true, .neighbour h { target := m.sender, sender := m.target, mac := c.mac, v6 := true })],
      ownAddress c m.target r.2.1 = true → x.paused.toNat.testBit 0 = false → x.txq = [] →
      ∃ t, exec r.1 s = .next t ∧ t.tx = s.tx ++ [r.2.2] ∧ t.regs = s.regs)
    ∧ (∀ r ∈ [(Instr.arpReply h m, mapped4 m.sender), (.neighbourAdvertisement h m, m.sender)],
      x.resolving.contains r.2 = true → (x.neigh.filter fun n => !n.2.2).length < 256 →
      ∃ t, exec r.1 s = .next t ∧ (t.hp h).neigh = x.neigh ++ [(r.2, m.mac, false)] ∧ (t.hp h).resolving = x.resolving.filter fun b => b != r.2)
    ∧ (∀ a, ∃ t, exec (.neighbourAgeOut h a) s = .next t ∧ (t.hp h).neigh = (x.neigh.filter fun n => !(n.1 == a && !n.2.2)) ∧ t.regs = s.regs ∧ t.tx = s.tx)
    ∧ (∀ e : EchoMsg, ownAddress c e.dst e.v6 = true → e.payload.length ≤ 1024 → x.echoSecond ≠ s.elapse.clock.fclk / 1400000000 →
      x.paused.toNat.testBit 0 = false → x.txq = [] →
      ∃ t, exec (.echoRequest h e) s = .next t ∧ t.tx = s.tx ++ [.echo h { e with dst := e.src, src := e.dst }] ∧ (t.hp h).echoes = 1)
    ∧ (∀ n, ∃ t, exec (.hostFrameDrop h (.icrc n)) s = .next t ∧ t.fld (F.hptIcrcErrIcrc h) = (s.fld (F.hptIcrcErrIcrc h) + 1) % 2 ^ 32)
    ∧ (s.fld (F.hptStatusMode h) ≠ 0 → ∃ t, exec (.hostLinkUp h) s = .next t ∧ t.on (F.hptStatusLinkUp h) = true ∧ OnlyRegs [.hptStatus h] s t)
    ∧ (∃ t, exec (.hostLinkDown h) s = .next t ∧ t.on (F.hptStatusLinkUp h) = false ∧ (t.hp h).txq = [] ∧ (t.hp h).held = []
      ∧ t.qps = s.qps ∧ ∀ r, r ≠ Reg.hptStatus h → t.reg r = s.reg r))
  ∧ (∀ (s : State) (q : Fin 1024), s.writable = true →
    let x := s.qp q
    let old := s.qpState q
    (old = 0 → ∃ t, exec (.qpStateWrite q 1) s = .next t ∧ t.qpState q = 1 ∧ t.qp q = { x with freeSlots := s.ringSlots q, ringSeq := 1 } ∧ OnlyRegs [.qpCtrl q] s { t with qps := s.qps })
    ∧ (old = 1 → ∃ t, exec (.qpStateWrite q 2) s = .next t ∧ t.qpState q = 2 ∧ t.qp q = { x with epsn := s.fld (F.qpRpsnRqPsn q) })
    ∧ (old = 2 → (s.requests.any fun r => r.q == q.val) = false → ∃ t, exec (.qpStateWrite q 3) s = .next t ∧ t.qpState q = 3
        ∧ t.qp q = { x with npsn := s.fld (F.qpPsnSqPsn q), rate := s.lineRate (s.qpPort q), ticks := 0, cnpSeen := false })
    ∧ (old ≠ 0 → (s.requests.any fun r => r.q == q.val) = false → ∃ t, exec (.qpStateWrite q 0) s = .next t ∧ t.qpState q = 0 ∧ t.qp q = Qp.empty)
    ∧ (∀ st : Fin 8, st.val ≠ 0 → st.val ≠ old → ¬(old ≤ 2 ∧ st.val = old + 1) → ∃ t, exec (.qpStateWrite q st) s = .next t
        ∧ t.qpState q = old ∧ t.qp q = x ∧ t.fld F.glbDropCntDrops = (s.fld F.glbDropCntDrops + 1) % 2 ^ 32)
    ∧ (∀ v : Word, ∃ t, exec (.ringAck q v) s = .next t ∧ t.reg (.qpRingAck q) = v
        ∧ t.qp q = { x with freeSlots := s.ringSlots q - (x.ringSeq + 2 ^ 32 - 1 - v.toNat) % 2 ^ 32 }))



/-! ### Context engine (chapter 7) -/

/-- R216, R217: an operation that succeeds puts its tables, copies and bytes in force and writes its status word and results; one that
fails writes its status; one that lacks frames stalls, and leaves its queue for the stalled list.
R230, R231: a stalled reservation is tested again, and leaves the list where it is over; STARVE_TIMEOUT ends the oldest of a core with
status NO_PAGE and counts it. -/
def Obligations.ContextOperations : Prop :=
  (∀ (s t u : State) (c : Fin 4) (k n : Nat) (j : Job) (q : QItem) (a : CxArgs),
    let out := j.addrOf q 0x20
    let inside (m : Nat) : Bool := match out with | some o => t.inSlice j o m | none => m == 0
    ∀ r ∈ [ (Instr.ctxOpen c, 1, opOpen a), (.appendReserve c, 2, opReserve a), (.appendWrite c, 2, opWrite a), (.ctxFork c, 3, opFork a),
            (.ctxTrim c, 4, opTrim a), (.ctxPark c, 5, opPark a), (.ctxUnpark c, 6, opUnpark a), (.ctxClose c, 7, opClose a),
            (.ctxPlan c, 8, opPlan a (out.getD 0) inside) ],
      CxNext s t c r.2.1 k n j q a → (r.1 = .appendReserve c → q.d.at 0x12 2 = 0xFFFF) → (r.1 = .appendWrite c → q.d.at 0x12 2 ≠ 0xFFFF) →
      (∀ w id tok outs, r.2.2 (cxStart s t j.part) = .done w id tok outs → CxServed s t u r.2.1 j q a w →
        exec r.1 s = .next (cxEnds s u c k j q w id tok outs))
      ∧ (∀ code, r.2.2 (cxStart s t j.part) = .fail code → exec r.1 s = .next (s.keep (settle c .cxe (cxFail k c code q t))))
      ∧ (∀ cls need, r.2.2 (cxStart s t j.part) = .short cls need →
        ∃ v, exec r.1 s = .next v ∧ v.stalled = t.stalled ++ [{ core := c, part := j.part, item := q, ids := namedIds q.d }]))
  ∧ (∀ (s : State) (y : Stalled) (k : Nat) (j : Job), s.live = true → s.jobAt y.core = some (k, j) →
    (∀ p : Fin 4, (s.stalled.filter fun z => z.part == p.val) = [y] →
      let r := runCx k y.core (y.item.d.at 0x10 1) j y.item true s.elapse
      exec (.starveRetest p) s = .next (s.keep (if r.2 then unstallCx y r.1 else r.1)) ∧ y ∉ (unstallCx y r.1).stalled)
    ∧ (∀ c : Fin 4, y.core = c.val → (s.stalled.find? fun z => z.core == c.val) = some y →
      exec (.starveTimeout c) s = .next (s.keep (cxFail k c cxNoPage y.item ((unstallCx y s.elapse).bump (F.cxeStarveFailsFails y.part))))
      ∧ ((unstallCx y s.elapse).bump (F.cxeStarveFailsFails y.part)).fld (F.cxeStarveFailsFails y.part) = (s.fld (F.cxeStarveFailsFails y.part) + 1) % 2 ^ 32
      ∧ y ∉ (unstallCx y s.elapse).stalled))

/-- R203 to R206, R213 to R222: when the operations complete, and what they do to the tables. OPEN of a prompt that no node matches makes
an empty context; RESERVE, with page IDs, list blocks and frames enough, adds its tokens; WRITE takes slots that may be written; FORK makes a
live context of the same pages and tokens under a free ID; TRIM cuts tokens from the end; PARK moves the record to a free parked ID, and
only the context's own pages to a park region; UNPARK takes the record as written; CLOSE takes the record away; PLAN shows what of
the blocks the queries see. -/
def Obligations.ContextTables : Prop :=
  ∀ (s t : State) (c : Fin 4) (k n : Nat) (j : Job) (q : QItem) (a : CxArgs) (r : Ctx),
    let w := cxStart s t j.part
    let x := w.x
    let out := j.addrOf q 0x20
    let inside (m : Nat) : Bool := match out with | some o => t.inSlice j o m | none => m == 0
    let runs (i : Instr) (op : Nat) (res : CxRes) (P : CxWork → Nat → Nat → Prop) : Prop := ∃ v id tok outs, res = .done v id tok outs ∧ P v id tok
      ∧ ∀ u, CxServed s t u op j q a v → exec i s = .next (cxEnds s u c k j q v id tok outs)
    let wanted (n : Nat) : Option Nat := if n = 0xFFFFFFFF then none else some n
    (CxNext s t c 1 k n j q a → ∀ e id b, x.cls (a.arg % 8) = some e → a.target x (if a.ctx = 0xFFFFF then none else some a.ctx) = .ok id →
      (let keys := (List.range (a.area.length / 4)).map fun i => leAt a.area (4 * i) 4
       matchPrefix x (a.arg % 8) a.tenant keys (keys.length / 16) 0 (rootHash e (a.arg % 8) a.tenant) none = []) →
      b + ceilDiv e.layers 8 ≤ x.listBlocks → (∀ i < ceilDiv e.layers 8, b + i ∉ x.blocksUsed) →
      runs (.ctxOpen c) 1 (opOpen a w) fun v i tok => i = id ∧ tok = 0 ∧ ∃ y, tabFind v.x.live id = some y ∧ y.tokens = 0 ∧ y.cls = a.arg % 8
        ∧ y.tenant = a.tenant ∧ y.pages = List.replicate e.layers [])
    ∧ (CxNext s t c 2 k n j q a → q.d.at 0x12 2 = 0xFFFF → a.live x = .ok r → a.arg ≠ 0 → r.tokens + a.arg ≤ 2 ^ 20 →
      let new := ceilDiv (r.tokens + a.arg) 16 - ceilDiv r.tokens 16
      let most := new * (x.clsOf r).layers + r.pages.length
      most ≤ x.idsFree → most ≤ x.framesFree r.cls → (fitLists x w.idx false { r with pages := r.pages.map fun l => l ++ List.replicate new 0 }).isSome = true →
      runs (.appendReserve c) 2 (opReserve a w) fun v i tok => i = a.ctx ∧ tok = r.tokens + a.arg
        ∧ ∃ y, tabFind v.x.live a.ctx = some y ∧ y.tokens = r.tokens + a.arg ∧ y.cls = r.cls ∧ y.tenant = r.tenant)
    ∧ (CxNext s t c 2 k n j q a → q.d.at 0x12 2 ≠ 0xFFFF → a.live x = .ok r → a.arg ≠ 0 → a.d.at 0x28 4 + a.arg ≤ r.tokens →
      a.d.at 0x12 2 < (x.clsOf r).layers →
      (∀ i < a.arg, let pos := a.d.at 0x28 4 + i
        let g := (r.pages.getD (a.d.at 0x12 2) []).getD (pos / 16) 0
        x.pageState g = 1 ∨ x.pageState g = 2 ∧ (x.page g).written.toNat.testBit (pos % 16) = false) →
      runs (.appendWrite c) 2 (opWrite a w) fun _ i tok => i = a.ctx ∧ tok = r.tokens)
    ∧ (CxNext s t c 3 k n j q a → a.live x = .ok r → ∀ id, a.target x (wanted a.arg) = .ok id → (fitLists x w.idx true { r with lists := [] }).isSome = true →
      runs (.ctxFork c) 3 (opFork a w) fun v i tok => i = id ∧ tabFind x.live id = none ∧ tok = r.tokens ∧ v.x.pages = x.pages ∧ v.x.parked = x.parked
        ∧ (∃ y, tabFind v.x.live id = some y ∧ y.pages = r.pages ∧ y.tokens = r.tokens ∧ y.cls = r.cls ∧ y.tenant = r.tenant)
        ∧ ∀ i, i ≠ id → tabFind v.x.live i = tabFind x.live i)
    ∧ (CxNext s t c 4 k n j q a → a.live x = .ok r → a.arg ≤ r.tokens →
      runs (.ctxTrim c) 4 (opTrim a w) fun v i tok => i = a.ctx ∧ tok = r.tokens - a.arg
        ∧ ∃ y, tabFind v.x.live a.ctx = some y ∧ y.tokens = r.tokens - a.arg ∧ y.cls = r.cls)
    ∧ (CxNext s t c 5 k n j q a → a.live x = .ok r → x.parked.length < x.parkCount →
      let reg := max 1 (a.arg % 4)
      r.pages.flatten.length + (x.slotsUsed reg).length ≤ (x.regions.getD (reg - 1) (0, 0)).2 →
      runs (.ctxPark c) 5 (opPark a w) fun v id tok => tok = r.tokens ∧ (∃ y, tabFind v.x.parked id = some y ∧ y.pages = r.pages ∧ y.tokens = r.tokens)
        ∧ v.x.live = tabDel x.live a.ctx ∧ x.parkFirst ≤ id ∧ id < x.parkFirst + x.parkCount
        ∧ ∀ g, (x.page g).region = 0 → (v.x.page g).region ≠ 0 → g ∈ r.pages.flatten ∧ x.holders g = (1, 0) ∧ (x.page g).node = false)
    ∧ (CxNext s t c 6 k n j q a → tabFind x.parked a.ctx = some r → r.tenant = a.tenant → r.fault = false →
      let b := leAt a.area
      b 0 1 = 3 → b 0x24 4 = a.ctx → b 2 1 = a.tenant → (x.cls (b 1 1)).isSome = true → b 4 4 ≤ 2 ^ 20 → ∀ id, a.target x (wanted a.arg) = .ok id →
      (∀ e < 8, a.listed.1.flatten.length ≤ x.framesFree e) →
      runs (.ctxUnpark c) 6 (opUnpark a w) fun v i tok => i = id ∧ tok = b 4 4 ∧ v.x.parked = tabDel x.parked a.ctx
        ∧ ∃ y, tabFind v.x.live id = some y ∧ y.tokens = b 4 4 ∧ y.cls = b 1 1 ∧ y.tenant = a.tenant ∧ y.pages = a.listed.1)
    ∧ (CxNext s t c 7 k n j q a →
      (bitAt a.arg 0 = false → a.live x = .ok r →
        runs (.ctxClose c) 7 (opClose a w) fun v _ tok => tok = 0 ∧ v.x.live = tabDel x.live a.ctx ∧ v.x.parked = x.parked)
      ∧ (bitAt a.arg 0 = true → tabFind x.parked a.ctx = some r → r.tenant = a.tenant →
        runs (.ctxClose c) 7 (opClose a w) fun v _ tok => tok = 0 ∧ v.x.parked = tabDel x.parked a.ctx ∧ v.x.live = x.live))
    ∧ (CxNext s t c 8 k n j q a → a.live x = .ok r → 0 < a.d.at 0x2C 4 → a.d.at 0x28 4 + a.d.at 0x2C 4 ≤ r.tokens →
      a.d.at 0x2C 4 * max 1 (a.arg % 128) ≤ 65536 → a.d.at 0x12 2 < (x.clsOf r).layers → a.arg / 65536 = 0 → inside (256 * ceilDiv r.tokens 512) = true →
      runs (.ctxPlan c) 8 (opPlan a (out.getD 0) inside w) fun v id tok => tok = r.tokens ∧ id ≤ ceilDiv r.tokens 512
        ∧ ∃ y, tabFind v.x.live a.ctx = some y ∧ y.tokens = r.tokens ∧ y.pages = r.pages)



/-! ### Collectives and the fabric group (chapter 10) -/

/-- R296, R297, R307: the COLL at the head of a core's queue starts, while fewer than 256 run: it leaves the queue, its bucket is the
job's, and READY goes out for it. Where its plan is not of the group's size, or a port that the plan names is down, it fails. -/
def Obligations.CollectiveStart : Prop :=
  ∀ (s t : State) (c : Fin 4) (k : Nat) (j : Job) (q : QItem) (x : Coll) (bad : List Nat),
    ∀ r ∈ [(Instr.reduceScatter c, 0), (.allGather c, 1), (.allReduce c, 2)],
      s.ready c .coll 6 = some (k, j, q) → q.d.at 0x10 1 = r.2 → s.rde.colls.length < 256 → collOfItem k c j q s = some x →
      let own := (s.plan x.plan).part x.blocks (s.plan x.plan).dims
      let shard := 64 * (own.2 - own.1)
      touch j.part { reads := [if r.2 = 1 then (x.buf + 64 * own.1, shard) else (x.buf, 64 * x.blocks)]
                       ++ (if x.expAddr = 0 ∨ r.2 = 1 then [] else [(x.expAddr, 8 * ceilDiv x.blocks 8192)])
                     writes := if r.2 = 1 then [] else [(x.out, if r.2 = 2 then 64 * x.blocks else shard)] } s.elapse = .ok t bad →
      let u := (popHead c .coll t).onTrain k fun y => { y with collsDone := x.bucket :: y.collsDone }
      let p := u.plan x.plan
      let v := seedRde k u
      x.op = r.2 ∧ x.bucket = q.d.at 0x12 2 ∧ x.phase = 0 ∧ exec r.1 s = .next (s.keep (startColl x u))
      ∧ (p.dims = 0 ∨ 3 < p.dims ∨ p.total ≠ x.group ∨ u.planUp x.part p = false →
          exec r.1 s = .next (s.keep (collFault x { v with rde := { v.rde with colls := v.rde.colls ++ [x] } })))

/-- R308, R310, R312: at every hop the agreed scale is the larger of the two, and the counts add up. A finite sum goes out at a scale
not below either contribution's own, and no more than 8 above the agreed one unless it started there; a non-finite block goes out
with scale 0xFF and elements 0, with the agreed scale and the flags it came with. -/
def Obligations.ReductionHop : Prop :=
  ∀ (fmt b : Nat) (r l : Contribution) (draw : Nat → Nat → Nat),
    let x := hopBlock fmt b r l draw
    x.block = b ∧ x.count = r.count + l.count
    ∧ (∀ xs ys, r.vals = some xs → l.vals = some ys →
        x.info.agreed = max r.agreed l.agreed ∧ max (r.own.getD 0) (l.own.getD 0) ≤ x.info.scale
        ∧ x.info.scale ≤ max (max (r.own.getD 0) (l.own.getD 0)) (max r.agreed l.agreed + 8)
        ∧ (r.escalated = true ∨ l.escalated = true ∨ max (r.own.getD 0) (l.own.getD 0) < x.info.scale → x.info.escalated = true)
        ∧ (r.saturated = true ∨ l.saturated = true → x.info.saturated = true))
    ∧ (r.vals = none ∨ l.vals = none → x.info.scale = 255 ∧ x.info.agreed = r.agreed ∧ x.info.saturated = r.saturated
        ∧ x.info.escalated = r.escalated ∧ x.data = List.replicate (32 * elemBytes fmt) 0)

/-- R299 to R303: a REDUCE or GATHER frame of the phase at hand is taken block by block by its COLL, which goes on; one of a later
phase is held. A READY that is new to a COLL lets the REDUCE frames go that waited for it, a repeated one changes nothing, and one
without a COLL is held. READY_REPEAT sends each unanswered READY again. -/
def Obligations.CollectiveFrames : Prop :=
  ∀ (s : State) (e : Fin 16) (f : Frame), s.live = true →
    let here (x : Coll) (gather : Bool) : Bool := x.job == f.job && x.bucket == f.bucket && (if gather then x.op != 0 else x.op != 1)
    (∀ r ∈ [(Instr.reduce e f, 1, false), (.gather e f, 2, true)], s.stale f = false → ∀ x, s.rde.colls.find? (here · r.2.2) = some x →
      let u := landed e r.2.1 f s
      let t := if f.pace && (r.2.1 == 1 || r.2.1 == 2) && u.isMaster then u.bump F.rdePaceCntPace else u
      let p := s.plan x.plan
      let y := if r.2.2 then x else { x with readyTx := x.readyTx.filter fun d => d != (f.dim, f.prev) }
      f.dim < p.dims →
        (x.phaseOf p r.2.2 f.dim ≤ x.phase → x.opened = true →
          exec r.1 s = .next (s.keep (let z := takeBlocks p r.2.1 f e (y, t); runColl z.1 z.2)))
        ∧ (x.phase < x.phaseOf p r.2.2 f.dim → exec r.1 s = .next (s.keep (settleColl { y with held := y.held ++ [(r.2.1, f, e.val)] } t))))
    ∧ (s.stale f = false →
        (∀ x, s.rde.colls.find? (here · false) = some x →
          (x.readyRx.contains (f.dim, f.prev) = true → exec (.ready e f) s = .next (s.keep (landed e 3 f s)))
          ∧ (x.readyRx.contains (f.dim, f.prev) = false →
            let p := s.plan x.plan
            let y := { x with readyRx := (f.dim, f.prev) :: x.readyRx, waiting := x.waiting.filter fun w => (w.dim, w.prev) != (f.dim, f.prev) }
            exec (.ready e f) s = .next (s.keep (settleColl y ((x.waiting.filter fun w => (w.dim, w.prev) == (f.dim, f.prev)).foldl
              (fun t w => emitFrame y (p.mask w.dim w.prev) 1 w t) ((landed e 3 f s).putColl y))))))
        ∧ (s.rde.colls.find? (here · false) = none → s.rde.early = [] → (∀ k j, s.collJob f.job = some (k, j) → f.bucket ∉ j.train.collsDone) →
            ∃ t, exec (.ready e f) s = .next t ∧ t.rde = { (landed e 3 f s).rde with early := [{ type := 3, port := e, frame := f }] } ∧ t.regs = (landed e 3 f s).regs))
    ∧ exec .readyRepeat s = .next (s.keep (s.rde.colls.foldl (fun t x => x.readyTx.foldl (fun u d => sendReady x (u.plan x.plan) d u) t) s.elapse))

/-- R303: a REDUCE, GATHER or READY frame of no running job, of another attempt or of a bucket that the job does not list (the vote's is a
training job's own) is dropped and counted; it changes no buffer and no count. -/
def Obligations.StaleFrames : Prop :=
  ∀ (s : State) (e : Fin 16) (f : Frame), s.live = true →
    (∀ r ∈ [(Instr.reduce e f, 1), (.gather e f, 2), (.ready e f, 3)], s.stale f = true →
      let u := landed e r.2 f s
      ∃ t, exec r.1 s = .next t ∧ Counts F.rdeStaleStale u t ∧ t.rde = u.rde ∧ t.jobs = s.jobs ∧ t.tx = s.tx ∧ MemSame s t)
    ∧ (s.collJob f.job = none → s.stale f = true)
    ∧ (∀ k j, s.collJob f.job = some (k, j) → (s.stale f = false ↔ f.attempt = (if j.training then j.train.attempt else 0) % 2 ^ 32
        ∧ (f.bucket = 0xFFFF ∧ j.training = true ∨ ∃ b ∈ j.image.buckets, b.id = f.bucket)))

/-- R313, R315: a frame shows its sender alive; a peer silent for 64 µs is declared lost and counted; a LOST not seen before, and a
DEPART, take the position out of the live ones. RDE_MASTER shows the master that follows.
R314, R321, R326: an ABORT of a member is acted on and forwarded once. With the partition-reset bit, and at the end of the time that a
position may stay unfilled, it ends the job with COLL_FAULT, which the master reports; without it a training job of that attempt stops
and its attempt counts on. -/
def Obligations.LossAndAbort : Prop :=
  (∀ (s : State) (e : Fin 16) (f : Frame), s.live = true → s.jobs = [] → s.rde.groupStep = [] →
    let gone (pos : Nat) (u t : State) : Prop := t.rde.live = u.rde.live.filter (fun q => q != pos)
      ∧ (∀ p : Fin 16, (u.ep p).peerPos = some pos → t.fld (F.rdePeerAlive p) = 0)
      ∧ t.fld F.rdeMasterValid = boolNat t.masterPos.isSome ∧ ∀ m, t.masterPos = some m → t.fld F.rdeMasterMaster = m % 2 ^ F.rdeMasterMaster.width
    (∃ t, exec (.keepalive e f) s = .next t ∧ t.fld (F.rdePeerPeer e) = f.src % 2 ^ (F.rdePeerPeer e).width ∧ t.fld (F.rdePeerAlive e) = 1
        ∧ (s.isMember f.src = true → f.src ∈ t.rde.live) ∧ f.src ∉ t.rde.lostSeen ∧ MemSame s t)
    ∧ (∀ pos : Fin 4096, pos.val ≠ s.position → ((List.range 16).any fun p => (s.ep p).peerPos == some pos.val && s.on (F.rdePeerAlive p)) = true →
        ∃ t, exec (.peerLoss pos) s = .next t ∧ gone pos s t ∧ pos.val ∈ t.rde.lostSeen ∧ pos.val ∈ t.rde.declared
          ∧ t.fld F.rdeLostLost = (s.fld F.rdeLostLost + 1) % 2 ^ F.rdeLostLost.width)
    ∧ (let pos := f.blockFirst % 4096
       let u := heardFrom e f.src (landed e 6 f s)
       pos ≠ s.position →
        (pos ∉ u.rde.lostSeen → ∃ t, exec (.lost e f) s = .next t ∧ pos ∉ t.rde.live ∧ pos ∈ t.rde.lostSeen)
        ∧ (pos ∈ u.rde.lostSeen → exec (.lost e f) s = .next (s.keep u)))
    ∧ (f.src ≠ s.position → ∃ t, exec (.depart e f) s = .next t ∧ gone f.src (landed e 0xD f s) t ∧ t.fld F.rdeLostLost = s.fld F.rdeLostLost))
  ∧ (∀ (s : State) (e : Fin 16) (f : Frame) (k : Nat) (j : Job), s.live = true → s.collJob f.job = some (k, j) → s.job k = some j → j.ending = none →
    let ends (t : State) : Prop := ∃ i, t.job k = some i ∧ i.ending = some 0x14
    let u := landed e 4 f s
    (s.isMember f.src = true → s.rde.aborts.contains (f.job, f.attempt, f.blockFirst) = false →
      let v := floodFrame 4 { noFrame with job := f.job, attempt := f.attempt, blockFirst := f.blockFirst }
        { u with rde := { u.rde with aborts := (f.job, f.attempt, f.blockFirst) :: s.rde.aborts } }
      (bitAt f.blockFirst 12 = true → ∃ t, exec (.abort e f) s = .next t ∧ ends t
        ∧ t = s.keep (if u.isMaster then groupEvent 6 0xFFFF 0xFFFF f.job (tabGet 0 s.rde.groupStep f.job) f.attempt (abortJob k v) else abortJob k v))
      ∧ (bitAt f.blockFirst 12 = false → (if j.training then j.train.attempt else 0) % 2 ^ 32 = f.attempt → exec (.abort e f) s = .next (s.keep (abortAttempt k v)))
      ∧ (bitAt f.blockFirst 12 = false → (if j.training then j.train.attempt else 0) % 2 ^ 32 ≠ f.attempt → exec (.abort e f) s = .next (s.keep v)))
    ∧ (s.isMember f.src = false ∨ s.rde.aborts.contains (f.job, f.attempt, f.blockFirst) = true → exec (.abort e f) s = .next (s.keep u))
    ∧ (∀ job : Fin 4096, job.val = f.job → s.isMaster = true → s.rde.unfilled ≠ [] → s.rde.aborts = [] →
        ∃ t, exec (.reassignTimeout job) s = .next t ∧ ends t))

/-- R317, R318, R391: the barrier. The last ARRIVE that the master waits for, all at one step, releases the job with the largest
attempt, whether or not the master runs it; a RELEASE is adopted, but for the announcement of a master; phase 2 begins a while after it.
An ASSIGN for this device gives it the position, and one for another goes on. A RESYNC flips, reports COMMITTED and begins again, or
ends the job. -/
def Obligations.StepBarrier : Prop :=
  ∀ (s : State) (e : Fin 16) (f : Frame) (k : Nat) (j : Job), s.live = true →
    (s.isMember f.src = true → s.collJob f.job = some (k, j) → s.job k = some j → j.train.phase = .barrier →
      let b := s.barrier f.job
      let l := (f.src, f.attempt, f.step) :: b.arrived.filter fun x => x.1 != f.src
      let goes (a g : Nat) (t : State) : Prop := t.job k = some { j with train := { j.train with attempt := a, phase := .released } }
        ∧ tabFind t.rde.groupStep f.job = some g
      ((landed e 7 f s).masterPos = some s.position → (s.positions.all fun q => l.any fun x => x.1 == q) = true →
        (∀ q ∈ s.rde.unfilled, q = f.src) → (∀ x ∈ l, x.2.2 = f.step) →
        ∃ t, exec (.arrive e f) s = .next t ∧ goes (l.foldl (fun n x => max n x.2.1) 0) f.step t)
      ∧ (f.none = false → ∃ t, exec (.release e f) s = .next t ∧ goes f.attempt f.step t)
      ∧ (f.none = true → ∃ t, exec (.release e f) s = .next t ∧ t.job k = some j ∧ t.rde.groupStep = s.rde.groupStep)
      ∧ (f.dst = s.position → j.train.step + 1 = f.step → j.ending = none →
          let u := j.last.lacks.foldl (fun t x => freeStore x.1 x.2 t) (landed e 0xA f s)
          let v := reportStep k 0 (storeHistory k (writeTrain k (u.onJob k fun j =>
            { j with train := { j.last.flip with discards := 0, commits := j.last.commits + 1, attempt := j.train.attempt } })))
          ∀ i, v.job k = some i → i.ending = none →
            (i.endStatus = none → exec (.resync e f) s = .next (s.keep (beginAttempt k false v)))
            ∧ ∀ st, i.endStatus = some st →
              exec (.resync e f) s = .next (s.keep (v.onJob k fun j => { j with ending := some st, train := { j.train with phase := .done } }))))
    ∧ (∀ c : Fin 4, s.jobAt c = some (k, j) → j.train.phase = .released →
        exec (.phase2Start c) s = .next (s.keep (s.elapse.onTrain k fun t => { t with phase := .micro })))
    ∧ (let pos := f.blockFirst % 4096
       let spare := f.bucket % 4096
      s.isMember f.src = true →
      (s.position = spare → s.rde.assigned.contains (s.position, pos) = false →
        ∃ t, exec (.assign e f) s = .next t ∧ t.position = pos ∧ tabFind t.rde.groupStep f.job = some f.step ∧ pos ∈ t.rde.live
          ∧ (s.position, pos) ∈ t.rde.assigned ∧ t.jobs = s.jobs)
      ∧ (f.dst ≠ s.position → spare ≠ s.position → s.rde.assigned.contains (spare, s.position) = false →
        exec (.assign e f) s = .next (s.keep (sendAssign f (landed e 9 f s)))))

/-- R320 to R325: the redundant pair and the mirrors. A MIRROR frame is stored in the other half of the mirror area, and noted as received
once; a new step in a HEARTBEAT flips a shadow that is one behind; a primary that hears nothing runs on degraded, and what it had homed
at the shadow is a lost lender's; a shadow of a group of one takes over at once, another asks the master; a TAKEOVER that the master
refuses leaves the shadow degraded, one that it grants, having declared the primary lost itself, makes it take over. -/
def Obligations.PairAndMirrors : Prop :=
  ∀ (s : State) (e : Fin 16) (f : Frame) (k : Nat) (j : Job), s.live = true →
    let run := (f.blockFirst, f.blockFirst + f.n)
    let off := f.blockFirst * 64
    (s.pairPort e = false → s.collJob f.job = some (k, j) → s.job k = some j →
      exec (.mirror e f) s = .next (s.keep (writeNow j.part
        (s.pair (.rdeMirAreaLo j.part) (.rdeMirAreaHi j.part) + (if j.train.slotB then 0 else s.mirrorLen j.part) + off) (f.payload.take (64 * f.n))
        ((landed e 0xB f s).onTrain k fun t => { t with mirrorGot := if f.step = t.step % 2 ^ 32 then runAdd t.mirrorGot run else t.mirrorGot }))))
    ∧ (s.pairPort e = true → (s.jobs.find? fun x => x.2.training) = some (k, j) → s.fld F.rdeStatusPairState = 2 →
        let u := landed e 0xB f s
        let n := s.pairPlen j.part
        exec (.mirror e f) s = .next (s.keep (writeNow j.part
          (if off < n then (if j.train.slotB then j.train.paramA else j.train.paramB) + off else (if j.train.slotB then j.train.momA else j.train.momB) + (off - n))
          (f.payload.take (64 * f.n))
          { u with rde := { u.rde with pairOf := f.step, pairGot := runAdd (if f.step = s.rde.pairOf then s.rde.pairGot else []) run } })))
    ∧ (s.fld F.rdeStatusPairState = 2 → f.step ≠ s.rde.pairStep → s.standbyJob = some (k, j) → s.job k = some j →
        let u := landed e 0xC f s
        let v : State := { u with rde := { u.rde with pairStep := f.step } }
        ((j.train.step + 1) % 2 ^ 32 = f.step → exec (.heartbeat e f) s = .next (s.keep (flipWord k v)) ∧ ∃ i, (flipWord k v).job k = some i ∧ i.train = j.train.flip)
        ∧ ((j.train.step + 1) % 2 ^ 32 ≠ f.step → exec (.heartbeat e f) s = .next (s.keep v)))
    ∧ (s.fld F.rdeStatusPairState ≠ 0 → exec .heartbeatTimer s = .next (s.keep (sendHeartbeat s.elapse)))
    ∧ (s.fld F.rdeStatusPairState = 1 → ∃ t, exec .pairSilence s = .next t ∧ t = s.keep (shadowLost s.elapse) ∧ t.fld F.rdeStatusPairState = 3)
    ∧ (s.fld F.rdeStatusPairState = 2 → s.fld F.rdeGroupSize ≤ 1 → exec .pairSilence s = .next (s.keep (takeOver none s.elapse)))
    ∧ (s.fld F.rdeStatusPairState = 2 → 1 < s.fld F.rdeGroupSize → ∀ m p ps, s.masterPos = some m → s.portsTo m = p :: ps →
        exec .pairSilence s = .next (s.keep (sendColl p 0xE false { noFrame with src := s.fld F.glbPosPosCold, dst := m, count := 2 } s.elapse)))
    ∧ (s.isMember f.src = true → f.dst = s.fld F.glbPosPosCold → s.fld F.rdeStatusPairState = 2 →
        (f.count = 1 → exec (.takeover e f) s = .next (s.keep (takeOver (some f.step) (landed e 0xE f s))))
        ∧ (f.count = 0 → ∃ t, exec (.takeover e f) s = .next t ∧ t.fld F.rdeStatusPairState = 3 ∧ t.fld F.rdeStatusStandby = s.fld F.rdeStatusStandby ∧ t.jobs = s.jobs))
    ∧ (let x := landed e 0xE f s
       s.isMember f.src = true → f.count = 2 → x.isMaster = true →
        let lost := x.rde.declared.contains f.src
        let g := match s.jobs.find? fun x => x.2.training with | some (_, i) => i.train.step | none => (s.rde.groupStep.head?.map (·.2)).getD 0
        let u := sendColl e 0xE false { noFrame with src := s.position, dst := f.src, count := boolNat lost, step := g % 2 ^ 32 } x
        ∃ v, exec (.takeover e f) s = .next (s.keep (groupEvent (if lost then 4 else 5) f.src f.src 0xFFFF g 0 v))
          ∧ v = { u with rde := v.rde } ∧ v.rde.live = (if lost && !x.rde.live.contains f.src then f.src :: x.rde.live else x.rde.live))


/-! ### Efoladel ports (chapter 11) -/

/-- R329, R334, R335: a flit that does not check, or that leaves a gap, makes the port ask for the expected number; a repeat changes
nothing; one in sequence is accepted once, and a frame that it completes waits in the port. ACK takes flits out of the replay
buffer, NAK makes the port resend; the ACK of a WIDTH_ACK ends the change of width (R340). A check failure in step 5 of a training ends
the training (R337).
R313, R334 to R336, R454: flits not yet acknowledged are acknowledged in time; a NAK is repeated, and the eighth retrains the port;
a channel without a credit for 10 ms is counted and recorded; a port that is up sends KEEPALIVE, or FENCED where the device has halted. -/
def Obligations.LinkReception : Prop :=
  (∀ (s : State) (e : Fin 16) (r : FlitIn), s.up = true → s.linkOpen e = true →
    let x := s.ep e
    let bs := padTo 256 r.bytes
    let h := leAt bs 0 8
    let kind := bitsAt h 0 4
    let seq := bitsAt h 17 12
    let good : Prop := r.uncorr = false ∧ leAt bs 248 8 = crc64 (bs.take 248)
    let gets (P : State → Prop) : Prop := ∃ u, exec (.flitReceive e r) s = .next (s.keep (settleColls u)) ∧ P u
    let counted := (r.laneSyms.take 8).zipIdx.foldl (fun t y => t.bump (F.lnkLaneSerSer e y.2) y.1)
      (s.elapse.bump64 (.lnkFecCorrLo e) (.lnkFecCorrHi e) r.corrected)
    let same (u : State) : Prop := (u.ep e).rxSeq = x.rxSeq ∧ (u.ep e).inbox = x.inbox ∧ (u.ep e).linbox = x.linbox
    (¬ good → s.fld (F.lnkStatusState e) ≠ 1 ∨ x.exchanged = false → gets fun u => u.fld (F.lnkCrcFailCrc e) = (s.fld (F.lnkCrcFailCrc e) + 1) % 2 ^ (F.lnkCrcFailCrc e).width ∧ (u.ep e).nakWait = true ∧ same u)
    ∧ (¬ good → s.fld (F.lnkStatusState e) = 1 → x.exchanged = true → gets fun u => u.fld (F.lnkStatusState e) ≠ 1 ∧ (u.ep e).inbox = x.inbox)
    ∧ (good → x.widthAsked = false → bitsAt h 41 2 ≠ 2 → kind = 1 ∨ kind = 2 →
        (seq ≠ x.rxSeq → seqLe seq x.rxSeq = true → gets same)
        ∧ (seqLe seq x.rxSeq = false → gets fun u => (u.ep e).nakWait = true ∧ same u)
        ∧ (seq = x.rxSeq → kind = 2 → gets fun u => (u.ep e).rxSeq = (x.rxSeq + 1) % 4096 ∧ (u.ep e).nakWait = false ∧ (u.ep e).inbox = x.inbox)
        ∧ (seq = x.rxSeq → kind = 1 → bitAt h 7 = true → bitAt h 8 = true → bitAt h 54 = false → s.fld (F.lnkVcCredAlloc e (bitsAt h 4 3)) ≠ 0 →
          let p := (bs.drop 8).take (bitsAt h 9 8)
          let vc := bitsAt h 4 3
          let lending := vc == 2 || vc == 3
          let plain := (vc == 1 || vc == 4) && namesJob (collOf p).1 (collOf p).2 && s.guardedJob (collOf p).2.job
          gets fun u => (u.ep e).rxSeq = (x.rxSeq + 1) % 4096 ∧ (u.ep e).nakWait = false
            ∧ (plain = false → (u.ep e).inbox = x.inbox ++ [if lending then .lend (lendOf p).1 (lendOf p).2 else .coll (collOf p).1 (collOf p).2])
            ∧ (plain = true → (u.ep e).inbox = x.inbox)))
    ∧ (good → kind = 0 → seq = x.rxSeq → bitsAt h 46 8 = 0 →
        (x.widthAsked = false → bitsAt h 41 2 = 1 → gets fun u => u = pump e (ackUpTo e (bitsAt h 29 12) counted))
        ∧ (x.widthAsked = false → bitsAt h 41 2 = 2 → gets fun u => u = pump e (takeNak e (bitsAt h 29 12) r.retrainOk counted))
        ∧ (∀ g failed, bitsAt h 41 2 = 1 → x.widthAsked = true → x.widthTo = some (g, failed) → s.fld (F.lnkStatusState e) = 3 → x.linkq = [] →
            (∀ f ∈ x.replay, f.kind = 2 → leAt f.payload 0 1 = 4 → seqLe f.seq (bitsAt h 29 12) = true) →
            gets fun u => u = pump e (reStripe e g failed (ackUpTo e (bitsAt h 29 12) counted)))))
  ∧ (∀ (s : State) (e : Fin 16), s.up = true →
    let x := s.ep e
    (x.unacked ≠ 0 → exec (.ackTimer e) s = .next (s.keep (settleColls (sendIdle e s.elapse)))
      ∧ ∃ b, (sendIdle e s.elapse).tx = s.tx ++ [.flit e b])
    ∧ (∀ ok, x.nakWait = true →
        let u := s.elapse.setEp e { x with nakCount := x.nakCount + 1 }
        exec (.nakRepeat e ok) s = .next (s.keep (settleColls (if 8 ≤ x.nakCount + 1 then retrainPort e ok u else sendIdle e u))))
    ∧ (∀ vc : Fin 8, s.fld (F.lnkStatusState e) = 2 → s.fld (F.lnkVcCredHeld e vc) = 0 → natAt x.peerAlloc vc ≠ 0 → s.bank (0x20 + e) = [] →
        ∃ u, exec (.creditStall e vc) s = .next (s.keep (settleColls u)) ∧ u.eps = s.eps
          ∧ u.fld (F.lnkCredStallStall e) = (s.fld (F.lnkCredStallStall e) + 1) % 2 ^ (F.lnkCredStallStall e).width
          ∧ ∃ r, u.bank (0x20 + e) = [r] ∧ r.cause = 1 ∧ r.cls = 1)
    ∧ (s.fld (F.lnkStatusState e) = 2 → exec (.keepaliveTimer e) s
        = .next (s.keep (settleColls (if s.on F.errStatusHalted then sendLink e 0xA [] s.elapse else sendColl e 5 false { noFrame with src := s.position } s.elapse)))))

/-- R337, R339: a full training starts over on the widest group that passed: numbers and counts begin again, and EXCHANGE goes out.
The peer's EXCHANGE sets the width and grants credits; the 1,024th VERIFY brings the port up. A port with no group, and one that is
disabled, goes down, its keys destroyed; one that failed at cold start stays down (R453). -/
def Obligations.LinkTraining : Prop :=
  ∀ (s : State) (e : Fin 16) (lanes : BitVec 8) (m : LinkMsg), s.writable = true →
    let x := s.ep e
    let gets (i : Instr) (P : State → Prop) : Prop := ∃ u, exec i s = .next (s.keep (settleColls u)) ∧ P u
    (∀ i ∈ [Instr.retrain e lanes, .linkPartnerTraining e lanes], s.on (F.lnkCtrlDisable e) = false → x.outOfService = false → s.fld (F.lnkStatusState e) = 0 ∨ i = .retrain e lanes →
      (∀ g, widest lanes 3 = some g → gets i fun u => u.fld (F.lnkStatusState e) = 1 ∧ u.fld (F.lnkStatusWidth e) = g.2 ∧ u.lanes e = g.1 ∧ u.on (F.lnkStatusEnc e) = false
        ∧ (u.ep e).exchanged = false ∧ (u.ep e).verified = 0 ∧ (u.ep e).retiredLanes = 0 ∧ (u.ep e).keyTx = none ∧ (u.ep e).inbox = x.inbox
        ∧ u.fld (F.ldgLinkSentFlits e) = 0 ∧ u.fld (F.ldgLinkRecvFlits e) = 0 ∧ ∀ v : Fin 8, u.fld (F.lnkVcCredHeld e v) = 0)
      ∧ (widest lanes 3 = none → gets i fun u => u = portDown e s.elapse ∧ u.fld (F.lnkStatusState e) = 0))
    ∧ (∀ i ∈ [Instr.retrain e lanes, .linkPartnerTraining e lanes], x.outOfService = true → s.fld (F.lnkStatusState e) = 0 ∨ i = .retrain e lanes → gets i fun u => u = s.elapse)
    ∧ (s.fld (F.lnkStatusState e) = 1 → x.exchanged = false → ∀ g,
        widest (x.trainLanes &&& BitVec.ofNat 8 (leAt m.body 1 1)) (min (s.fld (F.lnkStatusWidth e)) (leAt m.body 0 1)) = some g →
        gets (.exchange e m) fun u => u.fld (F.lnkStatusWidth e) = g.2 ∧ u.lanes e = g.1 ∧ (u.ep e).exchanged = true ∧ (u.ep e).peerPos = some m.src
          ∧ (u.ep e).peerPort = m.port ∧ ∀ v : Fin 8, u.fld (F.lnkVcCredHeld e v) = leAt m.body (4 + 2 * v) 2 % 2 ^ (F.lnkVcCredHeld e v).width)
    ∧ (s.fld (F.lnkStatusState e) = 1 → x.exchanged = true →
        (x.verified + 1 < 1024 → gets (.verify e m) fun u => u.ep e = { x with linbox := x.linbox.erase (2, m), verified := x.verified + 1 } ∧ u.regs = s.regs)
        ∧ (1024 ≤ x.verified + 1 → gets (.verify e m) fun u => u.fld (F.lnkStatusState e) = 2))
    ∧ gets (.lnkDisable e) fun u => u.on (F.lnkCtrlDisable e) = true ∧ u.fld (F.lnkStatusState e) = 5 ∧ u.on (F.lnkStatusEnc e) = false
        ∧ (u.ep e).keyTx = none ∧ (u.ep e).keyRx = none ∧ u.fld (F.lnkStatusWidth e) = 0 ∧ (u.ep e).inbox = x.inbox

/-- R338, R340, R463: failed lanes leave service and are counted; the port narrows to a clean group inside the one in use, or goes
down. A WIDTH is answered and waits; a WIDTH_ACK, and 4 µs without one, put the end on the group named, with its sequence numbers
kept. A loopback reports the lanes that passed. -/
def Obligations.LinkWidth : Prop :=
  ∀ (s : State) (e : Fin 16) (m : LinkMsg) (lanes pass : BitVec 8), s.writable = true →
    let x := s.ep e
    let gets (i : Instr) (P : State → Prop) : Prop := ∃ u, exec i s = .next (s.keep (settleColls u)) ∧ P u
    let bad := lanes &&& s.lanes e
    let runs (w : BitVec 8 × Nat) (failed : BitVec 8) (u : State) : Prop := u.fld (F.lnkStatusState e) = 2 ∧ u.lanes e = w.1 ∧ u.fld (F.lnkStatusWidth e) = w.2
      ∧ (u.ep e).rxSeq = x.rxSeq ∧ (u.ep e).retiredLanes = x.retiredLanes ||| failed ∧ (u.ep e).widthTo = none
    (s.fld (F.lnkStatusState e) = 2 ∨ s.fld (F.lnkStatusState e) = 3 →
      (bad ≠ 0 →
        (∀ g, narrower (s.lanes e) bad (s.fld (F.lnkStatusWidth e)) = some g → gets (.laneFailure e lanes) fun u => u.fld (F.lnkStatusState e) = 3
          ∧ (u.ep e).widthTo = some (g.1, bad) ∧ (u.ep e).retiredLanes = x.retiredLanes ||| bad ∧ u.lanes e = s.lanes e
          ∧ u.fld (F.lnkRetiredRetired e) = (s.fld (F.lnkRetiredRetired e) + bitCount (bad &&& ~~~x.retiredLanes)) % 2 ^ (F.lnkRetiredRetired e).width)
        ∧ (narrower (s.lanes e) bad (s.fld (F.lnkStatusWidth e)) = none →
          gets (.laneFailure e lanes) fun u => u = portDown e (retireLanes e bad s.elapse)))
      ∧ gets (.width e m) fun u => u.fld (F.lnkStatusState e) = 3 ∧ (u.ep e).widthTo = some (BitVec.ofNat 8 (leAt m.body 0 1), BitVec.ofNat 8 (leAt m.body 1 1))
        ∧ (u.ep e).widthAsked = true ∧ u.lanes e = s.lanes e ∧ (u.ep e).rxSeq = x.rxSeq ∧ (u.ep e).retiredLanes = x.retiredLanes)
    ∧ (∀ g failed, s.fld (F.lnkStatusState e) = 3 → x.widthTo = some (g, failed) → ∀ i ∈ [Instr.widthAck e m, .widthAckTimeout e],
        (∀ w, widest g 3 = some w → gets i (runs w failed)) ∧ (widest g 3 = none → gets i fun u => u.fld (F.lnkStatusState e) ≠ 3))
    ∧ (s.fld (F.lnkStatusState e) = 2 → lanes &&& s.lanes e = lanes → lanes ≠ 0 → (narrower (s.lanes e) lanes (s.fld (F.lnkStatusWidth e))).isSome = true →
        gets (.laneLoopback e lanes pass) fun u => u.fld (F.lnkLaneTestPassed e) = (lanes &&& pass).toNat ∧ u.fld (F.lnkLaneTestBusy e) = 0
          ∧ (lanes &&& ~~~pass = 0 → u.lanes e = s.lanes e ∧ (u.ep e).retiredLanes = x.retiredLanes)
          ∧ (u.ep e).retiredLanes = x.retiredLanes ||| (lanes &&& ~~~pass))

/-- R340, R418: the five steps of the key exchange of a port whose ends both permit encryption. The end with the higher position
encapsulates; each end keeps the peer's certificate, and installs keys only once certificate and signature verify; encryption is
active once both ends say so, and a failure is recorded. FENCED declares its sender lost. -/
def Obligations.KeyExchange : Prop :=
  ∀ (s : State) (e : Fin 16) (m : LinkMsg), s.up = true →
    let gets (i : Instr) (P : State → Prop) : Prop := ∃ u, exec i s = .next (s.keep (settleColls u)) ∧ P u
    let x := s.ep e
    (s.encBoth e = true →
      (let w := linkLanded e 5 m s
       let k := Config.kemEncap m.body s.elapse.clock.freeIdx
       gets (.keyxEk e m) fun u => u = sendCert e (sendLink e 6 k.1 (w.spend.setEp e { w.ep e with keyx := { x.keyx with ek := m.body, ct := k.1, shared := k.2 } })))
      ∧ (let w := linkLanded e 6 m s
         gets (.keyxCt e m) fun u => u = sendCert e (w.setEp e { w.ep e with keyx := { x.keyx with ct := m.body, shared := Config.kemDecap x.keyx.dk m.body } }))
      ∧ (gets (.keyxCert e m) fun u => (u.ep e).keyx = { x.keyx with cert := m.body } ∧ (u.ep e).linbox = x.linbox.erase (7, m) ∧ u.regs = s.regs)
      ∧ (let ok := s.peerOk x.keyx.cert && Config.dsaVerify ((x.keyx.cert.drop 0x18).take 1312) [] (s.transcript e) m.body
         let k := sha3 (x.keyx.shared ++ s.transcript e)
         (ok = true → gets (.keyxSig e m) fun u => (u.ep e).keyTx = some (linkKey k s.position e) ∧ (u.ep e).keyRx = some (linkKey k (x.peerPos.getD 0) x.peerPort)
           ∧ (x.keyx.done = true → u.on (F.lnkStatusEnc e) = true) ∧ (x.keyx.done = false → u.on (F.lnkStatusEnc e) = s.on (F.lnkStatusEnc e)))
         ∧ (ok = false → s.bank (0x20 + e) = [] → gets (.keyxSig e m) fun u => (u.ep e).keyTx = x.keyTx ∧ u.on (F.lnkStatusEnc e) = s.on (F.lnkStatusEnc e)
           ∧ ∃ r, u.bank (0x20 + e) = [r] ∧ r.cause = 3 ∧ r.cls = 1))
      ∧ (leAt m.body 0 1 ≠ 0 → gets (.keyxDone e m) fun u => (u.ep e).keyTx = none ∧ (u.ep e).keyRx = none ∧ u.on (F.lnkStatusEnc e) = s.on (F.lnkStatusEnc e))
      ∧ (leAt m.body 0 1 = 0 → x.keyTx.isSome = true → gets (.keyxDone e m) fun u => u.on (F.lnkStatusEnc e) = true)
      ∧ (leAt m.body 0 1 = 0 → x.keyTx = none → gets (.keyxDone e m) fun u => (u.ep e).keyx.done = true ∧ u.on (F.lnkStatusEnc e) = s.on (F.lnkStatusEnc e)))
    ∧ (gets (.fenced e m) fun u => u = peerLoss m.src (linkLanded e 0xA m s))


/-! ### Lending (R258 to R264, R343, R344) -/

/-- R258, R259, R261: the lender. A page that the pool has room for is kept and answered with its handle, and the count of lent
granules goes up by them; otherwise the answer is a refusal. FETCH is answered with the stripe; FREE and RETURNED give granules back,
and at the deadline the lender takes the range. OFFER goes to every peer. -/
def Obligations.LenderAnswers : Prop :=
  ∀ (s u : State) (e : Fin 16) (m : LendMsg),
    (LendNext s u e 2 m → LendWhole u m →
      let v := u.noParts m
      let spot := (List.range 4).findSome? fun p => (v.poolPlace p m.arg).map fun g => (p, g)
      let known := u.borrowers.contains m.src || decide (u.borrowers.length < 16)
      (∀ p g, spot = some (p, g) → known = true → 1 ≤ m.arg → m.arg ≤ 16 → ∃ t, exec (.place e m) s = .next t ∧ MemSame s t
        ∧ tabFind t.lentPages (handleOf p g) = some { borrower := m.src, granules := m.arg, packed := m.packed, bytes := padTo (m.arg * 4096) m.payload }
        ∧ t.fld F.spnLentOutLent = (s.fld F.spnLentOutLent + m.arg) % 2 ^ 32)
      ∧ (spot = none ∨ known = false ∨ m.arg = 0 ∨ 16 < m.arg → exec (.place e m) s = .next (s.keep (sendLend m.src 3 false (lendMsg 0 0) v))))
    ∧ (LendNext s u e 2 m → m.lastPart = false → (u.lendPair m.src).parts = [] →
        ∃ t, exec (.place e m) s = .next t ∧ (t.lendPair m.src).parts = [(m.part, false, m.payload)] ∧ t.lentPages = s.lentPages)
    ∧ (∀ x, tabFind s.lentPages m.handle = some x → x.borrower = m.src →
        (LendNext s u e 4 m → exec (.fetch e m) s = .next (s.keep (sendLend m.src 5 (s.guarded (m.handle / 2 ^ 30))
          { lendMsg m.handle m.arg with packed := x.packed, payload := x.stripe (m.arg % 32) } u)))
        ∧ (LendNext s u e 6 m → ∃ t, exec (.free e m) s = .next t ∧ t.lentPages = tabDel s.lentPages m.handle
          ∧ t.fld F.spnLentOutLent = unsignedOf 32 ((s.fld F.spnLentOutLent : Int) - x.granules)))
    ∧ (∀ r, (s.reclaims.find? fun r => r.borrower == m.src && r.first == m.handle && r.count == m.arg) = some r → LendNext s u e 8 m →
        ∃ t, exec (.returned e m) s = .next t ∧ r ∉ t.reclaims ∧ ∀ x ∈ t.lentPages, x ∈ s.lentPages ∧ ¬(x.2.borrower = m.src ∧ overlaps x r.first r.count = true))
    ∧ (∀ (peer : Fin 4096) (r : ReclaimOut), s.live = true → (s.reclaims.find? fun r => r.borrower == peer.val) = some r →
        ∃ t, exec (.reclaimDeadline peer) s = .next t ∧ r ∉ t.reclaims ∧ ∀ x ∈ t.lentPages, x ∈ s.lentPages ∧ ¬(x.2.borrower = peer.val ∧ overlaps x r.first r.count = true))
    ∧ (let v := (List.range 4).foldl (fun t p => if t.partValid p then reclaimBlocks p (reclaimPool p t) else t) s.elapse
       s.live = true → ((List.range 4).any fun p => v.partValid p && v.on (F.spnLendLendEn p)) = true →
        exec .offerTimer s = .next (s.keep (v.lendPeers.foldl (fun t q => sendOffer q t) v)))

/-- R250, R252, R259 to R264: the borrower. A page that the lender places has its home there at once, and one that it refuses keeps its
home. DATA answers the fill that waits for it: the stripe is what the payload decodes to, and one that fails its check is poisoned,
with a record. A range under reclaim is vacated, and what is still held when TAKEN comes is lost. -/
def Obligations.BorrowerTakesAnswers : Prop :=
  ∀ (s u : State) (e : Fin 16) (m : LendMsg),
    let named := (List.range 8).any fun n => s.on (F.spnLendPeerValid n) && s.fld (F.spnLendPeerPos n) == m.src
    (LendNext s u e 1 m → ∃ t, exec (.offer e m) s = .next t ∧ t.regs = u.regs ∧ MemSame s t
      ∧ (t.lendPair m.src).offered = if named then m.arg else (s.lendPair m.src).offered)
    ∧ (∀ pg lay rest p, LendNext s u e 3 m → (s.lendPair m.src).placing = (pg, lay) :: rest → s.partOfAddr (pg * 65536) = some p → (s.page pg).takes = true →
        let x := s.page pg
        (m.handle ≠ 0 → x.home = .t2 ∨ x.moveTo = some .t2 ∧ x.moveHit = false →
          ∃ t, exec (.placed e m) s = .next t ∧ MemSame s t ∧ (t.lendPair m.src).placing = rest
            ∧ let y := t.page pg; y.home = .t2 ∧ y.lender = m.src ∧ y.location = m.handle ∧ y.moving = false ∧ y.form = lay ∧ y.cls = x.cls ∧ y.cached = x.cached)
        ∧ (m.handle ≠ 0 → x.home ≠ .t2 → x.moveTo ≠ some .t2 ∨ x.moveHit = true →
          ∃ t, exec (.placed e m) s = .next t ∧ MemSame s t ∧ (t.page pg).home = x.home ∧ (t.page pg).location = x.location)
        ∧ (m.handle = 0 → x.home ≠ .t2 ∨ x.location ≠ 0 → ∃ t, exec (.placed e m) s = .next t ∧ MemSame s t ∧ t.page pg = { x with moving := false }))
    ∧ (∀ pg x p, LendNext s u e 5 m → (s.pages.find? fun y => y.2.home == .t2 && y.2.lender == m.src && y.2.location == m.handle) = some (pg, x) →
        let k := m.arg % 32
        let a := pg * 65536 + k * 2048
        s.partOfAddr (pg * 65536) = some p → (s.fills.any fun f => f.page == pg && f.stripe == k) = true →
        ∃ t, exec (.data e m) s = .next t ∧ (∀ f ∈ t.fills, f.page = pg → f.stripe = k → f.answered = true)
          ∧ (∀ bs, u.received p pg k m.payload = some bs → t.regs = u.regs ∧ t.mem = if bs = u.bytes a 2048 then u.mem else memPutAll u.mem a bs)
          ∧ (u.received p pg k m.payload = none → (storedForm u p pg).1 = true → s.bank 6 = [] →
              MemSame s t ∧ t.poisoned a 2048 = true ∧ ∃ r, t.bank 6 = [r] ∧ r.cause = 3 ∧ r.unit = p))
    ∧ (LendNext s u e 7 m → exec (.reclaim e m) s = .next (s.keep (takeReclaim m (reclaimSlots m u)))
        ∧ ∀ pg ∈ (reclaimSlots m u).heldIn m.src m.handle m.arg, ((takeReclaim m (reclaimSlots m u)).page pg).home ≠ .t2)
    ∧ (LendNext s u e 9 m → LendWhole u m → ∃ t, exec (.taken e m) s = .next t ∧ ∀ pg ∈ s.heldIn m.src m.handle m.arg, (t.page pg).home = .lost)


/-! ### The span (chapter 8) -/

/-- R254, Table 8.10: a mapping command over one page of its partition ends with its effect and reports one page done, or fails with
its status and changes no page. A PREFETCH of a page that needs fills from a lender or a host runs on, busy; while one runs, another
command is dropped with status BUSY. -/
def Obligations.MappingCommands : Prop :=
  ∀ (s : State) (p cls : Fin 4), s.writable = true → s.cmdCount p = 1 →
    let pg := s.cmdPage p
    let x := s.page pg
    let shows (t : State) (status done busy : Nat) : Prop := t.fld (F.spnCmdStatusStatus p) = status ∧ t.fld (F.spnCmdStatusDone p) = done ∧ t.fld (F.spnCmdStatusBusy p) = busy
    let ends (t : State) (status done : Nat) : Prop := shows t status done 0
    let all := [(Instr.map p cls, 0), (.unmap p, 7), (.setClass p cls, 7), (.prefetch p, 7), (.query p, 7)]
    (s.spnBusy p = true → ∀ r ∈ all, ∃ t, exec r.1 s = .next t ∧ t.pages = s.pages ∧ shows t 1 (s.fld (F.spnCmdStatusDone p)) 1)
    ∧ (s.spnBusy p = false → inRange (s.range p) (pg * 65536) 65536 = false → ∀ r ∈ all, ∃ t, exec r.1 s = .next t ∧ ends t 2 0 ∧ t.pages = s.pages)
    ∧ (s.spnBusy p = false → inRange (s.range p) (pg * 65536) 65536 = true →
      (x.home = .unmapped →
        (∀ r ∈ all, r.2 = 7 → ∃ t, exec r.1 s = .next t ∧ ends t 7 0 ∧ t.pages = s.pages)
        ∧ ((s.tablesUsed p).contains (pg / 4096) = true ∨ (s.tablesUsed p).length < s.tableMax p →
          (∀ v, mapPage p pg cls s.elapse = some v → ∃ t, exec (.map p cls) s = .next t ∧ ends t 0 1 ∧ t.page pg = v.page pg
            ∧ ∀ a, pg * 65536 ≤ a → a < (pg + 1) * 65536 → memGet t.mem a = 0)
          ∧ (mapPage p pg cls s.elapse = none → ∃ t, exec (.map p cls) s = .next t ∧ ends t 3 0 ∧ t.pages = s.pages))
        ∧ ((s.tablesUsed p).contains (pg / 4096) = false → s.tableMax p ≤ (s.tablesUsed p).length →
          ∃ t, exec (.map p cls) s = .next t ∧ ends t 4 0 ∧ t.pages = s.pages))
      ∧ (x.home ≠ .unmapped →
        (∃ t, exec (.map p cls) s = .next t ∧ ends t 6 0 ∧ t.pages = s.pages)
        ∧ (∃ t, exec (.unmap p) s = .next t ∧ ends t 0 1 ∧ (t.page pg).home = .unmapped ∧ (∀ q, q ≠ pg → t.page q = s.page q) ∧ MemSame s t)
        ∧ (∃ t, exec (.setClass p cls) s = .next t ∧ ends t 0 1 ∧ (t.page pg).cls = cls ∧ (t.page pg).home = x.home ∧ (t.page pg).location = x.location)
        ∧ (∃ t, exec (.prefetch p) s = .next t
            ∧ (x.home = .t0 ∨ x.home = .lost → ends t 0 1 ∧ t.pages = s.pages)
            ∧ (x.home = .t1 → (slotFor p pg s.elapse).isSome = true → ends t 0 1 ∧ (t.page pg).cached = true ∧ (t.page pg).valid = 0xFFFFFFFF)
            ∧ (∀ v, x.home = .t2 ∨ x.home = .t3 → prefetchPage p pg s.elapse = (v, false) → shows t 0 0 1 ∧ t.pages = v.pages))
        ∧ (∃ t, exec (.query p) s = .next t ∧ ends t 0 1 ∧ t.pages = s.pages ∧ MemSame s t
            ∧ ∀ n : Fin 4, t.reg (.spnXlate p n) = BitVec.ofNat 32 (x.entry / 2 ^ (32 * n.val)))))

/-- R243, R245, R247, R255: how pages move. A move that ends changes the page's home at one instant; an uncorrectable source, or a
tier without room, leaves the page where it was. Demotion goes on until free T1 will reach the high watermark, and reports t1_short where
it stops short of it because a page found no room. A fill that has its data makes its stripe valid. The nearest wanted slab enters the
window. Each of these may let a waiting PREFETCH go on (R254).
R113: STASH_SPILL of a stash over its quota leaves no more than the quota in T0, and moves no page and no byte. -/
def Obligations.PageAndStashMoves : Prop :=
  (∀ (s : State) (p : Fin 4) (pg : Nat), s.live = true →
    (∀ dest, s.partOfAddr (pg * 65536) = some p.val → (s.page pg).moveTo = some dest → (s.page pg).takes = true →
      let r := readSource pg s.elapse
      let gives (P : State → Prop) : Prop := ∃ w, exec (.pageMoveComplete pg) s = .next (s.keep (prefetchGo p (finishRetires w))) ∧ P w
      (s.leaving p pg = true → gives fun w => w = leaveBlock p pg s.elapse)
      ∧ (s.leaving p pg = false → s.stillMoves p (s.page pg) dest = true →
        (r.2 = true → gives fun w => (w.page pg).moving = false ∧ (w.page pg).moveTo = none ∧ (w.page pg).home = (s.page pg).home
          ∧ (w.page pg).location = (s.page pg).location ∧ w.mem = r.1.mem)
        ∧ (r.2 = false → dest ≠ .t2 →
          (∀ v, newHome p pg dest r.1 = some v → gives fun w => w = v ∧ (w.page pg).home = dest ∧ (w.page pg).moving = false ∧ w.mem = r.1.mem)
          ∧ (newHome p pg dest r.1 = none → gives fun w => w.page pg = { s.page pg with moving := false, moveHit := false } ∧ w.mem = r.1.mem))))
    ∧ (s.partValid p = true → s.t1Free p < s.lowWater p →
        let w := reclaimPool p s.elapse
        let r := demoteLoop p (w.partPages p).length [] false w
        ∃ v, exec (.demotion p) s = .next (s.keep (prefetchGo p v)) ∧ v.pages = r.1.pages ∧ (v.fld F.spnStatusT1Short).testBit p = r.2
          ∧ (r.2 = true → r.1.t1Coming p < r.1.highWater p))
    ∧ (∀ (stripe : Fin 32) (f : Fill), s.partOfAddr (pg * 65536) = some p.val → (s.fills.find? fun f => f.page == pg && f.stripe == stripe.val) = some f →
        f.answered = true → f.install = true → (s.page pg).cached = true → ¬((s.page pg).home = .t3 ∧ s.t3Down p = true) →
        ∃ w, exec (.stripeFill pg stripe) s = .next (s.keep (prefetchGo p w)) ∧ (w.page pg).valid.toNat.testBit stripe = true ∧ MemSame s w
          ∧ w.fills = s.fills.filter fun g => !(g.page == pg && g.stripe == stripe.val))
    ∧ (let x := s.stream p
       let u := ((s.partPages p).filter fun y => y.2.window && (match x.slabOf (y.1 * 65536) with | some k => x.behind k | none => true)).foldl
         (fun t y => releaseWindowPage p y.1 t) s.elapse
       x.enabled = true → ∀ k, (x.wanted.find? fun k => (x.pages k).any (u.windowLacks p)) = some k →
       ((u.partPages p).filter fun y => y.2.window).length + (x.pages k).length ≤ u.windowSlots p →
       ∃ w, exec (.slabFill p) s = .next (s.keep (prefetchGo p w)) ∧ ∀ q ∈ x.pages k, (u.page q).takes = true → (u.page q).home ≠ .t0 → (w.page q).window = true))
  ∧ (∀ (s : State) (p : Fin 4), s.live = true → s.stashQuotaMib p * mib < (s.stash p).t0Bytes →
    ∃ t, exec (.stashSpill p) s = .next t ∧ (t.stash p).t0Bytes ≤ s.stashQuotaMib p * mib
      ∧ (t.stash p).layers.map (·.layer) = (s.stash p).layers.map (·.layer)
      ∧ t.pages = s.pages ∧ t.jobs = s.jobs ∧ MemSame s t ∧ ∀ i, i ≠ p.val → t.stash i = s.stash i)

/-! ### Memory channel groups (chapter 9) -/

/-- R271, R272, R274, R283, R372, R381: the background work of a memory channel group that is up. The next marked check group is
initialised; a refresh is noted; a hotter reading takes the group to its step at once, a cooler one a step down after 8 readings in a
row; the oscillators and the power-down are noted; a scrub goes on to the next sector, and poisons what it cannot correct; a
reinitialisation ends with ready. -/
def Obligations.MemoryChannels : Prop :=
  ∀ (s : State) (g : Fin 24), s.mcgUp g = true →
    let m := s.mcg g
    let only (t : State) : Prop := t = { s with mcgs := t.mcgs, clock := t.clock } ∧ ∀ i, i ≠ g.val → t.mcg i = s.mcg i
    (∀ k, m.nextMarked = some k → ∃ t, exec (.checkGroupInit g) s = .next t ∧ (t.mcg g).marked k = false ∧ (t.mcg g).initNext = k + 1
      ∧ (∀ i, i ≠ k → k < i → (t.mcg g).marked i = m.marked i) ∧ t.fld (F.mcgStatusInitBusy g) = boolNat (t.mcg g).nextMarked.isSome ∧ MemSame s t)
    ∧ (∀ (rank : Fin 2) bank, rank.val < s.mcgRanks g → ∃ t, exec (.refresh g rank bank) s = .next t ∧ only t
      ∧ tabFind (t.mcg g).refreshed (rank * 16 + bank % 16) = some s.elapse.clock.fclk)
    ∧ (∀ rs, let want := (rs.take 4).foldl (fun n (r : RateReport) => max n (min 4 r.step)) 0
        let step := s.fld (F.mcgStatusStep g)
        ∃ t, exec (.refreshRateRead g rs) s = .next t ∧ MemSame s t
          ∧ (step < want → t.fld (F.mcgStatusStep g) = want ∧ t.fld (F.mcgThermLimit g) = stepLimit want ∧ (t.mcg g).cooler = 0)
          ∧ (want = step → t.fld (F.mcgStatusStep g) = step ∧ (t.mcg g).cooler = 0)
          ∧ (want < step → m.cooler + 1 < 8 → t.fld (F.mcgStatusStep g) = step ∧ (t.mcg g).cooler = m.cooler + 1)
          ∧ (want < step → 8 ≤ m.cooler + 1 → t.fld (F.mcgStatusStep g) = step - 1 ∧ t.fld (F.mcgThermLimit g) = stepLimit (step - 1) ∧ (t.mcg g).cooler = 0)
          ∧ (want = 4 → step < 4 → s.bank (0x40 + g) = [] → ∃ r, t.bank (0x40 + g) = [r] ∧ r.cause = 8 ∧ r.cls = 1))
    ∧ (∀ drift, ∃ t, exec (.oscillatorCheck g drift) s = .next t ∧ only t ∧ t.mcg g = { m with oscillator := drift.take 4 })
    ∧ (m.selfRefresh = false → ∃ t, exec (.rankPowerDown g) s = .next t ∧ only t ∧ t.mcg g = { m with powerDown := true })
    ∧ (m.reinit = true → ∃ t, exec (.mcgReinit g) s = .next t ∧ t.mcg g = { m with reinit := false } ∧ t.fld (F.mcgStatusReady g) = 1 ∧ MemSame s t)
    ∧ (∀ found, s.on (F.mcgScrubCtrlEnable g) = true → m.selfRefresh = false →
        let last := decide (s.packageSectors g ≤ m.scrubPos + 1)
        let r := (s.sectorAt g m.scrubPos).1
        let col := (s.sectorAt g m.scrubPos).2
        let on := (found.strikes.foldl (fun v k => strike k v) s.elapse).setMcg g { m with scrubPos := if last then 0 else m.scrubPos + 1, powerDown := false }
        let u := if last then on.bump (F.mcgScrubPassPasses g) else on
        let d := decodeSyn (synOf found.errs)
        ∃ t, exec (.patrolScrub g found) s = .next t ∧ (t.mcg g).scrubPos = (if last then 0 else m.scrubPos + 1)
          ∧ (s.t1Marked g r = true → t = s.keep u)
          ∧ (s.t1Marked g r = false →
            (∀ p pg i, s.heldAt g r col = some (p, pg, i) →
              t = s.keep (meetT1 p pg i (if found.errs.isEmpty then u else strike (true, pg * 1024 + i, found.errs) u)))
            ∧ (s.heldAt g r col = none → MemSame s t ∧ t.poison = s.poison
              ∧ (d = .clean ∨ d = .poisoned → t = s.keep u)
              ∧ (∀ i e, d = .corrected i e → t.fld (F.mcgCeCntCe g r.ch) = (s.fld (F.mcgCeCntCe g r.ch) + 1) % 2 ^ 32)
              ∧ (d = .misdirected ∨ d = .uncorrectable →
                t.fld (F.mcgUeCntUe g) = (s.fld (F.mcgUeCntUe g) + 1) % 2 ^ 32 ∧ r ∈ (t.mcg g).failed))))

/-- R287 to R291, R463: a failed row with a spare free is redirected to it, its data corrected on the way; one without, or a remapped row
that fails, is retired: its blocks are withdrawn at once, and listed and counted once they hold nothing. A package whose last spare is
gone is degraded. A channel test is refused without a spare or while one runs; one that meets no bad row changes no row table, and a
stop ends it. -/
def Obligations.FailedRows : Prop :=
  ∀ (s : State) (g : Fin 24), s.mcgUp g = true →
    let m := s.mcg g
    (∀ r k, m.toRemap = some (r, k) → ∃ t, exec (.rowRemap g) s = .next t ∧ Fetched s t
      ∧ (t.mcg g).remaps = m.remaps ++ [{ row := r, spare := k }] ∧ r ∉ (t.mcg g).failed
      ∧ t.fld (F.mcgSparesFree g) = (256 - (m.remaps.length + 1)) % 2 ^ (F.mcgSparesFree g).width
      ∧ (256 ≤ m.remaps.length + 1 → t.on (F.mcgStatusDegraded g) = true)
      ∧ (s.sound → s.bank (0x40 + g) = [] → m.remaps.length + 1 < 256 → ∃ x, t.bank (0x40 + g) = [x] ∧ x.cause = 4 ∧ x.cls = 0))
    ∧ (∀ r p, m.toRetire = some r → s.partOfMcg g = some p →
      let bs := s.rowBlocks p g r
      ∃ t, exec (.rowRetire g) s = .next t ∧ (t.mcg g).remaps = m.remaps ∧ (∀ b ∈ m.retired, b ∈ (t.mcg g).retired)
      ∧ (∀ b ∈ bs, b ∈ (t.mcg g).retired ∨ ∃ x ∈ (t.mcg g).retiring, b ∈ x.2)
      ∧ ((∀ b ∈ bs, s.pagesIn p b = [] ∧ s.lentIn p b = []) → (∀ b ∈ bs, b ∈ (t.mcg g).retired) ∧ t.pages = s.pages ∧ MemSame s t)
      ∧ ((t.mcg g).retired ≠ m.retired → t.reg (.mcgRetired g) = BitVec.ofNat 32 (t.mcg g).retired.length)
      ∧ (m.remapped r = false → 256 ≤ m.remaps.length → t.on (F.mcgStatusDegraded g) = true))
    ∧ (s.on F.errStatusHalted = false →
      (∀ (ch : Fin 4) (run : TestRun), s.on (F.mcgTestBusy g) = true → ∃ t, exec (.channelTest g ch run) s = .next t
        ∧ t.fld (F.mcgTestStatus g) = 2 ∧ OnlyRegs [.mcgTest g] s t)
      ∧ (∀ (ch : Fin 4) (run : TestRun), s.on (F.mcgTestBusy g) = false → m.freeSpare ch = none → ∃ t, exec (.channelTest g ch run) s = .next t
        ∧ t.fld (F.mcgTestStatus g) = 1 ∧ OnlyRegs [.mcgTest g] s t)
      ∧ (∀ (ch : Fin 4) (run : TestRun), s.on (F.mcgTestBusy g) = false → (m.freeSpare ch).isSome = true → run.bad = [] → s.on (F.mcgConfigPprFitted g) = false →
        ∃ t, exec (.channelTest g ch run) s = .next t ∧ Fetched s t ∧ t.fld (F.mcgTestStatus g) = 0 ∧ t.on (F.mcgTestBusy g) = run.stillAt.isSome
          ∧ (run.stillAt = none → t.reg (.mcgTestRow g) = BitVec.ofNat 32 (s.channelRows g))
          ∧ (t.mcg g).remaps = m.remaps ∧ (t.mcg g).retired = m.retired ∧ (s.sound → (t.mcg g).failed = m.failed))
      ∧ (s.on (F.mcgTestBusy g) = true → ∃ t, exec (.channelTestStop g) s = .next t ∧ t.fld (F.mcgTestStatus g) = 3 ∧ t.on (F.mcgTestBusy g) = false
        ∧ t.mcg g = { m with test := none } ∧ MemSame s t))


/-! ### Power (chapter 12) -/

/-- R386 to R390, R396: the smallest limit that applies is in force. A droop trip and the brake limit every engine, and their release
starts a ramp from the rate they held; a ramp rises by 8 and ends at 64. The cap controller lowers its limit by 4 above the cap and
raises it by 1 below 98 % of it; the thermal limit falls by 4 at each sample at or above thr_c, and rises by 1 below it. -/
def Obligations.IssueLimits : Prop :=
  ∀ (s : State), s.up = true →
    let n := s.fld F.pwrIssueCapN
    let shows (t : State) : Prop := t.fld F.pwrIssueRate = t.deviceLimit % 2 ^ F.pwrIssueRate.width
    (∀ c : Fin 4, ∃ t, exec (.droopTrip c) s = .next t ∧ t.on F.pwrIssueDroop = true ∧ shows t ∧ t.deviceLimit ≤ 32)
    ∧ (s.on F.pwrIssueDroop = true → ∃ t, exec .droopRelease s = .next t ∧ t.on F.pwrIssueDroop = false ∧ shows t
        ∧ ∀ e ∈ s.engines, (t.eng e).ramp = rampFrom (s.engineLimit e))
    ∧ (∃ t, exec .pwrBrakeAssert s = .next t ∧ t.on F.pwrIssueBrake = true ∧ t.aoc.brakeLow = true ∧ shows t ∧ t.deviceLimit ≤ s.brakeFloor)
    ∧ (s.on F.pwrIssueBrake = true → ∃ t, exec .pwrBrakeRelease s = .next t ∧ t.on F.pwrIssueBrake = false ∧ t.aoc.brakeLow = false ∧ shows t
        ∧ ∀ e ∈ s.engines, (t.eng e).ramp = rampFrom (s.engineLimit e))
    ∧ (∀ e : Fin 8, (s.eng e).ramp ≠ 0 → ∃ t, exec (.rampStep e) s = .next t ∧ shows t
        ∧ (t.eng e).ramp = (if (s.eng e).ramp + 8 ≥ 64 then 0 else (s.eng e).ramp + 8) ∧ ∀ i, i ≠ e.val → t.eng i = s.eng i)
    ∧ (∀ p : PowerSample, ∃ t, exec (.capStep p) s = .next t ∧ shows t ∧ MemSame s t
        ∧ (s.cap * 1000 < p.avg1 → t.fld F.pwrIssueCapN = max 1 (n - 4))
        ∧ (p.avg1 < s.cap * 980 → t.fld F.pwrIssueCapN = min 64 (n + 1))
        ∧ (s.cap * 980 ≤ p.avg1 → p.avg1 ≤ s.cap * 1000 → t.fld F.pwrIssueCapN = n)
        ∧ (s.paced = true → t.pair .pwrThrUsLo .pwrThrUsHi = (s.pair .pwrThrUsLo .pwrThrUsHi + 100) % 2 ^ 64))
    ∧ (∀ temps : List Nat, ∃ t, exec (.thermalSample temps) s = .next t ∧ MemSame s t
        ∧ t.fld F.telTempMaxTemp = (hottest (temps.take 80)).1 % 2 ^ 12
        ∧ ((s.throttleC * 4 : Nat) ≤ signedOf 12 (hottest (temps.take 80)).1 → t.fld F.pwrIssueThermN = max 1 (s.fld F.pwrIssueThermN - 4))
        ∧ (signedOf 12 (hottest (temps.take 80)).1 < (s.throttleC * 4 : Nat) → t.fld F.pwrIssueThermN = s.fld F.pwrIssueThermN)
        ∧ (s.on F.telTempMaxWarn = false → (s.fld F.telThermCtrlWarnC * 4 : Nat) ≤ signedOf 12 (hottest (temps.take 80)).1 → t.on F.telTempMaxWarn = true))
    ∧ (signedOf 12 (s.fld F.telTempMaxTemp) < ((s.throttleC * 4 : Nat) : Int) - 8 →
        ∃ t, exec .thermalRelease s = .next t ∧ t.fld F.pwrIssueThermN = min 64 (s.fld F.pwrIssueThermN + 1) ∧ shows t)

/-- R383 to R385, R398: a clock point that the confirmed voltage supports is taken, another is refused; a lower voltage request is
confirmed at once, a higher one when the board has followed, and given up after 1 ms. A measurement adds each rail's energy to its
counter and to the device's. -/
def Obligations.OperatingPoints : Prop :=
  ∀ (s : State), s.writable = true →
    let clk := s.fld F.pwrDvfsClkPt
    let conf := s.fld F.pwrDvfsVConf
    (∀ v : Fin 4, (v.val = clk ∨ s.on F.pwrDvfsVBusy = false ∧ conf ≤ v.val) → ∃ t, exec (.clkPtWrite v) s = .next t ∧ t.fld F.pwrDvfsClkPt = v
        ∧ t.on F.pwrDvfsRefused = s.on F.pwrDvfsRefused ∧ t.fld F.pwrDvfsVConf = conf)
    ∧ (∀ v : Fin 4, v.val ≠ clk → s.on F.pwrDvfsVBusy = true ∨ v.val < conf → ∃ t, exec (.clkPtWrite v) s = .next t ∧ t.fld F.pwrDvfsClkPt = clk
        ∧ t.on F.pwrDvfsRefused = true ∧ OnlyRegs [.pwrDvfs] s t)
    ∧ (∀ v : Fin 4, v.val = s.fld F.pwrDvfsVPt ∨ v.val ≤ clk → ∃ t, exec (.vPtWrite v) s = .next t ∧ t.fld F.pwrDvfsVPt = v ∧ t.fld F.pwrVreqMvMv = pointMv v
        ∧ (conf ≤ v.val → t.fld F.pwrDvfsVConf = v ∧ t.on F.pwrDvfsVBusy = false) ∧ (v.val < conf → t.fld F.pwrDvfsVConf = conf ∧ t.on F.pwrDvfsVBusy = true))
    ∧ (∀ v : Fin 4, v.val ≠ s.fld F.pwrDvfsVPt → clk < v.val → ∃ t, exec (.vPtWrite v) s = .next t ∧ t.on F.pwrDvfsRefused = true ∧ OnlyRegs [.pwrDvfs] s t)
    ∧ (s.on F.pwrDvfsVBusy = true →
        (∃ t, exec .voltageConfirm s = .next t ∧ t.fld F.pwrDvfsVConf = s.fld F.pwrDvfsVPt ∧ t.on F.pwrDvfsVBusy = false ∧ OnlyRegs [.pwrDvfs] s t)
        ∧ (s.bank 1 = [] → ∃ t, exec .dvfsTimeout s = .next t ∧ t.fld F.pwrDvfsVPt = conf ∧ t.fld F.pwrDvfsVConf = conf ∧ t.on F.pwrDvfsVBusy = false
          ∧ ∃ r, t.bank 1 = [r] ∧ r.cause = 2 ∧ r.cls = 1))
    ∧ (∀ m : EnergySample, m.rails.length = 9 → ∃ t, exec (.energyMeasure m) s = .next t ∧ MemSame s t
        ∧ t.pair .telEDevLo .telEDevHi = (s.pair .telEDevLo .telEDevHi + (m.rails.map (·.total)).sum) % 2 ^ 64
        ∧ (∀ r : Fin 9, t.pair (.telERailLo r) (.telERailHi r) = (s.pair (.telERailLo r) (.telERailHi r) + ((m.rails[r.val]?).map (·.total)).getD 0) % 2 ^ 64)
        ∧ t.aoc.life.energyUj = s.aoc.life.energyUj + (m.rails.map (·.total)).sum)

/-- R398: of each rail, the configured partitions are charged exactly the whole where they own a core and no block's energy exceeds
it; what one partition is charged differs from its exact share by less than a microjoule. -/
def Obligations.EnergySplit : Prop :=
  ∀ (cores : List Nat) (r : RailEnergy), 0 < cores.sum → r.owned.length = cores.length → (∀ b ∈ r.shared, b.tags.length = cores.length) →
    r.owned.sum + ((r.shared.filter fun b => b.tags.sum != 0).map (·.uj)).sum ≤ r.total →
    (railCharge cores r).sum = r.total ∧ (railCharge cores r).length = cores.length
    ∧ ∀ i, i < cores.length → let (ns, den) := railShares cores r
        0 < den ∧ natAt ns i / den ≤ natAt (railCharge cores r) i ∧ natAt (railCharge cores r) i ≤ natAt ns i / den + 1

/-- R370, R371, R375 to R381: a domain idle for dusk_us enters Dusk, and leaves it at a wake, an engine through a start ramp. A request
for Midnight is refused with the first condition that holds; one that no wake abandons ends in Midnight, with the entry counted. A
wake event starts Dawn, which brings the device back to run and says what woke it. -/
def Obligations.DuskAndMidnight : Prop :=
  ∀ (s : State),
    (s.live = true →
      (s.fld F.pwrIdleDuskUs ≠ 0 →
        (∀ e : Fin 8, s.present e = true → s.engIdle e = true → ∃ t, exec (.duskEntry (.engine e)) s = .next t ∧ t.eng e = { s.eng e with dusk := true } ∧ t.regs = s.regs)
        ∧ (∀ c : Fin 4, s.veIdle c = true → ∃ t, exec (.duskEntry (.vector c)) s = .next t ∧ t.ve c = { s.ve c with dusk := true } ∧ t.regs = s.regs)
        ∧ (∀ c : Fin 4, s.elapse.sqIdle c = true → ∃ t, exec (.duskEntry (.sequencer c)) s = .next t ∧ t.sq c = { s.sq c with dusk := true } ∧ t.regs = s.regs))
      ∧ (∀ e : Fin 8, (s.eng e).dusk = true → ∃ t, exec (.duskWake (.engine e)) s = .next t ∧ (t.eng e).dusk = false
          ∧ (s.on F.pwrIdleDuskRamp = true → (t.eng e).ramp = 8) ∧ (s.on F.pwrIdleDuskRamp = false → (t.eng e).ramp = (s.eng e).ramp ∧ t.regs = s.regs))
      ∧ (∀ c : Fin 4, ∃ t, exec (.duskWake (.vector c)) s = .next t ∧ t.ve c = { s.ve c with dusk := false } ∧ t.regs = s.regs)
      ∧ (∀ c : Fin 4, ∃ t, exec (.duskWake (.sequencer c)) s = .next t ∧ t.sq c = { s.sq c with dusk := false } ∧ t.regs = s.regs))
    ∧ (∀ env : MidEnv, ∀ i ∈ [Instr.midnightRequest env, .autoMidnight env], s.writable = true →
        (i = .autoMidnight env → s.live = true ∧ s.fld F.pwrAutoMidnightS ≠ 0 ∧ s.elapse.powerState = 1) →
        (∀ code, s.elapse.midnightRefusal = some code → ∃ t, exec i s = .next t ∧ t.fld F.pwrStateLastRefuse = code ∧ OnlyRegs [.pwrState] s t)
        ∧ (s.elapse.midnightRefusal = none →
          (∀ k, s.on F.pwrReqEntryMode = false → env.wakeAt = some k → ∃ t, exec i s = .next t ∧ t.aoc.mode = .running
            ∧ t.fld F.pwrAbortsAborts = (s.fld F.pwrAbortsAborts + 1) % 2 ^ F.pwrAbortsAborts.width)
          ∧ (s.on F.pwrReqEntryMode = true ∨ env.wakeAt = none → env.latched = false → ∃ t, exec i s = .next t ∧ t.aoc.mode = .midnight
            ∧ t.fld F.pwrMidnightsEntries = (s.fld F.pwrMidnightsEntries + 1) % 2 ^ F.pwrMidnightsEntries.width ∧ t.pending = s.pending
            ∧ (∀ e : Fin 16, t.fld (F.lnkStatusState e) = 0 ∨ t.fld (F.lnkStatusState e) = 5))))
    ∧ (∀ env : BootEnv, s.aoc.mode = .midnight → env.fwCopyOk = true →
        let wakes (i : Instr) (code : Nat) : Prop := ∃ t, exec i s = .next t ∧ t.aoc.mode = .running ∧ t.fld F.pwrStateLastWake = code
        wakes (.wakeNLow env) 1
        ∧ (∀ (f : WakeFrame) (c : HostCfg), f.host = s.fld F.pwrWakeListen → s.linkUp f.host = true → s.hostCfg f.host = some c →
            f.dstUnicast = true → f.dstPort = c.wakePort → f.payload = leBytes 4 0x53504157 ++ leBytes 4 0 ++ padTo 8 c.wakeCode →
            s.on F.pwrWakeFrameEn = true → wakes (.wakeFrame f env) 2)
        ∧ (s.on F.pwrWakeAlarmEn = true → s.fld F.pwrAlarmAlarmUtc ≤ s.elapse.clock.calendar → wakes (.calendarAlarm env) 3))


/-! ### Reset and start (chapters 14 and 17) -/

/-- R425, R427, R485 to R487, R397, R443: the release of the pin that holds the device in reset starts it, up to ready or to the state of
a failed start with its code; a flash that does not answer, a vendor key that does not match and a slot pair without a firmware fail
it at their steps. A pin that falls, a lost rail and a trip reset everything but what VDD_AON, the fuses and the flash keep. -/
def Obligations.ResetAndStart : Prop :=
  ∀ (s : State) (env : BootEnv),
    (∀ i ∈ [Instr.porstNRelease env, .warmNRelease env], (if i = .warmNRelease env then s.aoc.mode = .warmReset else s.aoc.mode = .reset ∧ s.aoc.warmLow = false) →
      ∃ t, exec i s = .next t
        ∧ (t.aoc.mode = .running ∧ t.on F.glbBootReady = true ∧ t.fld F.glbBootStage = 11
          ∨ t.aoc.mode = .bootFailed ∧ 1 ≤ t.fld F.glbBootFail ∧ t.fld F.glbBootFail ≤ 6 ∧ t.aoc.alerts.toNat.testBit 4 = true)
        ∧ (env.flashOk = false → t.aoc.mode = .bootFailed ∧ t.fld F.glbBootFail = 1 ∧ t.fld F.glbBootStage = 2)
        ∧ (env.flashOk = true → sha3 s.flash.vendorKey ≠ s.fuses.vendorHash → t.aoc.mode = .bootFailed ∧ t.fld F.glbBootFail = 2 ∧ t.fld F.glbBootStage = 2)
        ∧ (env.flashOk = true → sha3 s.flash.vendorKey = s.fuses.vendorHash → pickFw s.flash = none → t.aoc.mode = .bootFailed ∧ t.fld F.glbBootFail = 3 ∧ t.fld F.glbBootStage = 3))
    ∧ (let lost (t : State) : Prop := t.regs = [] ∧ t.mem = [] ∧ t.jobs = [] ∧ t.requests = [] ∧ t.rings = [] ∧ t.cfg = none ∧ t.sec = Sec.empty
         ∧ t.fuses = s.fuses ∧ t.flash = s.flash ∧ t.pending = s.pending
       let kept (t : State) : Prop := lost t ∧ t.aoc.overlay = s.aoc.overlay ∧ t.clock.calendar = s.elapse.clock.calendar ∧ t.clock.calValid = s.clock.calValid
       (∀ i ∈ Instr.porstNAssert :: (List.finRange 9).map Instr.powerGoodLoss, s.aoc.mode ≠ .off → ∃ t, exec i s = .next t ∧ kept t
         ∧ t.aoc.mode = .reset ∧ t.aoc.thermTripLow = false ∧ t.aoc.life = s.aoc.life)
       ∧ (s.aoc.mode ≠ .off → s.aoc.mode ≠ .reset → s.aoc.thermTripLow = false → ∃ t, exec .warmNAssert s = .next t ∧ kept t ∧ t.aoc.mode = .warmReset ∧ t.aoc.warmLow = true)
       ∧ (∀ n : Fin 80, s.aoc.mode ≠ .off → s.aoc.mode ≠ .reset → ∃ t, exec (.thermalTrip n) s = .next t ∧ kept t ∧ t.aoc.mode = .tripped
         ∧ t.aoc.thermTripLow = true ∧ t.aoc.life.trips = s.aoc.life.trips + 1)
       ∧ (∃ t, exec .powerUp s = .next t ∧ lost t ∧ t.aoc.mode = .reset ∧ t.aoc.overlayKept = false ∧ t.clock.calendar = 0 ∧ t.clock.calValid = false ∧ t.clock.powered = 0))
    ∧ (s.live = true → ∀ r ∈ [(Instr.clockFault, 1, 3), (.secFault, 3, 1)], s.bank r.2.1 = [] →
        ∃ t x, exec r.1 s = .next t ∧ t.on F.errStatusHalted = true ∧ t.on F.errStatusVoid = true ∧ t.bank r.2.1 = [x] ∧ x.cause = r.2.2 ∧ x.cls = 3
          ∧ t.fld F.errHaltSeqSeq = x.seq % 2 ^ 32 ∧ MemSame s t)


/-! ### SEC and the flash (chapters 13 and 14) -/

/-- R405, R413, R415, R417, R419: the commands of SEC. ADMIT takes a free tenant slot, EVICT scrubs one that no job uses, KEY_CLEAR
destroys a key, KEY_LOAD keeps one that its envelope delivers while no condition withholds it, and UNSEAL opens the blocks of an
image that names that key, in order, up to the first whose tag fails. -/
def Obligations.SecCommands : Prop :=
  ∀ (s u : State) (p : Fin 4) (x : SecArgs), SecNext s u p x →
    let ckey := contentKey p x.tenant x.key
    (u.tsState p x.tenant = 0 → u.resetting p = false → x.tenant < 16 → ∃ t, exec (.admitTenant p) s = .next t ∧ SecEnds p secOk 0 t ∧ t.tsState p x.tenant = 1 ∧ MemSame u t
        ∧ (u.guarded p = true → tabFind t.sec.memKeys (slotKey p x.tenant) = some (Config.freshKey u.clock.freeIdx)))
    ∧ (u.tsState p x.tenant ≠ 0 → ∃ t, exec (.admitTenant p) s = .next t ∧ SecEnds p secTenantState 0 t ∧ t.sec = u.sec)
    ∧ (u.tsState p x.tenant = 1 → u.resetting p = false → x.tenant < 16 →
        ((u.jobs.any fun j => j.2.part == p.val && j.2.record.tenant == x.tenant) = true → ∃ t, exec (.evict p) s = .next t ∧ SecEnds p secTenantBusy 0 t ∧ t.sec = u.sec)
        ∧ ((u.jobs.any fun j => j.2.part == p.val && j.2.record.tenant == x.tenant) = false → ∃ t, exec (.evict p) s = .next t ∧ SecEnds p secOk 0 t
          ∧ t.tsState p x.tenant = 0 ∧ tabFind t.sec.memKeys (slotKey p x.tenant) = none ∧ ∀ k, tabFind t.sec.content (contentKey p x.tenant k) ≠ none → 4 ≤ k))
    ∧ (x.key < 4 → ∀ key, tabFind u.sec.content ckey = some key → ∃ t, exec (.keyClear p) s = .next t ∧ SecEnds p secOk 0 t ∧ tabFind t.sec.content ckey = none
        ∧ ∀ k, k ≠ ckey → tabFind t.sec.content k = tabFind u.sec.content k)
    ∧ (∀ v e k, u.guarded p = true → x.key < 4 → inRange (u.slice p x.tenant) x.src 1252 = true → readNow p x.src 1252 u = (v, e, false) →
        v.tsState p x.tenant = 1 → leAt e 0 4 = 0x53504B45 → leAt e 4 2 = 1 → leAt e 6 1 = p.val → leAt e 7 1 = x.tenant → (e.drop 0x48).take 32 = v.deviceId →
        (tabGet [] v.sec.nonces (slotKey p x.tenant)).contains ((e.drop 0x28).take 32) = true →
        (v.withheld13 p x.tenant = none →
          Config.gcmOpen (sha3 (Config.kemDecap (tabGet [] v.sec.partDk p) ((e.drop 0x68).take 1088) ++ e.take 0x68)) ((e.drop 0x4A8).take 12) (e.take 0x68) ((e.drop 0x4B4).take 48) = some k →
          ∃ t, exec (.keyLoad p) s = .next t ∧ SecEnds p secOk 0 t ∧ tabFind t.sec.content ckey = some ((e.drop 8).take 32, k))
        ∧ (∀ st, v.withheld13 p x.tenant = some st → ∃ t, exec (.keyLoad p) s = .next t ∧ SecEnds p st 0 t ∧ t.sec = v.sec))
    ∧ (∀ v h id key, u.guarded p = true → x.key < 4 → inRange (u.slice p x.tenant) x.src 64 = true → u.tsState p x.tenant = 1 → u.withheld13 p x.tenant = none →
        tabFind u.sec.content ckey = some (id, key) → readNow p x.src 64 u = (v, h, false) → leAt h 0 4 = 0x53505345 → leAt h 6 2 = 0 →
        (∃ k, k ≤ 8 ∧ leAt h 8 4 = 65536 * 2 ^ k) → leAt h 0xC 4 = ceilDiv (leAt h 0x10 8) (leAt h 8 4) → (h.drop 0x1C).take 32 = id →
        inRange (u.slice p x.tenant) x.src (64 + leAt h 0x10 8 + 16 * leAt h 0xC 4) = true → inRange (u.slice p x.tenant) x.dst (leAt h 0x10 8) = true →
        64 + leAt h 0x10 8 + 16 * leAt h 0xC 4 ≤ x.len →
        let r := unsealBlocks p key ((h.drop 0x18).take 4) h (leAt h 8 4) (leAt h 0x10 8) (leAt h 0xC 4) 0 (x.src + 64) x.dst v
        ∃ t, exec (.unseal p) s = .next t ∧ SecEnds p r.2.1 (r.2.2 % 2 ^ 32) t ∧ t.mem = r.1.mem ∧ (r.2.1 = secOk ∨ r.2.1 = secTagFail))

/-- R90, R412, R417: an attestation report is counted, signed and kept. Debug, where the image permits it, destroys content and memory
keys; a generator is forced only while debug is on, else the write is dropped and logged; the end of debug ends every forcing. -/
def Obligations.AttestationAndDebug : Prop :=
  ∀ (s : State), s.writable = true →
    (∀ (p : Fin 4) (tenant : Fin 16), s.partValid p = true → ∃ t body, exec (.attest p tenant) s = .next t ∧ t.sec.reportSeq = s.sec.reportSeq + 1
      ∧ tabFind t.sec.reports p = some (body ++ padTo 2420 (Config.dsaSign s.idKeys.2 [] body)) ∧ t.fld (F.secAttStatusValid p) = 1 ∧ t.fld (F.secAttCtrlTenant p) = tenant
      ∧ (tabGet [] t.sec.nonces (slotKey p tenant)).head? = some ((body.drop 0x20).take 32) ∧ t.sec.content = s.sec.content ∧ MemSame s t)
    ∧ (∀ c, s.cfg = some c → c.debugOk = true → s.debug = false → ∃ t, exec .debugEnable s = .next t ∧ t.debug = true ∧ t.on F.secStatusDebug = true
        ∧ t.sec.content = [] ∧ t.sec.memKeys = [])
    ∧ (∃ t, exec .debugDisable s = .next t ∧ t.debug = false ∧ t.on F.secStatusDebug = false ∧ t.on F.rdeRngCtrlFixedEn = false
        ∧ (∀ c : Fin 4, t.on (F.coreRngCtrlFixedEn c) = false) ∧ MemSame s t)
    ∧ (∀ (c : Fin 4) (v : Word), s.coreJob c = none →
        (s.debug = true → ∃ t, exec (.rngForce (.core c) v) s = .next t ∧ t.fld (F.coreRngCtrlFixedEn c) = wordField v 0 1
          ∧ t.fld (F.coreRngCtrlFixedDraw c) = wordField v 16 16 ∧ OnlyRegs [.coreRngCtrl c] s t)
        ∧ (s.debug = false → s.on (F.coreRngCtrlFixedEn c) = false → wordField v 0 1 = 1 → ∃ t, exec (.rngForce (.core c) v) s = .next t
          ∧ t.on (F.coreRngCtrlFixedEn c) = false ∧ t.fld F.glbDropCntDrops = (s.fld F.glbDropCntDrops + 1) % 2 ^ 32 ∧ t.fld F.glbDropAddrAddr = (Reg.coreRngCtrl c).addr % 2 ^ 26))

/-- R438 to R446: staging writes only the slot that is not in use, and leaves it staged or erased; an image that is too long is refused.
Activation commits a staged slot, or reports why not; one whose contents fail their check is
committed and starts the device cold. ABANDON erases staged slots. A snapshot, a log record and the calendar take
what stands; the overlay is emptied. -/
def Obligations.StagingAndActivation : Prop :=
  ∀ (s : State), s.writable = true →
    let status (t : State) : Nat := t.fld F.lifFlashStatusStatus
    let fw := s.spareFw
    let cf := s.spareCfg
    (s.on F.glbBootReady = true →
      (∃ t, exec .stageFw s = .next t ∧ t.flash.fw (!fw) = s.flash.fw (!fw) ∧ t.flash.cfgA = s.flash.cfgA ∧ t.flash.cfgB = s.flash.cfgB
        ∧ (2 ^ 23 - 65536 < s.fld F.lifFlashLenLen → status t = flTooLong ∧ t.flash = s.flash)
        ∧ (s.fld F.lifFlashLenLen ≤ 2 ^ 23 - 65536 → (status t = flOk ∧ (t.flash.fw fw).state = .staged) ∨ ((status t = flSigFail ∨ status t = flError) ∧ (t.flash.fw fw).state = .erased)))
      ∧ (∃ t, exec .stageCfg s = .next t ∧ t.flash.cfgSlot (!cf) = s.flash.cfgSlot (!cf) ∧ t.flash.fwA = s.flash.fwA ∧ t.flash.fwB = s.flash.fwB
        ∧ (2 ^ 21 - 65536 < s.fld F.lifFlashLenLen → status t = flTooLong ∧ t.flash = s.flash)
        ∧ (s.fld F.lifFlashLenLen ≤ 2 ^ 21 - 65536 → (status t = flOk ∧ (t.flash.cfgSlot cf).state = .staged) ∨ ((status t = flSigFail ∨ status t = flError) ∧ (t.flash.cfgSlot cf).state = .erased)))
      ∧ (∀ env : BootEnv, ∃ t, exec (.activateFw env) s = .next t ∧ (s.busy = true → status t = flJobActive ∧ t.flash = s.flash)
        ∧ (s.busy = false → s.fld F.secStatusResetting = 0 → s.fld F.secStatusScrubbing = 0 →
          ((s.flash.fw fw).state ≠ .staged → status t = flNothing ∧ t.flash = s.flash)
          ∧ ((s.flash.fw fw).state = .staged → (s.flash.fw fw).image.isSome = true → env.fwCopyOk = true →
            (status t = flOk ∧ (t.flash.fw fw).state = .committed ∧ t.fld F.glbBootFwSlot = boolNat fw ∧ t.sec.content = []) ∨ (status t = flError ∧ t.flash = s.flash))
          ∧ ((s.flash.fw fw).state = .staged → env.fwCopyOk = false →
            (∃ w, t = s.keep (coldStart env (resetDevice .reset w)) ∧ (w.flash.fw fw).state = .committed ∧ (w.flash.fw fw).image = none
              ∧ w.flash.fw (!fw) = s.flash.fw (!fw)) ∨ (status t = flError ∧ t.flash = s.flash))))
      ∧ (∃ t, exec .activateCfg s = .next t ∧ ((s.flash.cfgSlot cf).state ≠ .staged → status t = flNothing ∧ t.flash = s.flash)
        ∧ ((s.flash.cfgSlot cf).state = .staged → (status t = flOk ∧ (t.flash.cfgSlot cf).state = .committed) ∨ (status t = flError ∧ t.flash = s.flash)))
      ∧ (∃ t, exec .abandon s = .next t ∧ ((status t = flOk ∧ (t.flash.fw fw).state ≠ .staged ∧ (t.flash.cfgSlot cf).state ≠ .staged) ∨ (status t = flError ∧ t.flash = s.flash))))
    ∧ (∀ sec : Section, (∀ x ∈ s.flash.mirror.stamps, x.1 = sec → x.2 + sectionSpacing sec ≤ s.elapse.clock.powered) →
        ∃ t, exec (.snapshotWrite sec) s = .next t ∧ t.flash.mirror.seq = s.flash.mirror.seq + 1 ∧ (sec, s.elapse.clock.powered) ∈ t.flash.mirror.stamps
          ∧ (sec = .overlay → t.flash.mirror.overlay = some s.aoc.overlay ∧ t.fld F.lifOvlStatusPending = 0)
          ∧ (sec = .lifeCounters → t.flash.mirror.life = some (s.aoc.life, s.elapse.clock.powered))
          ∧ (∀ (p : Fin 4) h, sec = .scaleHistory p → tabFind s.histories p = some h → tabFind t.flash.mirror.histories p = some h))
    ∧ (∃ t r, exec .lifeLogRecord s = .next t ∧ t.aoc.logNext = s.aoc.logNext + 1 ∧ tabFind t.flash.log (s.aoc.logNext % 131072) = some r
        ∧ leAt r 0x3C 4 = crc32c (r.take 0x3C) ∧ leAt r 4 4 = s.aoc.logNext % 2 ^ 32)
    ∧ (∀ hi : Word, ∃ t, exec (.calendarSet hi) s = .next t ∧ t.clock.calValid = true ∧ t.clock.calendar = s.fld F.lifCalSetLoSet + hi.toNat * 2 ^ 32)
    ∧ (∃ t, exec .overlayClear s = .next t ∧ t.aoc.overlay.entries = [] ∧ t.aoc.overlay.imageHash = s.sec.mConfig ∧ t.fld F.lifOvlStatusEntries = 0
        ∧ t.on F.lifOvlStatusPending = true ∧ ∀ r, r ≠ Reg.lifOvlStatus → t.reg r = s.reg r)

/-- R446: a read of the life log. The data words hold the record's bytes, four to a word; a record that is overwritten or not yet
written, or whose check fails, sets gone, and the data words read 0. -/
def Obligations.LifeLogRead : Prop :=
  ∀ (s : State) (seq : Word), s.writable = true →
    let slot := tabFind s.flash.log (seq.toNat % 131072)
    let good (r : List Byte) : Prop := leAt r 4 4 = seq.toNat ∧ leAt r 0x3C 4 = crc32c (r.take 0x3C)
    ∃ t, exec (.logRead seq) s = .next t ∧ t.fld F.lifLogIdxSeq = seq.toNat ∧ t.fld F.lifLogStatusBusy = 0 ∧ t.flash = s.flash ∧ MemSame s t
      ∧ (∀ r, slot = some r → good r → t.fld F.lifLogStatusGone = 0 ∧ ∀ n : Fin 16, t.reg (.lifLogData n) = BitVec.ofNat 32 (leAt r (4 * n) 4))
      ∧ ((∀ r, slot = some r → ¬ good r) → t.fld F.lifLogStatusGone = 1 ∧ ∀ n : Fin 16, t.reg (.lifLogData n) = 0)
      ∧ ∀ r, r ≠ Reg.lifLogIdx → r ≠ .lifLogStatus → (∀ n, r ≠ .lifLogData n) → t.reg r = s.reg r


/-! ### Errors, ledgers and service (chapter 15); registers and pins (chapters 16 and 17) -/

/-- R452, R455, R456, R457: an acknowledged record leaves its bank, and those below it move up. An audit whose ledgers all hold ends clean;
one with a broken equality names the ledger, records both sides and halts the device; after a fatal error it ends void. Its snapshot
stays until it is released. -/
def Obligations.ErrorsAndAudits : Prop :=
  ∀ (s : State), s.up = true →
    (∀ b : Fin 88, ∃ t, exec (.bankAck b) s = .next t ∧ t.bank b = (s.bank b).tail ∧ (∀ i, i ≠ b.val → t.bank i = s.bank i) ∧ t.regs = s.regs ∧ MemSame s t)
    ∧ (∃ t, exec .auditRelease s = .next t ∧ t.err = { s.err with snapshot := none } ∧ t.regs = s.regs)
    ∧ (s.on F.errStatusHalted = false → ∀ mask : BitVec 8, mask ≠ 0 →
      (s.on F.errStatusVoid = true → ∃ t, exec (.audit mask) s = .next t ∧ t.fld F.ldgAuditStatusStatus = 1 ∧ OnlyRegs [.ldgAuditStatus] { s with err := t.err } t)
      ∧ (s.on F.errStatusVoid = false →
        let ls := (List.range 8).filter mask.toNat.testBit
        let u : State := { s.elapse with err := { s.err with snapshot := some ((ls.flatMap ledgerRegs).map fun r => (r, s.elapse.now r)) } }
        ((∀ l ∈ ls, lowestBreak (ledgerBreaks l u) = none) → ∃ t, exec (.audit mask) s = .next t ∧ t.fld F.ldgAuditStatusStatus = 0 ∧ t.err = u.err ∧ OnlyRegs [.ldgAuditStatus] { s with err := t.err } t)
        ∧ (∀ l b, (ls.findSome? fun l => (lowestBreak (ledgerBreaks l u)).map fun b => (l, b)) = some (l, b) → s.on F.glbBootReady = true → s.bank 4 = [] →
          ∃ t r, exec (.audit mask) s = .next t ∧ t.fld F.ldgAuditStatusStatus = 2 ∧ t.fld F.ldgAuditStatusLedger = l ∧ t.on F.errStatusHalted = true ∧ t.bank 4 = [r]
            ∧ r.unit = l ∧ r.cls = 3 ∧ r.detail = b.left % 2 ^ 32 + b.right % 2 ^ 32 * 2 ^ 32)))

/-- R459 to R462, R464: the operations of service. A bank goes for a spare; a self-test starts on an idle engine that no job names, and
leaves it idle or fenced; an unfence tests again; a fenced core ends its job first. A partial reset is the seven steps of Table 15.7, of which the
first leaves no key of the partition and moves no byte. -/
def Obligations.ServiceOperations : Prop :=
  ∀ (s : State), s.writable = true →
    (∀ b l sp rest, (List.range 256).find? (fun l => tabGet l s.err.csMap l == b) = some l → s.err.csSpares = sp :: rest → s.bank 7 = [] →
        ∃ t r, exec (.bankRetire b) s = .next t ∧ tabFind t.err.csMap l = some sp ∧ t.err.csSpares = rest ∧ t.fld F.csRetireSpares = rest.length % 2 ^ F.csRetireSpares.width
          ∧ t.bank 7 = [r] ∧ r.cause = 4 ∧ r.cls = 0 ∧ r.unit = b ∧ MemSame s t)
    ∧ (∀ e : Fin 8, s.present e = true →
        (s.fld (F.engStatusState e) = 0 → (s.jobs.any fun j => j.2.namesEngine e) = false → ∃ t, exec (.selfTest e) s = .next t ∧ t.fld (F.engStatusState e) = 5 ∧ OnlyRegs [.engStatus e] { s with engs := t.engs } t)
        ∧ (s.fld (F.engStatusState e) ≠ 0 ∨ (s.jobs.any fun j => j.2.namesEngine e) = true → ∃ t, exec (.selfTest e) s = .next t ∧ t.fld (F.engStatusState e) = s.fld (F.engStatusState e)
          ∧ t.engs = s.engs ∧ t.fld F.glbDropCntDrops = (s.fld F.glbDropCntDrops + 1) % 2 ^ 32 ∧ t.fld F.glbDropAddrAddr = (Reg.engTest e).addr % 2 ^ 26)
        ∧ (s.fld (F.engStatusState e) = 6 → ∃ t, exec (.engineUnfence e) s = .next t ∧ t.fld (F.engStatusState e) = 5 ∧ (t.eng e).unfencing = true ∧ OnlyRegs [.engStatus e] { s with engs := t.engs } t)
        ∧ (s.on F.glbBootReady = true → s.fld (F.engStatusState e) = 5 →
          (∃ t, exec (.selfTestDone e true) s = .next t ∧ t.fld (F.engStatusState e) = 0 ∧ t.fld (F.engTestResult e) = 1 ∧ (t.eng e).unfencing = false ∧ MemSame s t)
          ∧ (s.bank (0x10 + e / 2) = [] → ∃ t r, exec (.selfTestDone e false) s = .next t ∧ t.fld (F.engStatusState e) = 6 ∧ t.fld (F.engTestResult e) = 2
            ∧ t.bank (0x10 + e / 2) = [r] ∧ r.cause = 0x11 ∧ r.cls = 2 ∧ r.unit = e % 2)))
    ∧ (∀ c : Fin 4,
        (s.jobAt c = none → ∃ t, exec (.coreFence c) s = .next t ∧ t.coreFenced c = true ∧ (∀ e ∈ engsOf c, s.present e = true → t.fld (F.engStatusState e) = 6) ∧ MemSame s t)
        ∧ (∀ k j, s.jobAt c = some (k, j) → j.ending = none → j.training = false → ∃ t i, exec (.coreFence c) s = .next t ∧ (t.sq c).fencing = true
          ∧ t.job k = some i ∧ i.ending = some 0x10 ∧ t.coreFenced c = s.coreFenced c)
        ∧ (s.coreFenced c = true →
          (∃ t, exec (.coreUnfence c) s = .next t ∧ (∀ e ∈ engsOf c, s.present e = true → s.fld (F.engStatusState e) = 6 → t.fld (F.engStatusState e) = 5 ∧ (t.eng e).unfencing = true)
            ∧ ((∃ e ∈ engsOf c, s.present e = true ∧ s.fld (F.engStatusState e) ≠ 0) → t.coreFenced c = true)
            ∧ ((∀ e ∈ engsOf c, s.present e = false) → t.coreFenced c = false))))
    ∧ (∀ p : Fin 4, s.partValid p = true → s.resetting p = false →
        ∃ t, exec (.partialReset (BitVec.ofNat 4 (2 ^ p.val))) s = .next t ∧ t = s.keep (settleColls (runReset p s.elapse))
          ∧ (∀ x ∈ (resetKeys p s).sec.content, x.1 / 64 ≠ p.val) ∧ (∀ x ∈ (resetKeys p s).sec.memKeys, x.1 / 16 ≠ p.val) ∧ MemSame s (resetKeys p s))

/-- R73, R433, R434, R474: a write of a field that software may write at any time takes effect, and one that would change a field
whose block runs is dropped and logged. The low half of a counter, read, keeps its high half for the reader. -/
def Obligations.RegisterAccess : Prop :=
  ∀ (s : State) (q : Fin 1024) (v : Word), s.up = true →
    let dev : Scope := .device q
    let counted (t : State) (r : Reg) : Prop := t.fld F.glbDropCntDrops = (s.fld F.glbDropCntDrops + 1) % 2 ^ 32 ∧ t.fld F.glbDropAddrAddr = r.addr % 2 ^ 26
    (∀ n : Fin 4, ∃ t, exec (.registerWrite (Reg.glbScratch n).addr v dev) s = .next t ∧ t.reg (.glbScratch n) = v ∧ ∀ r, r ≠ Reg.glbScratch n → t.reg r = s.reg r)
    ∧ (s.on F.errStatusHalted = false →
      (∃ t, exec (.registerWrite Reg.pwrCapWatts.addr v dev) s = .next t ∧ t.fld F.pwrCapWattsWatts = wordField v F.pwrCapWattsWatts.lo F.pwrCapWattsWatts.width)
      ∧ (∀ p : Fin 4, s.partTraining p = true → wordField v 0 24 ≠ s.fld (F.rdeMirLenMirrorLen p) →
        ∃ t, exec (.registerWrite (Reg.rdeMirLen p).addr v dev) s = .next t ∧ t.reg (.rdeMirLen p) = s.reg (.rdeMirLen p) ∧ counted t (.rdeMirLen p)))
    ∧ (∀ r hi, r ∈ [Reg.telEDevLo, .lifCalLo, .pwrThrUsLo, .rdeBlkClosedLo] → r.hiOf = some hi →
        ∃ t x, exec (.counterLoRead q r.addr) s = .next t ∧ (q.val, hi, x) ∈ t.aoc.latches ∧ x = (coarsen s.elapse).scopedView dev hi
          ∧ (readWord dev hi.addr t).2 = x ∧ t.regs = s.regs)

/-- R471: in the halt state every register stays readable. The device takes writes of the acknowledgements, the release of an audit, the
scratch registers and the two calendar registers; every other write is dropped, logged and recorded, and changes no other register. -/
def Obligations.HaltState : Prop :=
  ∀ (s : State) (q : Fin 1024) (v : Word), s.up = true → s.on F.errStatusHalted = true →
    let dev : Scope := .device q
    let dropped (r : Reg) (t : State) : Prop := t.fld F.glbDropAddrAddr = r.addr % 2 ^ 26 ∧ t.fld F.glbDropCntDrops = (s.fld F.glbDropCntDrops + 1) % 2 ^ 32
      ∧ (s.bank 0 = [] → ∃ x, t.bank 0 = [x] ∧ x.source = 0 ∧ x.cause = 1 ∧ x.cls = 0 ∧ x.address = r.addr)
      ∧ ∀ x, x ∉ [Reg.glbDropAddr, .glbDropCnt, .errBankStat 0] → t.reg x = s.reg x
    let taken : Reg → Bool
      | .errBankAck _ | .glbScratch _ | .lifCalSetLo | .lifCalSetHi | .ldgAudit => true
      | _ => false
    (∀ r, regAt r.addr = some r → r.hiOf = none → (s.aoc.latches.find? fun x => x.1 == q.val && x.2.1 == r) = none →
      (readWord dev r.addr s).2 = (accessWakes dev r.addr s).scopedView dev r)
    ∧ (∀ b : Fin 88, wordField v 0 1 = 1 → ∃ t, exec (.registerWrite (Reg.errBankAck b).addr v dev) s = .next t ∧ t.bank b = (s.bank b).tail ∧ t.regs = s.regs)
    ∧ (∀ n : Fin 4, ∃ t, exec (.registerWrite (Reg.glbScratch n).addr v dev) s = .next t ∧ t.reg (.glbScratch n) = v ∧ ∀ r, r ≠ Reg.glbScratch n → t.reg r = s.reg r)
    ∧ (∃ t, exec (.registerWrite Reg.lifCalSetLo.addr v dev) s = .next t ∧ t.reg .lifCalSetLo = v ∧ ∀ r, r ≠ Reg.lifCalSetLo → t.reg r = s.reg r)
    ∧ (∃ t, exec (.registerWrite Reg.lifCalSetHi.addr v dev) s = .next t ∧ t.clock.calValid = true
        ∧ t.clock.calendar = (s.reg .lifCalSetLo).toNat + v.toNat * 2 ^ 32 ∧ ∀ r, r ≠ Reg.lifCalSetHi → t.reg r = s.reg r)
    ∧ (∃ t, exec (.registerWrite Reg.ldgAudit.addr v dev) s = .next t
        ∧ (t.err.snapshot = if wordField v 8 1 = 1 then none else s.err.snapshot)
        ∧ (wordField v 0 8 = 0 → t.regs = s.regs) ∧ (wordField v 0 8 ≠ 0 → dropped .ldgAudit t))
    ∧ (∀ r, regAt r.addr = some r → (∀ e, r.engine = some e → s.present e = true) → taken r = false →
        ∃ t, exec (.registerWrite r.addr v dev) s = .next t ∧ dropped r t ∧ t.pages = s.pages ∧ t.jobs = s.jobs ∧ MemSame s t)

/-- R489, R490, R498, R499: the SMBus set is served in every state but Off and reset: a 1 clears its alert bit, the mask is taken whole,
and a device that holds ALERT_N low answers and releases it. The TAP answers while its rails are up: IDCODE is 0x1880_0DEB, SAMPLE
takes the cells, and EXTEST, CLAMP and HIGHZ act only while PORST_N is low, else as BYPASS. -/
def Obligations.SmbusAndTap : Prop :=
  ∀ (s : State),
    (s.smbServed = true → ∀ v : Byte,
      (∃ t, exec (.smbAlertClear v) s = .next t ∧ t = { s with aoc := { s.aoc with alerts := s.aoc.alerts &&& ~~~v }, clock := t.clock })
      ∧ (∃ t, exec (.smbAlertMaskWrite v) s = .next t ∧ t = { s with aoc := { s.aoc with alertMask := v }, clock := t.clock })
      ∧ (s.alertLow = true → ∃ t, exec .smbAlertResponse s = .next t ∧ t.alertLow = false ∧ t.aoc.alerts = s.aoc.alerts
          ∧ t.tx = s.tx ++ [.smbus [BitVec.ofNat 8 ((0x58 + s.fld F.glbPosPins % 8) * 2)]]))
    ∧ (∃ t, exec .smbBusTimeout s = .next t ∧ t = { s with clock := t.clock })
    ∧ (s.tapUp = true →
      let gives (i : Instr) (x : Tap) (bits : List Bool) : Prop := ∃ t, exec i s = .next t ∧ t.tap = x ∧ t.tx = s.tx ++ [.tdo bits] ∧ t.regs = s.regs
      let free : Tap := { s.tap with driving := false, floating := false }
      gives .idcode { free with instr := .idcode } ((List.range 32).map fun i => (0x18800DEB : Nat).testBit i)
      ∧ gives .bypass { free with instr := .bypass } [false]
      ∧ (∀ v, ∃ t bits, exec (.samplePreload v) s = .next t ∧ t.tap = { free with instr := .sample, cells := v.take 10830 } ∧ t.tx = s.tx ++ [.tdo bits] ∧ bits.length = 10830)
      ∧ (∃ t, exec .tapReset s = .next t ∧ t.tap = { free with instr := .idcode } ∧ t.tx = s.tx)
      ∧ (s.aoc.mode = .reset → gives .extest { s.tap with instr := .extest, driving := true, floating := false } s.tap.cells
        ∧ gives .clamp { s.tap with instr := .clamp, driving := true, floating := false } [false]
        ∧ gives .highz { s.tap with instr := .highz, driving := false, floating := true } [false])
      ∧ (s.aoc.mode ≠ .reset → ∀ i ∈ [Instr.extest, .clamp, .highz], gives i { free with instr := .bypass } [false]))


/-! ### The block -/

/-- The step of the block: the command at the front of the queue is executed with the queue's rest; an empty queue idles (the model's
own choice, log entry 10). -/
def Obligations.StepRunsTheFront : Prop :=
  (∀ (c : Instr) (s : State), step { s with pending := c :: s.pending } = exec c s) ∧ ∀ s : State, s.pending = [] → step s = .next s

/-- Whatever the command and the state, a step ends in a next state; it takes exactly the command at the front of the queue, and no
command changes the fuses (R408). -/
def Obligations.QueueAndFuses : Prop :=
  ∀ s : State, ∃ t, step s = .next t ∧ t.pending = s.pending.tail ∧ t.fuses = s.fuses

/-- R472: after reset every register field of the control space reads its reset column, and nothing is stored, queued or running (that
last part by the model's own choice where the spec gives no value: log entry 2). -/
def Obligations.AfterReset : Prop :=
  (∀ (r : Reg) (f : FieldSpec), f ∈ r.fields → wordField (State.reset.reg r) f.lo f.width = f.rst)
  ∧ State.reset.aoc.mode = .reset ∧ (∀ a, memGet State.reset.mem a = 0) ∧ State.reset.pending = [] ∧ State.reset.jobs = [] ∧ State.reset.aoc.alertMask = 0x3F

/-- R485 to R487: a device held in reset stays so, with nothing stored or running (log entry 2 for what the spec gives no reset value),
until a step takes the release of PORST_N. -/
def Obligations.ResetHolds : Prop :=
  let inv (s : State) : Prop := s.aoc.mode = .reset ∧ s = { State.reset with
    pending := s.pending, clock := s.clock, tx := s.tx, fuses := s.fuses, flash := s.flash, saves := s.saves, tap := s.tap, aoc := s.aoc }
  inv State.reset ∧ ∀ s t : State, inv s → (∀ env, s.pending.head? ≠ some (.porstNRelease env)) → step s = .next t → inv t
end

