-- ==== Sys2Proof/Laws/State.lean ====
section
/-! SUPPORT. What each update of the state leaves alone, one lemma for each field, so that no proof unfolds a record update. -/
namespace Sys2Proof.Machine

set_option Elab.async false

variable (s : State)

/-! #### setReg -/
@[simp] theorem State.setReg_pending (r : Reg) (w : Word) : (s.setReg r w).pending = s.pending := rfl
@[simp] theorem State.setReg_clock (r : Reg) (w : Word) : (s.setReg r w).clock = s.clock := rfl
@[simp] theorem State.setReg_tx (r : Reg) (w : Word) : (s.setReg r w).tx = s.tx := rfl
@[simp] theorem State.setReg_mem (r : Reg) (w : Word) : (s.setReg r w).mem = s.mem := rfl
@[simp] theorem State.setReg_poison (r : Reg) (w : Word) : (s.setReg r w).poison = s.poison := rfl
@[simp] theorem State.setReg_upsets (r : Reg) (w : Word) : (s.setReg r w).upsets = s.upsets := rfl
@[simp] theorem State.setReg_pages (r : Reg) (w : Word) : (s.setReg r w).pages = s.pages := rfl
@[simp] theorem State.setReg_fills (r : Reg) (w : Word) : (s.setReg r w).fills = s.fills := rfl
@[simp] theorem State.setReg_accessNo (r : Reg) (w : Word) : (s.setReg r w).accessNo = s.accessNo := rfl
@[simp] theorem State.setReg_lentPages (r : Reg) (w : Word) : (s.setReg r w).lentPages = s.lentPages := rfl
@[simp] theorem State.setReg_reclaims (r : Reg) (w : Word) : (s.setReg r w).reclaims = s.reclaims := rfl
@[simp] theorem State.setReg_lendPairs (r : Reg) (w : Word) : (s.setReg r w).lendPairs = s.lendPairs := rfl
@[simp] theorem State.setReg_streams (r : Reg) (w : Word) : (s.setReg r w).streams = s.streams := rfl
@[simp] theorem State.setReg_mapped (r : Reg) (w : Word) : (s.setReg r w).mapped = s.mapped := rfl
@[simp] theorem State.setReg_poolCut (r : Reg) (w : Word) : (s.setReg r w).poolCut = s.poolCut := rfl
@[simp] theorem State.setReg_mcgs (r : Reg) (w : Word) : (s.setReg r w).mcgs = s.mcgs := rfl
@[simp] theorem State.setReg_err (r : Reg) (w : Word) : (s.setReg r w).err = s.err := rfl
@[simp] theorem State.setReg_eps (r : Reg) (w : Word) : (s.setReg r w).eps = s.eps := rfl
@[simp] theorem State.setReg_hps (r : Reg) (w : Word) : (s.setReg r w).hps = s.hps := rfl
@[simp] theorem State.setReg_qps (r : Reg) (w : Word) : (s.setReg r w).qps = s.qps := rfl
@[simp] theorem State.setReg_requests (r : Reg) (w : Word) : (s.setReg r w).requests = s.requests := rfl
@[simp] theorem State.setReg_rde (r : Reg) (w : Word) : (s.setReg r w).rde = s.rde := rfl
@[simp] theorem State.setReg_jobs (r : Reg) (w : Word) : (s.setReg r w).jobs = s.jobs := rfl
@[simp] theorem State.setReg_sqs (r : Reg) (w : Word) : (s.setReg r w).sqs = s.sqs := rfl
@[simp] theorem State.setReg_engs (r : Reg) (w : Word) : (s.setReg r w).engs = s.engs := rfl
@[simp] theorem State.setReg_ves (r : Reg) (w : Word) : (s.setReg r w).ves = s.ves := rfl
@[simp] theorem State.setReg_rings (r : Reg) (w : Word) : (s.setReg r w).rings = s.rings := rfl
@[simp] theorem State.setReg_layerAcc (r : Reg) (w : Word) : (s.setReg r w).layerAcc = s.layerAcc := rfl
@[simp] theorem State.setReg_stashes (r : Reg) (w : Word) : (s.setReg r w).stashes = s.stashes := rfl
@[simp] theorem State.setReg_histories (r : Reg) (w : Word) : (s.setReg r w).histories = s.histories := rfl
@[simp] theorem State.setReg_saves (r : Reg) (w : Word) : (s.setReg r w).saves = s.saves := rfl
@[simp] theorem State.setReg_gens (r : Reg) (w : Word) : (s.setReg r w).gens = s.gens := rfl
@[simp] theorem State.setReg_cx (r : Reg) (w : Word) : (s.setReg r w).cx = s.cx := rfl
@[simp] theorem State.setReg_stalled (r : Reg) (w : Word) : (s.setReg r w).stalled = s.stalled := rfl
@[simp] theorem State.setReg_sec (r : Reg) (w : Word) : (s.setReg r w).sec = s.sec := rfl
@[simp] theorem State.setReg_fuses (r : Reg) (w : Word) : (s.setReg r w).fuses = s.fuses := rfl
@[simp] theorem State.setReg_flash (r : Reg) (w : Word) : (s.setReg r w).flash = s.flash := rfl
@[simp] theorem State.setReg_cfg (r : Reg) (w : Word) : (s.setReg r w).cfg = s.cfg := rfl
@[simp] theorem State.setReg_fw (r : Reg) (w : Word) : (s.setReg r w).fw = s.fw := rfl
@[simp] theorem State.setReg_aoc (r : Reg) (w : Word) : (s.setReg r w).aoc = s.aoc := rfl
@[simp] theorem State.setReg_tap (r : Reg) (w : Word) : (s.setReg r w).tap = s.tap := rfl

/-! #### setFld -/
@[simp] theorem State.setFld_pending (f : Fld) (v : Nat) : (s.setFld f v).pending = s.pending := rfl
@[simp] theorem State.setFld_clock (f : Fld) (v : Nat) : (s.setFld f v).clock = s.clock := rfl
@[simp] theorem State.setFld_tx (f : Fld) (v : Nat) : (s.setFld f v).tx = s.tx := rfl
@[simp] theorem State.setFld_mem (f : Fld) (v : Nat) : (s.setFld f v).mem = s.mem := rfl
@[simp] theorem State.setFld_poison (f : Fld) (v : Nat) : (s.setFld f v).poison = s.poison := rfl
@[simp] theorem State.setFld_upsets (f : Fld) (v : Nat) : (s.setFld f v).upsets = s.upsets := rfl
@[simp] theorem State.setFld_pages (f : Fld) (v : Nat) : (s.setFld f v).pages = s.pages := rfl
@[simp] theorem State.setFld_fills (f : Fld) (v : Nat) : (s.setFld f v).fills = s.fills := rfl
@[simp] theorem State.setFld_accessNo (f : Fld) (v : Nat) : (s.setFld f v).accessNo = s.accessNo := rfl
@[simp] theorem State.setFld_lentPages (f : Fld) (v : Nat) : (s.setFld f v).lentPages = s.lentPages := rfl
@[simp] theorem State.setFld_reclaims (f : Fld) (v : Nat) : (s.setFld f v).reclaims = s.reclaims := rfl
@[simp] theorem State.setFld_lendPairs (f : Fld) (v : Nat) : (s.setFld f v).lendPairs = s.lendPairs := rfl
@[simp] theorem State.setFld_streams (f : Fld) (v : Nat) : (s.setFld f v).streams = s.streams := rfl
@[simp] theorem State.setFld_mapped (f : Fld) (v : Nat) : (s.setFld f v).mapped = s.mapped := rfl
@[simp] theorem State.setFld_poolCut (f : Fld) (v : Nat) : (s.setFld f v).poolCut = s.poolCut := rfl
@[simp] theorem State.setFld_mcgs (f : Fld) (v : Nat) : (s.setFld f v).mcgs = s.mcgs := rfl
@[simp] theorem State.setFld_err (f : Fld) (v : Nat) : (s.setFld f v).err = s.err := rfl
@[simp] theorem State.setFld_eps (f : Fld) (v : Nat) : (s.setFld f v).eps = s.eps := rfl
@[simp] theorem State.setFld_hps (f : Fld) (v : Nat) : (s.setFld f v).hps = s.hps := rfl
@[simp] theorem State.setFld_qps (f : Fld) (v : Nat) : (s.setFld f v).qps = s.qps := rfl
@[simp] theorem State.setFld_requests (f : Fld) (v : Nat) : (s.setFld f v).requests = s.requests := rfl
@[simp] theorem State.setFld_rde (f : Fld) (v : Nat) : (s.setFld f v).rde = s.rde := rfl
@[simp] theorem State.setFld_jobs (f : Fld) (v : Nat) : (s.setFld f v).jobs = s.jobs := rfl
@[simp] theorem State.setFld_sqs (f : Fld) (v : Nat) : (s.setFld f v).sqs = s.sqs := rfl
@[simp] theorem State.setFld_engs (f : Fld) (v : Nat) : (s.setFld f v).engs = s.engs := rfl
@[simp] theorem State.setFld_ves (f : Fld) (v : Nat) : (s.setFld f v).ves = s.ves := rfl
@[simp] theorem State.setFld_rings (f : Fld) (v : Nat) : (s.setFld f v).rings = s.rings := rfl
@[simp] theorem State.setFld_layerAcc (f : Fld) (v : Nat) : (s.setFld f v).layerAcc = s.layerAcc := rfl
@[simp] theorem State.setFld_stashes (f : Fld) (v : Nat) : (s.setFld f v).stashes = s.stashes := rfl
@[simp] theorem State.setFld_histories (f : Fld) (v : Nat) : (s.setFld f v).histories = s.histories := rfl
@[simp] theorem State.setFld_saves (f : Fld) (v : Nat) : (s.setFld f v).saves = s.saves := rfl
@[simp] theorem State.setFld_gens (f : Fld) (v : Nat) : (s.setFld f v).gens = s.gens := rfl
@[simp] theorem State.setFld_cx (f : Fld) (v : Nat) : (s.setFld f v).cx = s.cx := rfl
@[simp] theorem State.setFld_stalled (f : Fld) (v : Nat) : (s.setFld f v).stalled = s.stalled := rfl
@[simp] theorem State.setFld_sec (f : Fld) (v : Nat) : (s.setFld f v).sec = s.sec := rfl
@[simp] theorem State.setFld_fuses (f : Fld) (v : Nat) : (s.setFld f v).fuses = s.fuses := rfl
@[simp] theorem State.setFld_flash (f : Fld) (v : Nat) : (s.setFld f v).flash = s.flash := rfl
@[simp] theorem State.setFld_cfg (f : Fld) (v : Nat) : (s.setFld f v).cfg = s.cfg := rfl
@[simp] theorem State.setFld_fw (f : Fld) (v : Nat) : (s.setFld f v).fw = s.fw := rfl
@[simp] theorem State.setFld_aoc (f : Fld) (v : Nat) : (s.setFld f v).aoc = s.aoc := rfl
@[simp] theorem State.setFld_tap (f : Fld) (v : Nat) : (s.setFld f v).tap = s.tap := rfl

/-! #### bump -/
@[simp] theorem State.bump_pending (f : Fld) (n : Nat) : (s.bump f n).pending = s.pending := rfl
@[simp] theorem State.bump_clock (f : Fld) (n : Nat) : (s.bump f n).clock = s.clock := rfl
@[simp] theorem State.bump_tx (f : Fld) (n : Nat) : (s.bump f n).tx = s.tx := rfl
@[simp] theorem State.bump_mem (f : Fld) (n : Nat) : (s.bump f n).mem = s.mem := rfl
@[simp] theorem State.bump_poison (f : Fld) (n : Nat) : (s.bump f n).poison = s.poison := rfl
@[simp] theorem State.bump_upsets (f : Fld) (n : Nat) : (s.bump f n).upsets = s.upsets := rfl
@[simp] theorem State.bump_pages (f : Fld) (n : Nat) : (s.bump f n).pages = s.pages := rfl
@[simp] theorem State.bump_fills (f : Fld) (n : Nat) : (s.bump f n).fills = s.fills := rfl
@[simp] theorem State.bump_accessNo (f : Fld) (n : Nat) : (s.bump f n).accessNo = s.accessNo := rfl
@[simp] theorem State.bump_lentPages (f : Fld) (n : Nat) : (s.bump f n).lentPages = s.lentPages := rfl
@[simp] theorem State.bump_reclaims (f : Fld) (n : Nat) : (s.bump f n).reclaims = s.reclaims := rfl
@[simp] theorem State.bump_lendPairs (f : Fld) (n : Nat) : (s.bump f n).lendPairs = s.lendPairs := rfl
@[simp] theorem State.bump_streams (f : Fld) (n : Nat) : (s.bump f n).streams = s.streams := rfl
@[simp] theorem State.bump_mapped (f : Fld) (n : Nat) : (s.bump f n).mapped = s.mapped := rfl
@[simp] theorem State.bump_poolCut (f : Fld) (n : Nat) : (s.bump f n).poolCut = s.poolCut := rfl
@[simp] theorem State.bump_mcgs (f : Fld) (n : Nat) : (s.bump f n).mcgs = s.mcgs := rfl
@[simp] theorem State.bump_err (f : Fld) (n : Nat) : (s.bump f n).err = s.err := rfl
@[simp] theorem State.bump_eps (f : Fld) (n : Nat) : (s.bump f n).eps = s.eps := rfl
@[simp] theorem State.bump_hps (f : Fld) (n : Nat) : (s.bump f n).hps = s.hps := rfl
@[simp] theorem State.bump_qps (f : Fld) (n : Nat) : (s.bump f n).qps = s.qps := rfl
@[simp] theorem State.bump_requests (f : Fld) (n : Nat) : (s.bump f n).requests = s.requests := rfl
@[simp] theorem State.bump_rde (f : Fld) (n : Nat) : (s.bump f n).rde = s.rde := rfl
@[simp] theorem State.bump_jobs (f : Fld) (n : Nat) : (s.bump f n).jobs = s.jobs := rfl
@[simp] theorem State.bump_sqs (f : Fld) (n : Nat) : (s.bump f n).sqs = s.sqs := rfl
@[simp] theorem State.bump_engs (f : Fld) (n : Nat) : (s.bump f n).engs = s.engs := rfl
@[simp] theorem State.bump_ves (f : Fld) (n : Nat) : (s.bump f n).ves = s.ves := rfl
@[simp] theorem State.bump_rings (f : Fld) (n : Nat) : (s.bump f n).rings = s.rings := rfl
@[simp] theorem State.bump_layerAcc (f : Fld) (n : Nat) : (s.bump f n).layerAcc = s.layerAcc := rfl
@[simp] theorem State.bump_stashes (f : Fld) (n : Nat) : (s.bump f n).stashes = s.stashes := rfl
@[simp] theorem State.bump_histories (f : Fld) (n : Nat) : (s.bump f n).histories = s.histories := rfl
@[simp] theorem State.bump_saves (f : Fld) (n : Nat) : (s.bump f n).saves = s.saves := rfl
@[simp] theorem State.bump_gens (f : Fld) (n : Nat) : (s.bump f n).gens = s.gens := rfl
@[simp] theorem State.bump_cx (f : Fld) (n : Nat) : (s.bump f n).cx = s.cx := rfl
@[simp] theorem State.bump_stalled (f : Fld) (n : Nat) : (s.bump f n).stalled = s.stalled := rfl
@[simp] theorem State.bump_sec (f : Fld) (n : Nat) : (s.bump f n).sec = s.sec := rfl
@[simp] theorem State.bump_fuses (f : Fld) (n : Nat) : (s.bump f n).fuses = s.fuses := rfl
@[simp] theorem State.bump_flash (f : Fld) (n : Nat) : (s.bump f n).flash = s.flash := rfl
@[simp] theorem State.bump_cfg (f : Fld) (n : Nat) : (s.bump f n).cfg = s.cfg := rfl
@[simp] theorem State.bump_fw (f : Fld) (n : Nat) : (s.bump f n).fw = s.fw := rfl
@[simp] theorem State.bump_aoc (f : Fld) (n : Nat) : (s.bump f n).aoc = s.aoc := rfl
@[simp] theorem State.bump_tap (f : Fld) (n : Nat) : (s.bump f n).tap = s.tap := rfl

/-! #### setJob -/
@[simp] theorem State.setJob_pending (k : Nat) (j : Job) : (s.setJob k j).pending = s.pending := rfl
@[simp] theorem State.setJob_clock (k : Nat) (j : Job) : (s.setJob k j).clock = s.clock := rfl
@[simp] theorem State.setJob_tx (k : Nat) (j : Job) : (s.setJob k j).tx = s.tx := rfl
@[simp] theorem State.setJob_regs (k : Nat) (j : Job) : (s.setJob k j).regs = s.regs := rfl
@[simp] theorem State.setJob_mem (k : Nat) (j : Job) : (s.setJob k j).mem = s.mem := rfl
@[simp] theorem State.setJob_poison (k : Nat) (j : Job) : (s.setJob k j).poison = s.poison := rfl
@[simp] theorem State.setJob_upsets (k : Nat) (j : Job) : (s.setJob k j).upsets = s.upsets := rfl
@[simp] theorem State.setJob_pages (k : Nat) (j : Job) : (s.setJob k j).pages = s.pages := rfl
@[simp] theorem State.setJob_fills (k : Nat) (j : Job) : (s.setJob k j).fills = s.fills := rfl
@[simp] theorem State.setJob_accessNo (k : Nat) (j : Job) : (s.setJob k j).accessNo = s.accessNo := rfl
@[simp] theorem State.setJob_lentPages (k : Nat) (j : Job) : (s.setJob k j).lentPages = s.lentPages := rfl
@[simp] theorem State.setJob_reclaims (k : Nat) (j : Job) : (s.setJob k j).reclaims = s.reclaims := rfl
@[simp] theorem State.setJob_lendPairs (k : Nat) (j : Job) : (s.setJob k j).lendPairs = s.lendPairs := rfl
@[simp] theorem State.setJob_streams (k : Nat) (j : Job) : (s.setJob k j).streams = s.streams := rfl
@[simp] theorem State.setJob_mapped (k : Nat) (j : Job) : (s.setJob k j).mapped = s.mapped := rfl
@[simp] theorem State.setJob_poolCut (k : Nat) (j : Job) : (s.setJob k j).poolCut = s.poolCut := rfl
@[simp] theorem State.setJob_mcgs (k : Nat) (j : Job) : (s.setJob k j).mcgs = s.mcgs := rfl
@[simp] theorem State.setJob_err (k : Nat) (j : Job) : (s.setJob k j).err = s.err := rfl
@[simp] theorem State.setJob_eps (k : Nat) (j : Job) : (s.setJob k j).eps = s.eps := rfl
@[simp] theorem State.setJob_hps (k : Nat) (j : Job) : (s.setJob k j).hps = s.hps := rfl
@[simp] theorem State.setJob_qps (k : Nat) (j : Job) : (s.setJob k j).qps = s.qps := rfl
@[simp] theorem State.setJob_requests (k : Nat) (j : Job) : (s.setJob k j).requests = s.requests := rfl
@[simp] theorem State.setJob_rde (k : Nat) (j : Job) : (s.setJob k j).rde = s.rde := rfl
@[simp] theorem State.setJob_sqs (k : Nat) (j : Job) : (s.setJob k j).sqs = s.sqs := rfl
@[simp] theorem State.setJob_engs (k : Nat) (j : Job) : (s.setJob k j).engs = s.engs := rfl
@[simp] theorem State.setJob_ves (k : Nat) (j : Job) : (s.setJob k j).ves = s.ves := rfl
@[simp] theorem State.setJob_rings (k : Nat) (j : Job) : (s.setJob k j).rings = s.rings := rfl
@[simp] theorem State.setJob_layerAcc (k : Nat) (j : Job) : (s.setJob k j).layerAcc = s.layerAcc := rfl
@[simp] theorem State.setJob_stashes (k : Nat) (j : Job) : (s.setJob k j).stashes = s.stashes := rfl
@[simp] theorem State.setJob_histories (k : Nat) (j : Job) : (s.setJob k j).histories = s.histories := rfl
@[simp] theorem State.setJob_saves (k : Nat) (j : Job) : (s.setJob k j).saves = s.saves := rfl
@[simp] theorem State.setJob_gens (k : Nat) (j : Job) : (s.setJob k j).gens = s.gens := rfl
@[simp] theorem State.setJob_cx (k : Nat) (j : Job) : (s.setJob k j).cx = s.cx := rfl
@[simp] theorem State.setJob_stalled (k : Nat) (j : Job) : (s.setJob k j).stalled = s.stalled := rfl
@[simp] theorem State.setJob_sec (k : Nat) (j : Job) : (s.setJob k j).sec = s.sec := rfl
@[simp] theorem State.setJob_fuses (k : Nat) (j : Job) : (s.setJob k j).fuses = s.fuses := rfl
@[simp] theorem State.setJob_flash (k : Nat) (j : Job) : (s.setJob k j).flash = s.flash := rfl
@[simp] theorem State.setJob_cfg (k : Nat) (j : Job) : (s.setJob k j).cfg = s.cfg := rfl
@[simp] theorem State.setJob_fw (k : Nat) (j : Job) : (s.setJob k j).fw = s.fw := rfl
@[simp] theorem State.setJob_aoc (k : Nat) (j : Job) : (s.setJob k j).aoc = s.aoc := rfl
@[simp] theorem State.setJob_tap (k : Nat) (j : Job) : (s.setJob k j).tap = s.tap := rfl

/-! #### setSq -/
@[simp] theorem State.setSq_pending (c : Nat) (x : Sq) : (s.setSq c x).pending = s.pending := rfl
@[simp] theorem State.setSq_clock (c : Nat) (x : Sq) : (s.setSq c x).clock = s.clock := rfl
@[simp] theorem State.setSq_tx (c : Nat) (x : Sq) : (s.setSq c x).tx = s.tx := rfl
@[simp] theorem State.setSq_regs (c : Nat) (x : Sq) : (s.setSq c x).regs = s.regs := rfl
@[simp] theorem State.setSq_mem (c : Nat) (x : Sq) : (s.setSq c x).mem = s.mem := rfl
@[simp] theorem State.setSq_poison (c : Nat) (x : Sq) : (s.setSq c x).poison = s.poison := rfl
@[simp] theorem State.setSq_upsets (c : Nat) (x : Sq) : (s.setSq c x).upsets = s.upsets := rfl
@[simp] theorem State.setSq_pages (c : Nat) (x : Sq) : (s.setSq c x).pages = s.pages := rfl
@[simp] theorem State.setSq_fills (c : Nat) (x : Sq) : (s.setSq c x).fills = s.fills := rfl
@[simp] theorem State.setSq_accessNo (c : Nat) (x : Sq) : (s.setSq c x).accessNo = s.accessNo := rfl
@[simp] theorem State.setSq_lentPages (c : Nat) (x : Sq) : (s.setSq c x).lentPages = s.lentPages := rfl
@[simp] theorem State.setSq_reclaims (c : Nat) (x : Sq) : (s.setSq c x).reclaims = s.reclaims := rfl
@[simp] theorem State.setSq_lendPairs (c : Nat) (x : Sq) : (s.setSq c x).lendPairs = s.lendPairs := rfl
@[simp] theorem State.setSq_streams (c : Nat) (x : Sq) : (s.setSq c x).streams = s.streams := rfl
@[simp] theorem State.setSq_mapped (c : Nat) (x : Sq) : (s.setSq c x).mapped = s.mapped := rfl
@[simp] theorem State.setSq_poolCut (c : Nat) (x : Sq) : (s.setSq c x).poolCut = s.poolCut := rfl
@[simp] theorem State.setSq_mcgs (c : Nat) (x : Sq) : (s.setSq c x).mcgs = s.mcgs := rfl
@[simp] theorem State.setSq_err (c : Nat) (x : Sq) : (s.setSq c x).err = s.err := rfl
@[simp] theorem State.setSq_eps (c : Nat) (x : Sq) : (s.setSq c x).eps = s.eps := rfl
@[simp] theorem State.setSq_hps (c : Nat) (x : Sq) : (s.setSq c x).hps = s.hps := rfl
@[simp] theorem State.setSq_qps (c : Nat) (x : Sq) : (s.setSq c x).qps = s.qps := rfl
@[simp] theorem State.setSq_requests (c : Nat) (x : Sq) : (s.setSq c x).requests = s.requests := rfl
@[simp] theorem State.setSq_rde (c : Nat) (x : Sq) : (s.setSq c x).rde = s.rde := rfl
@[simp] theorem State.setSq_jobs (c : Nat) (x : Sq) : (s.setSq c x).jobs = s.jobs := rfl
@[simp] theorem State.setSq_engs (c : Nat) (x : Sq) : (s.setSq c x).engs = s.engs := rfl
@[simp] theorem State.setSq_ves (c : Nat) (x : Sq) : (s.setSq c x).ves = s.ves := rfl
@[simp] theorem State.setSq_rings (c : Nat) (x : Sq) : (s.setSq c x).rings = s.rings := rfl
@[simp] theorem State.setSq_layerAcc (c : Nat) (x : Sq) : (s.setSq c x).layerAcc = s.layerAcc := rfl
@[simp] theorem State.setSq_stashes (c : Nat) (x : Sq) : (s.setSq c x).stashes = s.stashes := rfl
@[simp] theorem State.setSq_histories (c : Nat) (x : Sq) : (s.setSq c x).histories = s.histories := rfl
@[simp] theorem State.setSq_saves (c : Nat) (x : Sq) : (s.setSq c x).saves = s.saves := rfl
@[simp] theorem State.setSq_gens (c : Nat) (x : Sq) : (s.setSq c x).gens = s.gens := rfl
@[simp] theorem State.setSq_cx (c : Nat) (x : Sq) : (s.setSq c x).cx = s.cx := rfl
@[simp] theorem State.setSq_stalled (c : Nat) (x : Sq) : (s.setSq c x).stalled = s.stalled := rfl
@[simp] theorem State.setSq_sec (c : Nat) (x : Sq) : (s.setSq c x).sec = s.sec := rfl
@[simp] theorem State.setSq_fuses (c : Nat) (x : Sq) : (s.setSq c x).fuses = s.fuses := rfl
@[simp] theorem State.setSq_flash (c : Nat) (x : Sq) : (s.setSq c x).flash = s.flash := rfl
@[simp] theorem State.setSq_cfg (c : Nat) (x : Sq) : (s.setSq c x).cfg = s.cfg := rfl
@[simp] theorem State.setSq_fw (c : Nat) (x : Sq) : (s.setSq c x).fw = s.fw := rfl
@[simp] theorem State.setSq_aoc (c : Nat) (x : Sq) : (s.setSq c x).aoc = s.aoc := rfl
@[simp] theorem State.setSq_tap (c : Nat) (x : Sq) : (s.setSq c x).tap = s.tap := rfl

/-! #### setEng -/
@[simp] theorem State.setEng_pending (e : Nat) (x : Eng) : (s.setEng e x).pending = s.pending := rfl
@[simp] theorem State.setEng_clock (e : Nat) (x : Eng) : (s.setEng e x).clock = s.clock := rfl
@[simp] theorem State.setEng_tx (e : Nat) (x : Eng) : (s.setEng e x).tx = s.tx := rfl
@[simp] theorem State.setEng_regs (e : Nat) (x : Eng) : (s.setEng e x).regs = s.regs := rfl
@[simp] theorem State.setEng_mem (e : Nat) (x : Eng) : (s.setEng e x).mem = s.mem := rfl
@[simp] theorem State.setEng_poison (e : Nat) (x : Eng) : (s.setEng e x).poison = s.poison := rfl
@[simp] theorem State.setEng_upsets (e : Nat) (x : Eng) : (s.setEng e x).upsets = s.upsets := rfl
@[simp] theorem State.setEng_pages (e : Nat) (x : Eng) : (s.setEng e x).pages = s.pages := rfl
@[simp] theorem State.setEng_fills (e : Nat) (x : Eng) : (s.setEng e x).fills = s.fills := rfl
@[simp] theorem State.setEng_accessNo (e : Nat) (x : Eng) : (s.setEng e x).accessNo = s.accessNo := rfl
@[simp] theorem State.setEng_lentPages (e : Nat) (x : Eng) : (s.setEng e x).lentPages = s.lentPages := rfl
@[simp] theorem State.setEng_reclaims (e : Nat) (x : Eng) : (s.setEng e x).reclaims = s.reclaims := rfl
@[simp] theorem State.setEng_lendPairs (e : Nat) (x : Eng) : (s.setEng e x).lendPairs = s.lendPairs := rfl
@[simp] theorem State.setEng_streams (e : Nat) (x : Eng) : (s.setEng e x).streams = s.streams := rfl
@[simp] theorem State.setEng_mapped (e : Nat) (x : Eng) : (s.setEng e x).mapped = s.mapped := rfl
@[simp] theorem State.setEng_poolCut (e : Nat) (x : Eng) : (s.setEng e x).poolCut = s.poolCut := rfl
@[simp] theorem State.setEng_mcgs (e : Nat) (x : Eng) : (s.setEng e x).mcgs = s.mcgs := rfl
@[simp] theorem State.setEng_err (e : Nat) (x : Eng) : (s.setEng e x).err = s.err := rfl
@[simp] theorem State.setEng_eps (e : Nat) (x : Eng) : (s.setEng e x).eps = s.eps := rfl
@[simp] theorem State.setEng_hps (e : Nat) (x : Eng) : (s.setEng e x).hps = s.hps := rfl
@[simp] theorem State.setEng_qps (e : Nat) (x : Eng) : (s.setEng e x).qps = s.qps := rfl
@[simp] theorem State.setEng_requests (e : Nat) (x : Eng) : (s.setEng e x).requests = s.requests := rfl
@[simp] theorem State.setEng_rde (e : Nat) (x : Eng) : (s.setEng e x).rde = s.rde := rfl
@[simp] theorem State.setEng_jobs (e : Nat) (x : Eng) : (s.setEng e x).jobs = s.jobs := rfl
@[simp] theorem State.setEng_sqs (e : Nat) (x : Eng) : (s.setEng e x).sqs = s.sqs := rfl
@[simp] theorem State.setEng_ves (e : Nat) (x : Eng) : (s.setEng e x).ves = s.ves := rfl
@[simp] theorem State.setEng_rings (e : Nat) (x : Eng) : (s.setEng e x).rings = s.rings := rfl
@[simp] theorem State.setEng_layerAcc (e : Nat) (x : Eng) : (s.setEng e x).layerAcc = s.layerAcc := rfl
@[simp] theorem State.setEng_stashes (e : Nat) (x : Eng) : (s.setEng e x).stashes = s.stashes := rfl
@[simp] theorem State.setEng_histories (e : Nat) (x : Eng) : (s.setEng e x).histories = s.histories := rfl
@[simp] theorem State.setEng_saves (e : Nat) (x : Eng) : (s.setEng e x).saves = s.saves := rfl
@[simp] theorem State.setEng_gens (e : Nat) (x : Eng) : (s.setEng e x).gens = s.gens := rfl
@[simp] theorem State.setEng_cx (e : Nat) (x : Eng) : (s.setEng e x).cx = s.cx := rfl
@[simp] theorem State.setEng_stalled (e : Nat) (x : Eng) : (s.setEng e x).stalled = s.stalled := rfl
@[simp] theorem State.setEng_sec (e : Nat) (x : Eng) : (s.setEng e x).sec = s.sec := rfl
@[simp] theorem State.setEng_fuses (e : Nat) (x : Eng) : (s.setEng e x).fuses = s.fuses := rfl
@[simp] theorem State.setEng_flash (e : Nat) (x : Eng) : (s.setEng e x).flash = s.flash := rfl
@[simp] theorem State.setEng_cfg (e : Nat) (x : Eng) : (s.setEng e x).cfg = s.cfg := rfl
@[simp] theorem State.setEng_fw (e : Nat) (x : Eng) : (s.setEng e x).fw = s.fw := rfl
@[simp] theorem State.setEng_aoc (e : Nat) (x : Eng) : (s.setEng e x).aoc = s.aoc := rfl
@[simp] theorem State.setEng_tap (e : Nat) (x : Eng) : (s.setEng e x).tap = s.tap := rfl

/-! #### setVe -/
@[simp] theorem State.setVe_pending (c : Nat) (x : Ve) : (s.setVe c x).pending = s.pending := rfl
@[simp] theorem State.setVe_clock (c : Nat) (x : Ve) : (s.setVe c x).clock = s.clock := rfl
@[simp] theorem State.setVe_tx (c : Nat) (x : Ve) : (s.setVe c x).tx = s.tx := rfl
@[simp] theorem State.setVe_regs (c : Nat) (x : Ve) : (s.setVe c x).regs = s.regs := rfl
@[simp] theorem State.setVe_mem (c : Nat) (x : Ve) : (s.setVe c x).mem = s.mem := rfl
@[simp] theorem State.setVe_poison (c : Nat) (x : Ve) : (s.setVe c x).poison = s.poison := rfl
@[simp] theorem State.setVe_upsets (c : Nat) (x : Ve) : (s.setVe c x).upsets = s.upsets := rfl
@[simp] theorem State.setVe_pages (c : Nat) (x : Ve) : (s.setVe c x).pages = s.pages := rfl
@[simp] theorem State.setVe_fills (c : Nat) (x : Ve) : (s.setVe c x).fills = s.fills := rfl
@[simp] theorem State.setVe_accessNo (c : Nat) (x : Ve) : (s.setVe c x).accessNo = s.accessNo := rfl
@[simp] theorem State.setVe_lentPages (c : Nat) (x : Ve) : (s.setVe c x).lentPages = s.lentPages := rfl
@[simp] theorem State.setVe_reclaims (c : Nat) (x : Ve) : (s.setVe c x).reclaims = s.reclaims := rfl
@[simp] theorem State.setVe_lendPairs (c : Nat) (x : Ve) : (s.setVe c x).lendPairs = s.lendPairs := rfl
@[simp] theorem State.setVe_streams (c : Nat) (x : Ve) : (s.setVe c x).streams = s.streams := rfl
@[simp] theorem State.setVe_mapped (c : Nat) (x : Ve) : (s.setVe c x).mapped = s.mapped := rfl
@[simp] theorem State.setVe_poolCut (c : Nat) (x : Ve) : (s.setVe c x).poolCut = s.poolCut := rfl
@[simp] theorem State.setVe_mcgs (c : Nat) (x : Ve) : (s.setVe c x).mcgs = s.mcgs := rfl
@[simp] theorem State.setVe_err (c : Nat) (x : Ve) : (s.setVe c x).err = s.err := rfl
@[simp] theorem State.setVe_eps (c : Nat) (x : Ve) : (s.setVe c x).eps = s.eps := rfl
@[simp] theorem State.setVe_hps (c : Nat) (x : Ve) : (s.setVe c x).hps = s.hps := rfl
@[simp] theorem State.setVe_qps (c : Nat) (x : Ve) : (s.setVe c x).qps = s.qps := rfl
@[simp] theorem State.setVe_requests (c : Nat) (x : Ve) : (s.setVe c x).requests = s.requests := rfl
@[simp] theorem State.setVe_rde (c : Nat) (x : Ve) : (s.setVe c x).rde = s.rde := rfl
@[simp] theorem State.setVe_jobs (c : Nat) (x : Ve) : (s.setVe c x).jobs = s.jobs := rfl
@[simp] theorem State.setVe_sqs (c : Nat) (x : Ve) : (s.setVe c x).sqs = s.sqs := rfl
@[simp] theorem State.setVe_engs (c : Nat) (x : Ve) : (s.setVe c x).engs = s.engs := rfl
@[simp] theorem State.setVe_rings (c : Nat) (x : Ve) : (s.setVe c x).rings = s.rings := rfl
@[simp] theorem State.setVe_layerAcc (c : Nat) (x : Ve) : (s.setVe c x).layerAcc = s.layerAcc := rfl
@[simp] theorem State.setVe_stashes (c : Nat) (x : Ve) : (s.setVe c x).stashes = s.stashes := rfl
@[simp] theorem State.setVe_histories (c : Nat) (x : Ve) : (s.setVe c x).histories = s.histories := rfl
@[simp] theorem State.setVe_saves (c : Nat) (x : Ve) : (s.setVe c x).saves = s.saves := rfl
@[simp] theorem State.setVe_gens (c : Nat) (x : Ve) : (s.setVe c x).gens = s.gens := rfl
@[simp] theorem State.setVe_cx (c : Nat) (x : Ve) : (s.setVe c x).cx = s.cx := rfl
@[simp] theorem State.setVe_stalled (c : Nat) (x : Ve) : (s.setVe c x).stalled = s.stalled := rfl
@[simp] theorem State.setVe_sec (c : Nat) (x : Ve) : (s.setVe c x).sec = s.sec := rfl
@[simp] theorem State.setVe_fuses (c : Nat) (x : Ve) : (s.setVe c x).fuses = s.fuses := rfl
@[simp] theorem State.setVe_flash (c : Nat) (x : Ve) : (s.setVe c x).flash = s.flash := rfl
@[simp] theorem State.setVe_cfg (c : Nat) (x : Ve) : (s.setVe c x).cfg = s.cfg := rfl
@[simp] theorem State.setVe_fw (c : Nat) (x : Ve) : (s.setVe c x).fw = s.fw := rfl
@[simp] theorem State.setVe_aoc (c : Nat) (x : Ve) : (s.setVe c x).aoc = s.aoc := rfl
@[simp] theorem State.setVe_tap (c : Nat) (x : Ve) : (s.setVe c x).tap = s.tap := rfl

/-! #### setEp -/
@[simp] theorem State.setEp_pending (e : Nat) (x : Ep) : (s.setEp e x).pending = s.pending := rfl
@[simp] theorem State.setEp_clock (e : Nat) (x : Ep) : (s.setEp e x).clock = s.clock := rfl
@[simp] theorem State.setEp_tx (e : Nat) (x : Ep) : (s.setEp e x).tx = s.tx := rfl
@[simp] theorem State.setEp_regs (e : Nat) (x : Ep) : (s.setEp e x).regs = s.regs := rfl
@[simp] theorem State.setEp_mem (e : Nat) (x : Ep) : (s.setEp e x).mem = s.mem := rfl
@[simp] theorem State.setEp_poison (e : Nat) (x : Ep) : (s.setEp e x).poison = s.poison := rfl
@[simp] theorem State.setEp_upsets (e : Nat) (x : Ep) : (s.setEp e x).upsets = s.upsets := rfl
@[simp] theorem State.setEp_pages (e : Nat) (x : Ep) : (s.setEp e x).pages = s.pages := rfl
@[simp] theorem State.setEp_fills (e : Nat) (x : Ep) : (s.setEp e x).fills = s.fills := rfl
@[simp] theorem State.setEp_accessNo (e : Nat) (x : Ep) : (s.setEp e x).accessNo = s.accessNo := rfl
@[simp] theorem State.setEp_lentPages (e : Nat) (x : Ep) : (s.setEp e x).lentPages = s.lentPages := rfl
@[simp] theorem State.setEp_reclaims (e : Nat) (x : Ep) : (s.setEp e x).reclaims = s.reclaims := rfl
@[simp] theorem State.setEp_lendPairs (e : Nat) (x : Ep) : (s.setEp e x).lendPairs = s.lendPairs := rfl
@[simp] theorem State.setEp_streams (e : Nat) (x : Ep) : (s.setEp e x).streams = s.streams := rfl
@[simp] theorem State.setEp_mapped (e : Nat) (x : Ep) : (s.setEp e x).mapped = s.mapped := rfl
@[simp] theorem State.setEp_poolCut (e : Nat) (x : Ep) : (s.setEp e x).poolCut = s.poolCut := rfl
@[simp] theorem State.setEp_mcgs (e : Nat) (x : Ep) : (s.setEp e x).mcgs = s.mcgs := rfl
@[simp] theorem State.setEp_err (e : Nat) (x : Ep) : (s.setEp e x).err = s.err := rfl
@[simp] theorem State.setEp_hps (e : Nat) (x : Ep) : (s.setEp e x).hps = s.hps := rfl
@[simp] theorem State.setEp_qps (e : Nat) (x : Ep) : (s.setEp e x).qps = s.qps := rfl
@[simp] theorem State.setEp_requests (e : Nat) (x : Ep) : (s.setEp e x).requests = s.requests := rfl
@[simp] theorem State.setEp_rde (e : Nat) (x : Ep) : (s.setEp e x).rde = s.rde := rfl
@[simp] theorem State.setEp_jobs (e : Nat) (x : Ep) : (s.setEp e x).jobs = s.jobs := rfl
@[simp] theorem State.setEp_sqs (e : Nat) (x : Ep) : (s.setEp e x).sqs = s.sqs := rfl
@[simp] theorem State.setEp_engs (e : Nat) (x : Ep) : (s.setEp e x).engs = s.engs := rfl
@[simp] theorem State.setEp_ves (e : Nat) (x : Ep) : (s.setEp e x).ves = s.ves := rfl
@[simp] theorem State.setEp_rings (e : Nat) (x : Ep) : (s.setEp e x).rings = s.rings := rfl
@[simp] theorem State.setEp_layerAcc (e : Nat) (x : Ep) : (s.setEp e x).layerAcc = s.layerAcc := rfl
@[simp] theorem State.setEp_stashes (e : Nat) (x : Ep) : (s.setEp e x).stashes = s.stashes := rfl
@[simp] theorem State.setEp_histories (e : Nat) (x : Ep) : (s.setEp e x).histories = s.histories := rfl
@[simp] theorem State.setEp_saves (e : Nat) (x : Ep) : (s.setEp e x).saves = s.saves := rfl
@[simp] theorem State.setEp_gens (e : Nat) (x : Ep) : (s.setEp e x).gens = s.gens := rfl
@[simp] theorem State.setEp_cx (e : Nat) (x : Ep) : (s.setEp e x).cx = s.cx := rfl
@[simp] theorem State.setEp_stalled (e : Nat) (x : Ep) : (s.setEp e x).stalled = s.stalled := rfl
@[simp] theorem State.setEp_sec (e : Nat) (x : Ep) : (s.setEp e x).sec = s.sec := rfl
@[simp] theorem State.setEp_fuses (e : Nat) (x : Ep) : (s.setEp e x).fuses = s.fuses := rfl
@[simp] theorem State.setEp_flash (e : Nat) (x : Ep) : (s.setEp e x).flash = s.flash := rfl
@[simp] theorem State.setEp_cfg (e : Nat) (x : Ep) : (s.setEp e x).cfg = s.cfg := rfl
@[simp] theorem State.setEp_fw (e : Nat) (x : Ep) : (s.setEp e x).fw = s.fw := rfl
@[simp] theorem State.setEp_aoc (e : Nat) (x : Ep) : (s.setEp e x).aoc = s.aoc := rfl
@[simp] theorem State.setEp_tap (e : Nat) (x : Ep) : (s.setEp e x).tap = s.tap := rfl

/-! #### setHp -/
@[simp] theorem State.setHp_pending (h : Nat) (x : Hp) : (s.setHp h x).pending = s.pending := rfl
@[simp] theorem State.setHp_clock (h : Nat) (x : Hp) : (s.setHp h x).clock = s.clock := rfl
@[simp] theorem State.setHp_tx (h : Nat) (x : Hp) : (s.setHp h x).tx = s.tx := rfl
@[simp] theorem State.setHp_regs (h : Nat) (x : Hp) : (s.setHp h x).regs = s.regs := rfl
@[simp] theorem State.setHp_mem (h : Nat) (x : Hp) : (s.setHp h x).mem = s.mem := rfl
@[simp] theorem State.setHp_poison (h : Nat) (x : Hp) : (s.setHp h x).poison = s.poison := rfl
@[simp] theorem State.setHp_upsets (h : Nat) (x : Hp) : (s.setHp h x).upsets = s.upsets := rfl
@[simp] theorem State.setHp_pages (h : Nat) (x : Hp) : (s.setHp h x).pages = s.pages := rfl
@[simp] theorem State.setHp_fills (h : Nat) (x : Hp) : (s.setHp h x).fills = s.fills := rfl
@[simp] theorem State.setHp_accessNo (h : Nat) (x : Hp) : (s.setHp h x).accessNo = s.accessNo := rfl
@[simp] theorem State.setHp_lentPages (h : Nat) (x : Hp) : (s.setHp h x).lentPages = s.lentPages := rfl
@[simp] theorem State.setHp_reclaims (h : Nat) (x : Hp) : (s.setHp h x).reclaims = s.reclaims := rfl
@[simp] theorem State.setHp_lendPairs (h : Nat) (x : Hp) : (s.setHp h x).lendPairs = s.lendPairs := rfl
@[simp] theorem State.setHp_streams (h : Nat) (x : Hp) : (s.setHp h x).streams = s.streams := rfl
@[simp] theorem State.setHp_mapped (h : Nat) (x : Hp) : (s.setHp h x).mapped = s.mapped := rfl
@[simp] theorem State.setHp_poolCut (h : Nat) (x : Hp) : (s.setHp h x).poolCut = s.poolCut := rfl
@[simp] theorem State.setHp_mcgs (h : Nat) (x : Hp) : (s.setHp h x).mcgs = s.mcgs := rfl
@[simp] theorem State.setHp_err (h : Nat) (x : Hp) : (s.setHp h x).err = s.err := rfl
@[simp] theorem State.setHp_eps (h : Nat) (x : Hp) : (s.setHp h x).eps = s.eps := rfl
@[simp] theorem State.setHp_qps (h : Nat) (x : Hp) : (s.setHp h x).qps = s.qps := rfl
@[simp] theorem State.setHp_requests (h : Nat) (x : Hp) : (s.setHp h x).requests = s.requests := rfl
@[simp] theorem State.setHp_rde (h : Nat) (x : Hp) : (s.setHp h x).rde = s.rde := rfl
@[simp] theorem State.setHp_jobs (h : Nat) (x : Hp) : (s.setHp h x).jobs = s.jobs := rfl
@[simp] theorem State.setHp_sqs (h : Nat) (x : Hp) : (s.setHp h x).sqs = s.sqs := rfl
@[simp] theorem State.setHp_engs (h : Nat) (x : Hp) : (s.setHp h x).engs = s.engs := rfl
@[simp] theorem State.setHp_ves (h : Nat) (x : Hp) : (s.setHp h x).ves = s.ves := rfl
@[simp] theorem State.setHp_rings (h : Nat) (x : Hp) : (s.setHp h x).rings = s.rings := rfl
@[simp] theorem State.setHp_layerAcc (h : Nat) (x : Hp) : (s.setHp h x).layerAcc = s.layerAcc := rfl
@[simp] theorem State.setHp_stashes (h : Nat) (x : Hp) : (s.setHp h x).stashes = s.stashes := rfl
@[simp] theorem State.setHp_histories (h : Nat) (x : Hp) : (s.setHp h x).histories = s.histories := rfl
@[simp] theorem State.setHp_saves (h : Nat) (x : Hp) : (s.setHp h x).saves = s.saves := rfl
@[simp] theorem State.setHp_gens (h : Nat) (x : Hp) : (s.setHp h x).gens = s.gens := rfl
@[simp] theorem State.setHp_cx (h : Nat) (x : Hp) : (s.setHp h x).cx = s.cx := rfl
@[simp] theorem State.setHp_stalled (h : Nat) (x : Hp) : (s.setHp h x).stalled = s.stalled := rfl
@[simp] theorem State.setHp_sec (h : Nat) (x : Hp) : (s.setHp h x).sec = s.sec := rfl
@[simp] theorem State.setHp_fuses (h : Nat) (x : Hp) : (s.setHp h x).fuses = s.fuses := rfl
@[simp] theorem State.setHp_flash (h : Nat) (x : Hp) : (s.setHp h x).flash = s.flash := rfl
@[simp] theorem State.setHp_cfg (h : Nat) (x : Hp) : (s.setHp h x).cfg = s.cfg := rfl
@[simp] theorem State.setHp_fw (h : Nat) (x : Hp) : (s.setHp h x).fw = s.fw := rfl
@[simp] theorem State.setHp_aoc (h : Nat) (x : Hp) : (s.setHp h x).aoc = s.aoc := rfl
@[simp] theorem State.setHp_tap (h : Nat) (x : Hp) : (s.setHp h x).tap = s.tap := rfl

/-! #### setQp -/
@[simp] theorem State.setQp_pending (q : Nat) (x : Qp) : (s.setQp q x).pending = s.pending := rfl
@[simp] theorem State.setQp_clock (q : Nat) (x : Qp) : (s.setQp q x).clock = s.clock := rfl
@[simp] theorem State.setQp_tx (q : Nat) (x : Qp) : (s.setQp q x).tx = s.tx := rfl
@[simp] theorem State.setQp_regs (q : Nat) (x : Qp) : (s.setQp q x).regs = s.regs := rfl
@[simp] theorem State.setQp_mem (q : Nat) (x : Qp) : (s.setQp q x).mem = s.mem := rfl
@[simp] theorem State.setQp_poison (q : Nat) (x : Qp) : (s.setQp q x).poison = s.poison := rfl
@[simp] theorem State.setQp_upsets (q : Nat) (x : Qp) : (s.setQp q x).upsets = s.upsets := rfl
@[simp] theorem State.setQp_pages (q : Nat) (x : Qp) : (s.setQp q x).pages = s.pages := rfl
@[simp] theorem State.setQp_fills (q : Nat) (x : Qp) : (s.setQp q x).fills = s.fills := rfl
@[simp] theorem State.setQp_accessNo (q : Nat) (x : Qp) : (s.setQp q x).accessNo = s.accessNo := rfl
@[simp] theorem State.setQp_lentPages (q : Nat) (x : Qp) : (s.setQp q x).lentPages = s.lentPages := rfl
@[simp] theorem State.setQp_reclaims (q : Nat) (x : Qp) : (s.setQp q x).reclaims = s.reclaims := rfl
@[simp] theorem State.setQp_lendPairs (q : Nat) (x : Qp) : (s.setQp q x).lendPairs = s.lendPairs := rfl
@[simp] theorem State.setQp_streams (q : Nat) (x : Qp) : (s.setQp q x).streams = s.streams := rfl
@[simp] theorem State.setQp_mapped (q : Nat) (x : Qp) : (s.setQp q x).mapped = s.mapped := rfl
@[simp] theorem State.setQp_poolCut (q : Nat) (x : Qp) : (s.setQp q x).poolCut = s.poolCut := rfl
@[simp] theorem State.setQp_mcgs (q : Nat) (x : Qp) : (s.setQp q x).mcgs = s.mcgs := rfl
@[simp] theorem State.setQp_err (q : Nat) (x : Qp) : (s.setQp q x).err = s.err := rfl
@[simp] theorem State.setQp_eps (q : Nat) (x : Qp) : (s.setQp q x).eps = s.eps := rfl
@[simp] theorem State.setQp_hps (q : Nat) (x : Qp) : (s.setQp q x).hps = s.hps := rfl
@[simp] theorem State.setQp_requests (q : Nat) (x : Qp) : (s.setQp q x).requests = s.requests := rfl
@[simp] theorem State.setQp_rde (q : Nat) (x : Qp) : (s.setQp q x).rde = s.rde := rfl
@[simp] theorem State.setQp_jobs (q : Nat) (x : Qp) : (s.setQp q x).jobs = s.jobs := rfl
@[simp] theorem State.setQp_sqs (q : Nat) (x : Qp) : (s.setQp q x).sqs = s.sqs := rfl
@[simp] theorem State.setQp_engs (q : Nat) (x : Qp) : (s.setQp q x).engs = s.engs := rfl
@[simp] theorem State.setQp_ves (q : Nat) (x : Qp) : (s.setQp q x).ves = s.ves := rfl
@[simp] theorem State.setQp_rings (q : Nat) (x : Qp) : (s.setQp q x).rings = s.rings := rfl
@[simp] theorem State.setQp_layerAcc (q : Nat) (x : Qp) : (s.setQp q x).layerAcc = s.layerAcc := rfl
@[simp] theorem State.setQp_stashes (q : Nat) (x : Qp) : (s.setQp q x).stashes = s.stashes := rfl
@[simp] theorem State.setQp_histories (q : Nat) (x : Qp) : (s.setQp q x).histories = s.histories := rfl
@[simp] theorem State.setQp_saves (q : Nat) (x : Qp) : (s.setQp q x).saves = s.saves := rfl
@[simp] theorem State.setQp_gens (q : Nat) (x : Qp) : (s.setQp q x).gens = s.gens := rfl
@[simp] theorem State.setQp_cx (q : Nat) (x : Qp) : (s.setQp q x).cx = s.cx := rfl
@[simp] theorem State.setQp_stalled (q : Nat) (x : Qp) : (s.setQp q x).stalled = s.stalled := rfl
@[simp] theorem State.setQp_sec (q : Nat) (x : Qp) : (s.setQp q x).sec = s.sec := rfl
@[simp] theorem State.setQp_fuses (q : Nat) (x : Qp) : (s.setQp q x).fuses = s.fuses := rfl
@[simp] theorem State.setQp_flash (q : Nat) (x : Qp) : (s.setQp q x).flash = s.flash := rfl
@[simp] theorem State.setQp_cfg (q : Nat) (x : Qp) : (s.setQp q x).cfg = s.cfg := rfl
@[simp] theorem State.setQp_fw (q : Nat) (x : Qp) : (s.setQp q x).fw = s.fw := rfl
@[simp] theorem State.setQp_aoc (q : Nat) (x : Qp) : (s.setQp q x).aoc = s.aoc := rfl
@[simp] theorem State.setQp_tap (q : Nat) (x : Qp) : (s.setQp q x).tap = s.tap := rfl

/-! #### setMcg -/
@[simp] theorem State.setMcg_pending (g : Nat) (x : Mcg) : (s.setMcg g x).pending = s.pending := rfl
@[simp] theorem State.setMcg_clock (g : Nat) (x : Mcg) : (s.setMcg g x).clock = s.clock := rfl
@[simp] theorem State.setMcg_tx (g : Nat) (x : Mcg) : (s.setMcg g x).tx = s.tx := rfl
@[simp] theorem State.setMcg_regs (g : Nat) (x : Mcg) : (s.setMcg g x).regs = s.regs := rfl
@[simp] theorem State.setMcg_mem (g : Nat) (x : Mcg) : (s.setMcg g x).mem = s.mem := rfl
@[simp] theorem State.setMcg_poison (g : Nat) (x : Mcg) : (s.setMcg g x).poison = s.poison := rfl
@[simp] theorem State.setMcg_upsets (g : Nat) (x : Mcg) : (s.setMcg g x).upsets = s.upsets := rfl
@[simp] theorem State.setMcg_pages (g : Nat) (x : Mcg) : (s.setMcg g x).pages = s.pages := rfl
@[simp] theorem State.setMcg_fills (g : Nat) (x : Mcg) : (s.setMcg g x).fills = s.fills := rfl
@[simp] theorem State.setMcg_accessNo (g : Nat) (x : Mcg) : (s.setMcg g x).accessNo = s.accessNo := rfl
@[simp] theorem State.setMcg_lentPages (g : Nat) (x : Mcg) : (s.setMcg g x).lentPages = s.lentPages := rfl
@[simp] theorem State.setMcg_reclaims (g : Nat) (x : Mcg) : (s.setMcg g x).reclaims = s.reclaims := rfl
@[simp] theorem State.setMcg_lendPairs (g : Nat) (x : Mcg) : (s.setMcg g x).lendPairs = s.lendPairs := rfl
@[simp] theorem State.setMcg_streams (g : Nat) (x : Mcg) : (s.setMcg g x).streams = s.streams := rfl
@[simp] theorem State.setMcg_mapped (g : Nat) (x : Mcg) : (s.setMcg g x).mapped = s.mapped := rfl
@[simp] theorem State.setMcg_poolCut (g : Nat) (x : Mcg) : (s.setMcg g x).poolCut = s.poolCut := rfl
@[simp] theorem State.setMcg_err (g : Nat) (x : Mcg) : (s.setMcg g x).err = s.err := rfl
@[simp] theorem State.setMcg_eps (g : Nat) (x : Mcg) : (s.setMcg g x).eps = s.eps := rfl
@[simp] theorem State.setMcg_hps (g : Nat) (x : Mcg) : (s.setMcg g x).hps = s.hps := rfl
@[simp] theorem State.setMcg_qps (g : Nat) (x : Mcg) : (s.setMcg g x).qps = s.qps := rfl
@[simp] theorem State.setMcg_requests (g : Nat) (x : Mcg) : (s.setMcg g x).requests = s.requests := rfl
@[simp] theorem State.setMcg_rde (g : Nat) (x : Mcg) : (s.setMcg g x).rde = s.rde := rfl
@[simp] theorem State.setMcg_jobs (g : Nat) (x : Mcg) : (s.setMcg g x).jobs = s.jobs := rfl
@[simp] theorem State.setMcg_sqs (g : Nat) (x : Mcg) : (s.setMcg g x).sqs = s.sqs := rfl
@[simp] theorem State.setMcg_engs (g : Nat) (x : Mcg) : (s.setMcg g x).engs = s.engs := rfl
@[simp] theorem State.setMcg_ves (g : Nat) (x : Mcg) : (s.setMcg g x).ves = s.ves := rfl
@[simp] theorem State.setMcg_rings (g : Nat) (x : Mcg) : (s.setMcg g x).rings = s.rings := rfl
@[simp] theorem State.setMcg_layerAcc (g : Nat) (x : Mcg) : (s.setMcg g x).layerAcc = s.layerAcc := rfl
@[simp] theorem State.setMcg_stashes (g : Nat) (x : Mcg) : (s.setMcg g x).stashes = s.stashes := rfl
@[simp] theorem State.setMcg_histories (g : Nat) (x : Mcg) : (s.setMcg g x).histories = s.histories := rfl
@[simp] theorem State.setMcg_saves (g : Nat) (x : Mcg) : (s.setMcg g x).saves = s.saves := rfl
@[simp] theorem State.setMcg_gens (g : Nat) (x : Mcg) : (s.setMcg g x).gens = s.gens := rfl
@[simp] theorem State.setMcg_cx (g : Nat) (x : Mcg) : (s.setMcg g x).cx = s.cx := rfl
@[simp] theorem State.setMcg_stalled (g : Nat) (x : Mcg) : (s.setMcg g x).stalled = s.stalled := rfl
@[simp] theorem State.setMcg_sec (g : Nat) (x : Mcg) : (s.setMcg g x).sec = s.sec := rfl
@[simp] theorem State.setMcg_fuses (g : Nat) (x : Mcg) : (s.setMcg g x).fuses = s.fuses := rfl
@[simp] theorem State.setMcg_flash (g : Nat) (x : Mcg) : (s.setMcg g x).flash = s.flash := rfl
@[simp] theorem State.setMcg_cfg (g : Nat) (x : Mcg) : (s.setMcg g x).cfg = s.cfg := rfl
@[simp] theorem State.setMcg_fw (g : Nat) (x : Mcg) : (s.setMcg g x).fw = s.fw := rfl
@[simp] theorem State.setMcg_aoc (g : Nat) (x : Mcg) : (s.setMcg g x).aoc = s.aoc := rfl
@[simp] theorem State.setMcg_tap (g : Nat) (x : Mcg) : (s.setMcg g x).tap = s.tap := rfl

/-! #### setPage -/
@[simp] theorem State.setPage_pending (n : Nat) (x : Page) : (s.setPage n x).pending = s.pending := rfl
@[simp] theorem State.setPage_clock (n : Nat) (x : Page) : (s.setPage n x).clock = s.clock := rfl
@[simp] theorem State.setPage_tx (n : Nat) (x : Page) : (s.setPage n x).tx = s.tx := rfl
@[simp] theorem State.setPage_regs (n : Nat) (x : Page) : (s.setPage n x).regs = s.regs := rfl
@[simp] theorem State.setPage_mem (n : Nat) (x : Page) : (s.setPage n x).mem = s.mem := rfl
@[simp] theorem State.setPage_poison (n : Nat) (x : Page) : (s.setPage n x).poison = s.poison := rfl
@[simp] theorem State.setPage_upsets (n : Nat) (x : Page) : (s.setPage n x).upsets = s.upsets := rfl
@[simp] theorem State.setPage_fills (n : Nat) (x : Page) : (s.setPage n x).fills = s.fills := rfl
@[simp] theorem State.setPage_accessNo (n : Nat) (x : Page) : (s.setPage n x).accessNo = s.accessNo := rfl
@[simp] theorem State.setPage_lentPages (n : Nat) (x : Page) : (s.setPage n x).lentPages = s.lentPages := rfl
@[simp] theorem State.setPage_reclaims (n : Nat) (x : Page) : (s.setPage n x).reclaims = s.reclaims := rfl
@[simp] theorem State.setPage_lendPairs (n : Nat) (x : Page) : (s.setPage n x).lendPairs = s.lendPairs := rfl
@[simp] theorem State.setPage_streams (n : Nat) (x : Page) : (s.setPage n x).streams = s.streams := rfl
@[simp] theorem State.setPage_mapped (n : Nat) (x : Page) : (s.setPage n x).mapped = s.mapped := rfl
@[simp] theorem State.setPage_poolCut (n : Nat) (x : Page) : (s.setPage n x).poolCut = s.poolCut := rfl
@[simp] theorem State.setPage_mcgs (n : Nat) (x : Page) : (s.setPage n x).mcgs = s.mcgs := rfl
@[simp] theorem State.setPage_err (n : Nat) (x : Page) : (s.setPage n x).err = s.err := rfl
@[simp] theorem State.setPage_eps (n : Nat) (x : Page) : (s.setPage n x).eps = s.eps := rfl
@[simp] theorem State.setPage_hps (n : Nat) (x : Page) : (s.setPage n x).hps = s.hps := rfl
@[simp] theorem State.setPage_qps (n : Nat) (x : Page) : (s.setPage n x).qps = s.qps := rfl
@[simp] theorem State.setPage_requests (n : Nat) (x : Page) : (s.setPage n x).requests = s.requests := rfl
@[simp] theorem State.setPage_rde (n : Nat) (x : Page) : (s.setPage n x).rde = s.rde := rfl
@[simp] theorem State.setPage_jobs (n : Nat) (x : Page) : (s.setPage n x).jobs = s.jobs := rfl
@[simp] theorem State.setPage_sqs (n : Nat) (x : Page) : (s.setPage n x).sqs = s.sqs := rfl
@[simp] theorem State.setPage_engs (n : Nat) (x : Page) : (s.setPage n x).engs = s.engs := rfl
@[simp] theorem State.setPage_ves (n : Nat) (x : Page) : (s.setPage n x).ves = s.ves := rfl
@[simp] theorem State.setPage_rings (n : Nat) (x : Page) : (s.setPage n x).rings = s.rings := rfl
@[simp] theorem State.setPage_layerAcc (n : Nat) (x : Page) : (s.setPage n x).layerAcc = s.layerAcc := rfl
@[simp] theorem State.setPage_stashes (n : Nat) (x : Page) : (s.setPage n x).stashes = s.stashes := rfl
@[simp] theorem State.setPage_histories (n : Nat) (x : Page) : (s.setPage n x).histories = s.histories := rfl
@[simp] theorem State.setPage_saves (n : Nat) (x : Page) : (s.setPage n x).saves = s.saves := rfl
@[simp] theorem State.setPage_gens (n : Nat) (x : Page) : (s.setPage n x).gens = s.gens := rfl
@[simp] theorem State.setPage_cx (n : Nat) (x : Page) : (s.setPage n x).cx = s.cx := rfl
@[simp] theorem State.setPage_stalled (n : Nat) (x : Page) : (s.setPage n x).stalled = s.stalled := rfl
@[simp] theorem State.setPage_sec (n : Nat) (x : Page) : (s.setPage n x).sec = s.sec := rfl
@[simp] theorem State.setPage_fuses (n : Nat) (x : Page) : (s.setPage n x).fuses = s.fuses := rfl
@[simp] theorem State.setPage_flash (n : Nat) (x : Page) : (s.setPage n x).flash = s.flash := rfl
@[simp] theorem State.setPage_cfg (n : Nat) (x : Page) : (s.setPage n x).cfg = s.cfg := rfl
@[simp] theorem State.setPage_fw (n : Nat) (x : Page) : (s.setPage n x).fw = s.fw := rfl
@[simp] theorem State.setPage_aoc (n : Nat) (x : Page) : (s.setPage n x).aoc = s.aoc := rfl
@[simp] theorem State.setPage_tap (n : Nat) (x : Page) : (s.setPage n x).tap = s.tap := rfl

/-! #### setCxp -/
@[simp] theorem State.setCxp_pending (p : Nat) (x : CxPart) : (s.setCxp p x).pending = s.pending := rfl
@[simp] theorem State.setCxp_clock (p : Nat) (x : CxPart) : (s.setCxp p x).clock = s.clock := rfl
@[simp] theorem State.setCxp_tx (p : Nat) (x : CxPart) : (s.setCxp p x).tx = s.tx := rfl
@[simp] theorem State.setCxp_regs (p : Nat) (x : CxPart) : (s.setCxp p x).regs = s.regs := rfl
@[simp] theorem State.setCxp_mem (p : Nat) (x : CxPart) : (s.setCxp p x).mem = s.mem := rfl
@[simp] theorem State.setCxp_poison (p : Nat) (x : CxPart) : (s.setCxp p x).poison = s.poison := rfl
@[simp] theorem State.setCxp_upsets (p : Nat) (x : CxPart) : (s.setCxp p x).upsets = s.upsets := rfl
@[simp] theorem State.setCxp_pages (p : Nat) (x : CxPart) : (s.setCxp p x).pages = s.pages := rfl
@[simp] theorem State.setCxp_fills (p : Nat) (x : CxPart) : (s.setCxp p x).fills = s.fills := rfl
@[simp] theorem State.setCxp_accessNo (p : Nat) (x : CxPart) : (s.setCxp p x).accessNo = s.accessNo := rfl
@[simp] theorem State.setCxp_lentPages (p : Nat) (x : CxPart) : (s.setCxp p x).lentPages = s.lentPages := rfl
@[simp] theorem State.setCxp_reclaims (p : Nat) (x : CxPart) : (s.setCxp p x).reclaims = s.reclaims := rfl
@[simp] theorem State.setCxp_lendPairs (p : Nat) (x : CxPart) : (s.setCxp p x).lendPairs = s.lendPairs := rfl
@[simp] theorem State.setCxp_streams (p : Nat) (x : CxPart) : (s.setCxp p x).streams = s.streams := rfl
@[simp] theorem State.setCxp_mapped (p : Nat) (x : CxPart) : (s.setCxp p x).mapped = s.mapped := rfl
@[simp] theorem State.setCxp_poolCut (p : Nat) (x : CxPart) : (s.setCxp p x).poolCut = s.poolCut := rfl
@[simp] theorem State.setCxp_mcgs (p : Nat) (x : CxPart) : (s.setCxp p x).mcgs = s.mcgs := rfl
@[simp] theorem State.setCxp_err (p : Nat) (x : CxPart) : (s.setCxp p x).err = s.err := rfl
@[simp] theorem State.setCxp_eps (p : Nat) (x : CxPart) : (s.setCxp p x).eps = s.eps := rfl
@[simp] theorem State.setCxp_hps (p : Nat) (x : CxPart) : (s.setCxp p x).hps = s.hps := rfl
@[simp] theorem State.setCxp_qps (p : Nat) (x : CxPart) : (s.setCxp p x).qps = s.qps := rfl
@[simp] theorem State.setCxp_requests (p : Nat) (x : CxPart) : (s.setCxp p x).requests = s.requests := rfl
@[simp] theorem State.setCxp_rde (p : Nat) (x : CxPart) : (s.setCxp p x).rde = s.rde := rfl
@[simp] theorem State.setCxp_jobs (p : Nat) (x : CxPart) : (s.setCxp p x).jobs = s.jobs := rfl
@[simp] theorem State.setCxp_sqs (p : Nat) (x : CxPart) : (s.setCxp p x).sqs = s.sqs := rfl
@[simp] theorem State.setCxp_engs (p : Nat) (x : CxPart) : (s.setCxp p x).engs = s.engs := rfl
@[simp] theorem State.setCxp_ves (p : Nat) (x : CxPart) : (s.setCxp p x).ves = s.ves := rfl
@[simp] theorem State.setCxp_rings (p : Nat) (x : CxPart) : (s.setCxp p x).rings = s.rings := rfl
@[simp] theorem State.setCxp_layerAcc (p : Nat) (x : CxPart) : (s.setCxp p x).layerAcc = s.layerAcc := rfl
@[simp] theorem State.setCxp_stashes (p : Nat) (x : CxPart) : (s.setCxp p x).stashes = s.stashes := rfl
@[simp] theorem State.setCxp_histories (p : Nat) (x : CxPart) : (s.setCxp p x).histories = s.histories := rfl
@[simp] theorem State.setCxp_saves (p : Nat) (x : CxPart) : (s.setCxp p x).saves = s.saves := rfl
@[simp] theorem State.setCxp_gens (p : Nat) (x : CxPart) : (s.setCxp p x).gens = s.gens := rfl
@[simp] theorem State.setCxp_stalled (p : Nat) (x : CxPart) : (s.setCxp p x).stalled = s.stalled := rfl
@[simp] theorem State.setCxp_sec (p : Nat) (x : CxPart) : (s.setCxp p x).sec = s.sec := rfl
@[simp] theorem State.setCxp_fuses (p : Nat) (x : CxPart) : (s.setCxp p x).fuses = s.fuses := rfl
@[simp] theorem State.setCxp_flash (p : Nat) (x : CxPart) : (s.setCxp p x).flash = s.flash := rfl
@[simp] theorem State.setCxp_cfg (p : Nat) (x : CxPart) : (s.setCxp p x).cfg = s.cfg := rfl
@[simp] theorem State.setCxp_fw (p : Nat) (x : CxPart) : (s.setCxp p x).fw = s.fw := rfl
@[simp] theorem State.setCxp_aoc (p : Nat) (x : CxPart) : (s.setCxp p x).aoc = s.aoc := rfl
@[simp] theorem State.setCxp_tap (p : Nat) (x : CxPart) : (s.setCxp p x).tap = s.tap := rfl

/-! #### setBank -/
@[simp] theorem State.setBank_pending (b : Nat) (l : List ErrRec) : (s.setBank b l).pending = s.pending := rfl
@[simp] theorem State.setBank_clock (b : Nat) (l : List ErrRec) : (s.setBank b l).clock = s.clock := rfl
@[simp] theorem State.setBank_tx (b : Nat) (l : List ErrRec) : (s.setBank b l).tx = s.tx := rfl
@[simp] theorem State.setBank_regs (b : Nat) (l : List ErrRec) : (s.setBank b l).regs = s.regs := rfl
@[simp] theorem State.setBank_mem (b : Nat) (l : List ErrRec) : (s.setBank b l).mem = s.mem := rfl
@[simp] theorem State.setBank_poison (b : Nat) (l : List ErrRec) : (s.setBank b l).poison = s.poison := rfl
@[simp] theorem State.setBank_upsets (b : Nat) (l : List ErrRec) : (s.setBank b l).upsets = s.upsets := rfl
@[simp] theorem State.setBank_pages (b : Nat) (l : List ErrRec) : (s.setBank b l).pages = s.pages := rfl
@[simp] theorem State.setBank_fills (b : Nat) (l : List ErrRec) : (s.setBank b l).fills = s.fills := rfl
@[simp] theorem State.setBank_accessNo (b : Nat) (l : List ErrRec) : (s.setBank b l).accessNo = s.accessNo := rfl
@[simp] theorem State.setBank_lentPages (b : Nat) (l : List ErrRec) : (s.setBank b l).lentPages = s.lentPages := rfl
@[simp] theorem State.setBank_reclaims (b : Nat) (l : List ErrRec) : (s.setBank b l).reclaims = s.reclaims := rfl
@[simp] theorem State.setBank_lendPairs (b : Nat) (l : List ErrRec) : (s.setBank b l).lendPairs = s.lendPairs := rfl
@[simp] theorem State.setBank_streams (b : Nat) (l : List ErrRec) : (s.setBank b l).streams = s.streams := rfl
@[simp] theorem State.setBank_mapped (b : Nat) (l : List ErrRec) : (s.setBank b l).mapped = s.mapped := rfl
@[simp] theorem State.setBank_poolCut (b : Nat) (l : List ErrRec) : (s.setBank b l).poolCut = s.poolCut := rfl
@[simp] theorem State.setBank_mcgs (b : Nat) (l : List ErrRec) : (s.setBank b l).mcgs = s.mcgs := rfl
@[simp] theorem State.setBank_eps (b : Nat) (l : List ErrRec) : (s.setBank b l).eps = s.eps := rfl
@[simp] theorem State.setBank_hps (b : Nat) (l : List ErrRec) : (s.setBank b l).hps = s.hps := rfl
@[simp] theorem State.setBank_qps (b : Nat) (l : List ErrRec) : (s.setBank b l).qps = s.qps := rfl
@[simp] theorem State.setBank_requests (b : Nat) (l : List ErrRec) : (s.setBank b l).requests = s.requests := rfl
@[simp] theorem State.setBank_rde (b : Nat) (l : List ErrRec) : (s.setBank b l).rde = s.rde := rfl
@[simp] theorem State.setBank_jobs (b : Nat) (l : List ErrRec) : (s.setBank b l).jobs = s.jobs := rfl
@[simp] theorem State.setBank_sqs (b : Nat) (l : List ErrRec) : (s.setBank b l).sqs = s.sqs := rfl
@[simp] theorem State.setBank_engs (b : Nat) (l : List ErrRec) : (s.setBank b l).engs = s.engs := rfl
@[simp] theorem State.setBank_ves (b : Nat) (l : List ErrRec) : (s.setBank b l).ves = s.ves := rfl
@[simp] theorem State.setBank_rings (b : Nat) (l : List ErrRec) : (s.setBank b l).rings = s.rings := rfl
@[simp] theorem State.setBank_layerAcc (b : Nat) (l : List ErrRec) : (s.setBank b l).layerAcc = s.layerAcc := rfl
@[simp] theorem State.setBank_stashes (b : Nat) (l : List ErrRec) : (s.setBank b l).stashes = s.stashes := rfl
@[simp] theorem State.setBank_histories (b : Nat) (l : List ErrRec) : (s.setBank b l).histories = s.histories := rfl
@[simp] theorem State.setBank_saves (b : Nat) (l : List ErrRec) : (s.setBank b l).saves = s.saves := rfl
@[simp] theorem State.setBank_gens (b : Nat) (l : List ErrRec) : (s.setBank b l).gens = s.gens := rfl
@[simp] theorem State.setBank_cx (b : Nat) (l : List ErrRec) : (s.setBank b l).cx = s.cx := rfl
@[simp] theorem State.setBank_stalled (b : Nat) (l : List ErrRec) : (s.setBank b l).stalled = s.stalled := rfl
@[simp] theorem State.setBank_sec (b : Nat) (l : List ErrRec) : (s.setBank b l).sec = s.sec := rfl
@[simp] theorem State.setBank_fuses (b : Nat) (l : List ErrRec) : (s.setBank b l).fuses = s.fuses := rfl
@[simp] theorem State.setBank_flash (b : Nat) (l : List ErrRec) : (s.setBank b l).flash = s.flash := rfl
@[simp] theorem State.setBank_cfg (b : Nat) (l : List ErrRec) : (s.setBank b l).cfg = s.cfg := rfl
@[simp] theorem State.setBank_fw (b : Nat) (l : List ErrRec) : (s.setBank b l).fw = s.fw := rfl
@[simp] theorem State.setBank_aoc (b : Nat) (l : List ErrRec) : (s.setBank b l).aoc = s.aoc := rfl
@[simp] theorem State.setBank_tap (b : Nat) (l : List ErrRec) : (s.setBank b l).tap = s.tap := rfl

/-! #### send -/
@[simp] theorem State.send_pending (o : Out) : (s.send o).pending = s.pending := rfl
@[simp] theorem State.send_clock (o : Out) : (s.send o).clock = s.clock := rfl
@[simp] theorem State.send_regs (o : Out) : (s.send o).regs = s.regs := rfl
@[simp] theorem State.send_mem (o : Out) : (s.send o).mem = s.mem := rfl
@[simp] theorem State.send_poison (o : Out) : (s.send o).poison = s.poison := rfl
@[simp] theorem State.send_upsets (o : Out) : (s.send o).upsets = s.upsets := rfl
@[simp] theorem State.send_pages (o : Out) : (s.send o).pages = s.pages := rfl
@[simp] theorem State.send_fills (o : Out) : (s.send o).fills = s.fills := rfl
@[simp] theorem State.send_accessNo (o : Out) : (s.send o).accessNo = s.accessNo := rfl
@[simp] theorem State.send_lentPages (o : Out) : (s.send o).lentPages = s.lentPages := rfl
@[simp] theorem State.send_reclaims (o : Out) : (s.send o).reclaims = s.reclaims := rfl
@[simp] theorem State.send_lendPairs (o : Out) : (s.send o).lendPairs = s.lendPairs := rfl
@[simp] theorem State.send_streams (o : Out) : (s.send o).streams = s.streams := rfl
@[simp] theorem State.send_mapped (o : Out) : (s.send o).mapped = s.mapped := rfl
@[simp] theorem State.send_poolCut (o : Out) : (s.send o).poolCut = s.poolCut := rfl
@[simp] theorem State.send_mcgs (o : Out) : (s.send o).mcgs = s.mcgs := rfl
@[simp] theorem State.send_err (o : Out) : (s.send o).err = s.err := rfl
@[simp] theorem State.send_eps (o : Out) : (s.send o).eps = s.eps := rfl
@[simp] theorem State.send_hps (o : Out) : (s.send o).hps = s.hps := rfl
@[simp] theorem State.send_qps (o : Out) : (s.send o).qps = s.qps := rfl
@[simp] theorem State.send_requests (o : Out) : (s.send o).requests = s.requests := rfl
@[simp] theorem State.send_rde (o : Out) : (s.send o).rde = s.rde := rfl
@[simp] theorem State.send_jobs (o : Out) : (s.send o).jobs = s.jobs := rfl
@[simp] theorem State.send_sqs (o : Out) : (s.send o).sqs = s.sqs := rfl
@[simp] theorem State.send_engs (o : Out) : (s.send o).engs = s.engs := rfl
@[simp] theorem State.send_ves (o : Out) : (s.send o).ves = s.ves := rfl
@[simp] theorem State.send_rings (o : Out) : (s.send o).rings = s.rings := rfl
@[simp] theorem State.send_layerAcc (o : Out) : (s.send o).layerAcc = s.layerAcc := rfl
@[simp] theorem State.send_stashes (o : Out) : (s.send o).stashes = s.stashes := rfl
@[simp] theorem State.send_histories (o : Out) : (s.send o).histories = s.histories := rfl
@[simp] theorem State.send_saves (o : Out) : (s.send o).saves = s.saves := rfl
@[simp] theorem State.send_gens (o : Out) : (s.send o).gens = s.gens := rfl
@[simp] theorem State.send_cx (o : Out) : (s.send o).cx = s.cx := rfl
@[simp] theorem State.send_stalled (o : Out) : (s.send o).stalled = s.stalled := rfl
@[simp] theorem State.send_sec (o : Out) : (s.send o).sec = s.sec := rfl
@[simp] theorem State.send_fuses (o : Out) : (s.send o).fuses = s.fuses := rfl
@[simp] theorem State.send_flash (o : Out) : (s.send o).flash = s.flash := rfl
@[simp] theorem State.send_cfg (o : Out) : (s.send o).cfg = s.cfg := rfl
@[simp] theorem State.send_fw (o : Out) : (s.send o).fw = s.fw := rfl
@[simp] theorem State.send_aoc (o : Out) : (s.send o).aoc = s.aoc := rfl
@[simp] theorem State.send_tap (o : Out) : (s.send o).tap = s.tap := rfl

/-! #### spend -/
@[simp] theorem State.spend_pending : (s.spend).pending = s.pending := rfl
@[simp] theorem State.spend_tx : (s.spend).tx = s.tx := rfl
@[simp] theorem State.spend_regs : (s.spend).regs = s.regs := rfl
@[simp] theorem State.spend_mem : (s.spend).mem = s.mem := rfl
@[simp] theorem State.spend_poison : (s.spend).poison = s.poison := rfl
@[simp] theorem State.spend_upsets : (s.spend).upsets = s.upsets := rfl
@[simp] theorem State.spend_pages : (s.spend).pages = s.pages := rfl
@[simp] theorem State.spend_fills : (s.spend).fills = s.fills := rfl
@[simp] theorem State.spend_accessNo : (s.spend).accessNo = s.accessNo := rfl
@[simp] theorem State.spend_lentPages : (s.spend).lentPages = s.lentPages := rfl
@[simp] theorem State.spend_reclaims : (s.spend).reclaims = s.reclaims := rfl
@[simp] theorem State.spend_lendPairs : (s.spend).lendPairs = s.lendPairs := rfl
@[simp] theorem State.spend_streams : (s.spend).streams = s.streams := rfl
@[simp] theorem State.spend_mapped : (s.spend).mapped = s.mapped := rfl
@[simp] theorem State.spend_poolCut : (s.spend).poolCut = s.poolCut := rfl
@[simp] theorem State.spend_mcgs : (s.spend).mcgs = s.mcgs := rfl
@[simp] theorem State.spend_err : (s.spend).err = s.err := rfl
@[simp] theorem State.spend_eps : (s.spend).eps = s.eps := rfl
@[simp] theorem State.spend_hps : (s.spend).hps = s.hps := rfl
@[simp] theorem State.spend_qps : (s.spend).qps = s.qps := rfl
@[simp] theorem State.spend_requests : (s.spend).requests = s.requests := rfl
@[simp] theorem State.spend_rde : (s.spend).rde = s.rde := rfl
@[simp] theorem State.spend_jobs : (s.spend).jobs = s.jobs := rfl
@[simp] theorem State.spend_sqs : (s.spend).sqs = s.sqs := rfl
@[simp] theorem State.spend_engs : (s.spend).engs = s.engs := rfl
@[simp] theorem State.spend_ves : (s.spend).ves = s.ves := rfl
@[simp] theorem State.spend_rings : (s.spend).rings = s.rings := rfl
@[simp] theorem State.spend_layerAcc : (s.spend).layerAcc = s.layerAcc := rfl
@[simp] theorem State.spend_stashes : (s.spend).stashes = s.stashes := rfl
@[simp] theorem State.spend_histories : (s.spend).histories = s.histories := rfl
@[simp] theorem State.spend_saves : (s.spend).saves = s.saves := rfl
@[simp] theorem State.spend_gens : (s.spend).gens = s.gens := rfl
@[simp] theorem State.spend_cx : (s.spend).cx = s.cx := rfl
@[simp] theorem State.spend_stalled : (s.spend).stalled = s.stalled := rfl
@[simp] theorem State.spend_sec : (s.spend).sec = s.sec := rfl
@[simp] theorem State.spend_fuses : (s.spend).fuses = s.fuses := rfl
@[simp] theorem State.spend_flash : (s.spend).flash = s.flash := rfl
@[simp] theorem State.spend_cfg : (s.spend).cfg = s.cfg := rfl
@[simp] theorem State.spend_fw : (s.spend).fw = s.fw := rfl
@[simp] theorem State.spend_aoc : (s.spend).aoc = s.aoc := rfl
@[simp] theorem State.spend_tap : (s.spend).tap = s.tap := rfl

/-! #### elapse -/
@[simp] theorem State.elapse_pending : (s.elapse).pending = s.pending := rfl
@[simp] theorem State.elapse_tx : (s.elapse).tx = s.tx := rfl
@[simp] theorem State.elapse_regs : (s.elapse).regs = s.regs := rfl
@[simp] theorem State.elapse_mem : (s.elapse).mem = s.mem := rfl
@[simp] theorem State.elapse_poison : (s.elapse).poison = s.poison := rfl
@[simp] theorem State.elapse_upsets : (s.elapse).upsets = s.upsets := rfl
@[simp] theorem State.elapse_pages : (s.elapse).pages = s.pages := rfl
@[simp] theorem State.elapse_fills : (s.elapse).fills = s.fills := rfl
@[simp] theorem State.elapse_accessNo : (s.elapse).accessNo = s.accessNo := rfl
@[simp] theorem State.elapse_lentPages : (s.elapse).lentPages = s.lentPages := rfl
@[simp] theorem State.elapse_reclaims : (s.elapse).reclaims = s.reclaims := rfl
@[simp] theorem State.elapse_lendPairs : (s.elapse).lendPairs = s.lendPairs := rfl
@[simp] theorem State.elapse_streams : (s.elapse).streams = s.streams := rfl
@[simp] theorem State.elapse_mapped : (s.elapse).mapped = s.mapped := rfl
@[simp] theorem State.elapse_poolCut : (s.elapse).poolCut = s.poolCut := rfl
@[simp] theorem State.elapse_mcgs : (s.elapse).mcgs = s.mcgs := rfl
@[simp] theorem State.elapse_err : (s.elapse).err = s.err := rfl
@[simp] theorem State.elapse_eps : (s.elapse).eps = s.eps := rfl
@[simp] theorem State.elapse_hps : (s.elapse).hps = s.hps := rfl
@[simp] theorem State.elapse_qps : (s.elapse).qps = s.qps := rfl
@[simp] theorem State.elapse_requests : (s.elapse).requests = s.requests := rfl
@[simp] theorem State.elapse_rde : (s.elapse).rde = s.rde := rfl
@[simp] theorem State.elapse_jobs : (s.elapse).jobs = s.jobs := rfl
@[simp] theorem State.elapse_sqs : (s.elapse).sqs = s.sqs := rfl
@[simp] theorem State.elapse_engs : (s.elapse).engs = s.engs := rfl
@[simp] theorem State.elapse_ves : (s.elapse).ves = s.ves := rfl
@[simp] theorem State.elapse_rings : (s.elapse).rings = s.rings := rfl
@[simp] theorem State.elapse_layerAcc : (s.elapse).layerAcc = s.layerAcc := rfl
@[simp] theorem State.elapse_stashes : (s.elapse).stashes = s.stashes := rfl
@[simp] theorem State.elapse_histories : (s.elapse).histories = s.histories := rfl
@[simp] theorem State.elapse_saves : (s.elapse).saves = s.saves := rfl
@[simp] theorem State.elapse_gens : (s.elapse).gens = s.gens := rfl
@[simp] theorem State.elapse_cx : (s.elapse).cx = s.cx := rfl
@[simp] theorem State.elapse_stalled : (s.elapse).stalled = s.stalled := rfl
@[simp] theorem State.elapse_sec : (s.elapse).sec = s.sec := rfl
@[simp] theorem State.elapse_fuses : (s.elapse).fuses = s.fuses := rfl
@[simp] theorem State.elapse_flash : (s.elapse).flash = s.flash := rfl
@[simp] theorem State.elapse_cfg : (s.elapse).cfg = s.cfg := rfl
@[simp] theorem State.elapse_fw : (s.elapse).fw = s.fw := rfl
@[simp] theorem State.elapse_aoc : (s.elapse).aoc = s.aoc := rfl
@[simp] theorem State.elapse_tap : (s.elapse).tap = s.tap := rfl

/-! #### What they write -/
@[simp] theorem State.setReg_regs (r : Reg) (w : Word) : (s.setReg r w).regs = regPut s.regs r w := rfl
@[simp] theorem State.setJob_jobs (k : Nat) (j : Job) : (s.setJob k j).jobs = tabPut s.jobs k j := rfl
@[simp] theorem State.setSq_sqs (c : Nat) (x : Sq) : (s.setSq c x).sqs = tabPut s.sqs c x := rfl
@[simp] theorem State.setEng_engs (e : Nat) (x : Eng) : (s.setEng e x).engs = tabPut s.engs e x := rfl
@[simp] theorem State.setVe_ves (c : Nat) (x : Ve) : (s.setVe c x).ves = tabPut s.ves c x := rfl
@[simp] theorem State.setEp_eps (e : Nat) (x : Ep) : (s.setEp e x).eps = tabPut s.eps e x := rfl
@[simp] theorem State.setHp_hps (h : Nat) (x : Hp) : (s.setHp h x).hps = tabPut s.hps h x := rfl
@[simp] theorem State.setQp_qps (q : Nat) (x : Qp) : (s.setQp q x).qps = tabPut s.qps q x := rfl
@[simp] theorem State.setMcg_mcgs (g : Nat) (x : Mcg) : (s.setMcg g x).mcgs = tabPut s.mcgs g x := rfl
@[simp] theorem State.setPage_pages (n : Nat) (x : Page) : (s.setPage n x).pages = tabPut s.pages n x := rfl
@[simp] theorem State.setCxp_cx (p : Nat) (x : CxPart) : (s.setCxp p x).cx = tabPut s.cx p x := rfl
@[simp] theorem State.send_tx (o : Out) : (s.send o).tx = s.tx ++ [o] := rfl
@[simp] theorem State.setBank_banks (b : Nat) (l : List ErrRec) : (s.setBank b l).err.banks = tabPut s.err.banks b l := rfl
@[simp] theorem State.setBank_seq (b : Nat) (l : List ErrRec) : (s.setBank b l).err.seq = s.err.seq := rfl
@[simp] theorem State.spend_freeIdx : s.spend.clock.freeIdx = s.clock.freeIdx + 1 := rfl
@[simp] theorem State.elapse_freeIdx : s.elapse.clock.freeIdx = s.clock.freeIdx + 1 := rfl
@[simp] theorem State.elapse_calValid : s.elapse.clock.calValid = s.clock.calValid := rfl

/-! #### keep -/
@[simp] theorem State.keep_pending (t : State) : (s.keep t).pending = s.pending := rfl
@[simp] theorem State.keep_clock (t : State) : (s.keep t).clock = t.clock := rfl
@[simp] theorem State.keep_tx (t : State) : (s.keep t).tx = t.tx := rfl
@[simp] theorem State.keep_regs (t : State) : (s.keep t).regs = t.regs := rfl
@[simp] theorem State.keep_mem (t : State) : (s.keep t).mem = t.mem := rfl
@[simp] theorem State.keep_poison (t : State) : (s.keep t).poison = t.poison := rfl
@[simp] theorem State.keep_upsets (t : State) : (s.keep t).upsets = t.upsets := rfl
@[simp] theorem State.keep_pages (t : State) : (s.keep t).pages = t.pages := rfl
@[simp] theorem State.keep_fills (t : State) : (s.keep t).fills = t.fills := rfl
@[simp] theorem State.keep_accessNo (t : State) : (s.keep t).accessNo = t.accessNo := rfl
@[simp] theorem State.keep_lentPages (t : State) : (s.keep t).lentPages = t.lentPages := rfl
@[simp] theorem State.keep_reclaims (t : State) : (s.keep t).reclaims = t.reclaims := rfl
@[simp] theorem State.keep_lendPairs (t : State) : (s.keep t).lendPairs = t.lendPairs := rfl
@[simp] theorem State.keep_streams (t : State) : (s.keep t).streams = t.streams := rfl
@[simp] theorem State.keep_mapped (t : State) : (s.keep t).mapped = t.mapped := rfl
@[simp] theorem State.keep_poolCut (t : State) : (s.keep t).poolCut = t.poolCut := rfl
@[simp] theorem State.keep_mcgs (t : State) : (s.keep t).mcgs = t.mcgs := rfl
@[simp] theorem State.keep_err (t : State) : (s.keep t).err = t.err := rfl
@[simp] theorem State.keep_eps (t : State) : (s.keep t).eps = t.eps := rfl
@[simp] theorem State.keep_hps (t : State) : (s.keep t).hps = t.hps := rfl
@[simp] theorem State.keep_qps (t : State) : (s.keep t).qps = t.qps := rfl
@[simp] theorem State.keep_requests (t : State) : (s.keep t).requests = t.requests := rfl
@[simp] theorem State.keep_rde (t : State) : (s.keep t).rde = t.rde := rfl
@[simp] theorem State.keep_jobs (t : State) : (s.keep t).jobs = t.jobs := rfl
@[simp] theorem State.keep_sqs (t : State) : (s.keep t).sqs = t.sqs := rfl
@[simp] theorem State.keep_engs (t : State) : (s.keep t).engs = t.engs := rfl
@[simp] theorem State.keep_ves (t : State) : (s.keep t).ves = t.ves := rfl
@[simp] theorem State.keep_rings (t : State) : (s.keep t).rings = t.rings := rfl
@[simp] theorem State.keep_layerAcc (t : State) : (s.keep t).layerAcc = t.layerAcc := rfl
@[simp] theorem State.keep_stashes (t : State) : (s.keep t).stashes = t.stashes := rfl
@[simp] theorem State.keep_histories (t : State) : (s.keep t).histories = t.histories := rfl
@[simp] theorem State.keep_saves (t : State) : (s.keep t).saves = t.saves := rfl
@[simp] theorem State.keep_gens (t : State) : (s.keep t).gens = t.gens := rfl
@[simp] theorem State.keep_cx (t : State) : (s.keep t).cx = t.cx := rfl
@[simp] theorem State.keep_stalled (t : State) : (s.keep t).stalled = t.stalled := rfl
@[simp] theorem State.keep_sec (t : State) : (s.keep t).sec = t.sec := rfl
@[simp] theorem State.keep_fuses (t : State) : (s.keep t).fuses = s.fuses := rfl
@[simp] theorem State.keep_flash (t : State) : (s.keep t).flash = t.flash := rfl
@[simp] theorem State.keep_cfg (t : State) : (s.keep t).cfg = t.cfg := rfl
@[simp] theorem State.keep_fw (t : State) : (s.keep t).fw = t.fw := rfl
@[simp] theorem State.keep_aoc (t : State) : (s.keep t).aoc = t.aoc := rfl
@[simp] theorem State.keep_tap (t : State) : (s.keep t).tap = t.tap := rfl

end Sys2Proof.Machine
end

