-- ==== Sys2Proof/Laws/Ops.lean ====
section
/-! SUPPORT. What the shared operations of Machine/Ops.lean do, said once: sparse stores, byte memory and its canonical form,
registers and their fields, error records. -/
namespace Sys2Proof.Machine

set_option Elab.async false

/-! ### Sparse stores -/

section Tab
variable {α : Type} (d : α)

@[simp] theorem tabGet_nil (i : Nat) : tabGet d [] i = d := rfl

@[simp] theorem tabGet_tabPut_same (t : Tab α) (i : Nat) (v : α) : tabGet d (tabPut t i v) i = v := by
  induction t with
  | nil => simp [tabPut, tabGet]
  | cons p t ih =>
    obtain ⟨k, w⟩ := p
    simp only [tabPut]
    split
    · simp [tabGet]
    · split
      · simp [tabGet]
      · simp [tabGet, *]

theorem tabGet_tabPut_ne (t : Tab α) {i j : Nat} (v : α) (h : j ≠ i) : tabGet d (tabPut t i v) j = tabGet d t j := by
  induction t with
  | nil => simp [tabPut, tabGet, h]
  | cons p t ih =>
    obtain ⟨k, w⟩ := p
    simp only [tabPut]
    split
    · simp [tabGet, h]
    · split
      · next hk => subst hk; simp [tabGet, h]
      · simp [tabGet, ih]

@[simp] theorem tabFind_tabPut_same (t : Tab α) (i : Nat) (v : α) : tabFind (tabPut t i v) i = some v := by
  induction t with
  | nil => simp [tabPut, tabFind]
  | cons p t ih =>
    obtain ⟨k, w⟩ := p
    simp only [tabPut]
    split
    · simp [tabFind]
    · split
      · simp [tabFind]
      · simp [tabFind, *]

theorem tabFind_tabPut_ne (t : Tab α) {i j : Nat} (v : α) (h : j ≠ i) : tabFind (tabPut t i v) j = tabFind t j := by
  induction t with
  | nil => simp [tabPut, tabFind, h]
  | cons p t ih =>
    obtain ⟨k, w⟩ := p
    simp only [tabPut]
    split
    · simp [tabFind, h]
    · split
      · next hk => subst hk; simp [tabFind, h]
      · simp [tabFind, ih]

@[simp] theorem tabFind_tabDel_same (t : Tab α) (i : Nat) : tabFind (tabDel t i) i = none := by
  induction t with
  | nil => rfl
  | cons p t ih =>
    obtain ⟨k, w⟩ := p
    unfold tabDel at ih ⊢
    by_cases hk : k = i
    · simp [hk, ih]
    · have hk' : ¬ i = k := fun e => hk e.symm
      simp [hk, tabFind, ih, hk']

theorem tabFind_tabDel_ne (t : Tab α) {i j : Nat} (h : j ≠ i) : tabFind (tabDel t i) j = tabFind t j := by
  induction t with
  | nil => rfl
  | cons p t ih =>
    obtain ⟨k, w⟩ := p
    unfold tabDel at ih ⊢
    by_cases hk : k = i
    · subst hk; simp [tabFind, h, ih]
    · simp [hk, tabFind, ih]

theorem tabGet_tabDel_same (t : Tab α) (i : Nat) : tabGet d (tabDel t i) i = d := by
  induction t with
  | nil => rfl
  | cons p t ih =>
    obtain ⟨k, w⟩ := p
    unfold tabDel at ih ⊢
    by_cases hk : k = i
    · simp [hk, ih]
    · have hk' : ¬ i = k := fun e => hk e.symm
      simp [hk, tabGet, ih, hk']

theorem tabGet_tabDel_ne (t : Tab α) {i j : Nat} (h : j ≠ i) : tabGet d (tabDel t i) j = tabGet d t j := by
  induction t with
  | nil => rfl
  | cons p t ih =>
    obtain ⟨k, w⟩ := p
    unfold tabDel at ih ⊢
    by_cases hk : k = i
    · subst hk; simp [tabGet, h, ih]
    · simp [hk, tabGet, ih]

end Tab

/-! ### Byte memory -/

@[simp] theorem memGet_memPut_same (m : Tab Byte) (a : Nat) (b : Byte) : memGet (memPut m a b) a = b := by
  unfold memGet memPut
  split
  · next h => rw [tabGet_tabDel_same, h]
  · exact tabGet_tabPut_same _ _ _ _

theorem memGet_memPut_ne (m : Tab Byte) {a c : Nat} (b : Byte) (h : c ≠ a) : memGet (memPut m a b) c = memGet m c := by
  unfold memGet memPut
  split
  · exact tabGet_tabDel_ne _ _ h
  · exact tabGet_tabPut_ne _ _ _ h

/-- A read outside the bytes stored gives what it gave before. -/
theorem memGet_memPutAll_out (m : Tab Byte) (a : Nat) (bs : List Byte) (c : Nat) (h : c < a ∨ a + bs.length ≤ c) :
    memGet (memPutAll m a bs) c = memGet m c := by
  induction bs generalizing m a with
  | nil => rfl
  | cons b bs ih =>
    have hl : (b :: bs).length = bs.length + 1 := rfl
    rw [memPutAll, ih _ _ (by omega), memGet_memPut_ne _ _ (by omega)]

/-- A read inside the bytes stored gives the byte stored there. -/
theorem memGet_memPutAll_in (m : Tab Byte) (a : Nat) (bs : List Byte) (i : Nat) (h : i < bs.length) :
    memGet (memPutAll m a bs) (a + i) = bs[i] := by
  induction bs generalizing m a i with
  | nil => exact absurd h (Nat.not_lt_zero _)
  | cons b bs ih =>
    cases i with
    | zero =>
      show memGet (memPutAll (memPut m a b) (a + 1) bs) a = b
      rw [memGet_memPutAll_out _ _ _ _ (Or.inl (Nat.lt_succ_self a)), memGet_memPut_same]
    | succ i =>
      have h' : i < bs.length := Nat.lt_of_succ_lt_succ h
      have e : a + (i + 1) = a + 1 + i := by omega
      show memGet (memPutAll (memPut m a b) (a + 1) bs) (a + (i + 1)) = bs[i]
      rw [e, ih _ _ _ h']

/-- The canonical form, said of each entry: no zero byte, and every later key is greater. -/
theorem Memory.wf_cons {k : Nat} {b : Byte} {t : Tab Byte} :
    Memory.wf ((k, b) :: t) = true ↔ b ≠ 0 ∧ (∀ p ∈ t, k < p.1) ∧ Memory.wf t = true := by
  induction t generalizing k b with
  | nil => simp [Memory.wf]
  | cons p t ih =>
    obtain ⟨k', b'⟩ := p
    simp only [Memory.wf, Bool.and_eq_true, decide_eq_true_eq, bne_iff_ne, List.mem_cons]
    constructor
    · rintro ⟨⟨hb, hk⟩, ht⟩
      refine ⟨hb, ?_, ht⟩
      rintro p (rfl | hp)
      · exact hk
      · exact Nat.lt_trans hk ((ih.mp ht).2.1 p hp)
    · rintro ⟨hb, hk, ht⟩
      exact ⟨⟨hb, hk (k', b') (Or.inl rfl)⟩, ht⟩

theorem Memory.wf_filter (q : Nat × Byte → Bool) {m : Tab Byte} (h : Memory.wf m = true) : Memory.wf (m.filter q) = true := by
  induction m with
  | nil => rfl
  | cons p t ih =>
    obtain ⟨k, b⟩ := p
    obtain ⟨hb, hk, ht⟩ := Memory.wf_cons.mp h
    rw [List.filter_cons]
    split
    · exact Memory.wf_cons.mpr ⟨hb, fun p hp => hk p (List.mem_filter.mp hp).1, ih ht⟩
    · exact ih ht

theorem mem_tabPut {α : Type} {t : Tab α} {i : Nat} {v : α} {p : Nat × α} (h : p ∈ tabPut t i v) : p = (i, v) ∨ p ∈ t := by
  induction t with
  | nil => exact Or.inl (List.mem_singleton.mp h)
  | cons q t ih =>
    obtain ⟨k, w⟩ := q
    simp only [tabPut] at h
    split at h
    · exact List.mem_cons.mp h
    · split at h
      · rcases List.mem_cons.mp h with e | e
        · exact Or.inl e
        · exact Or.inr (List.mem_cons_of_mem _ e)
      · rcases List.mem_cons.mp h with e | e
        · exact Or.inr (List.mem_cons.mpr (Or.inl e))
        · exact (ih e).imp id (List.mem_cons_of_mem _)

/-- A byte write keeps the canonical form. -/
theorem Memory.wf_memPut {m : Tab Byte} (h : Memory.wf m = true) (a : Nat) (b : Byte) : Memory.wf (memPut m a b) = true := by
  unfold memPut
  split
  · exact Memory.wf_filter _ h
  · next hb =>
    induction m with
    | nil => exact Memory.wf_cons.mpr ⟨hb, fun p hp => absurd hp List.not_mem_nil, rfl⟩
    | cons p t ih =>
      obtain ⟨k, w⟩ := p
      obtain ⟨hw, hk, ht⟩ := Memory.wf_cons.mp h
      simp only [tabPut]
      split
      · next hlt =>
        refine Memory.wf_cons.mpr ⟨hb, ?_, h⟩
        intro p hp
        rcases List.mem_cons.mp hp with rfl | hp
        · exact hlt
        · exact Nat.lt_trans hlt (hk p hp)
      · split
        · next he => subst he; exact Memory.wf_cons.mpr ⟨hb, hk, ht⟩
        · next hlt hne =>
          refine Memory.wf_cons.mpr ⟨hw, ?_, ih ht⟩
          intro p hp
          rcases mem_tabPut hp with rfl | hp
          · simp only; omega
          · exact hk p hp

/-- A write of bytes keeps the canonical form. -/
theorem Memory.wf_memPutAll {m : Tab Byte} (h : Memory.wf m = true) (a : Nat) (bs : List Byte) :
    Memory.wf (memPutAll m a bs) = true := by
  induction bs generalizing m a with
  | nil => exact h
  | cons b bs ih => exact ih (Memory.wf_memPut h a b) (a + 1)

theorem Memory.wf_reset : Memory.wf State.reset.mem = true := rfl

/-! ### Words and fields -/

theorem wordField_wordSetField_same (w : Word) (lo n v : Nat) (h : lo + n ≤ 32) :
    wordField (wordSetField w lo n v) lo n = v % 2 ^ n := by
  unfold wordField wordSetField
  have e : w.toNat % 2 ^ lo + v % 2 ^ n * 2 ^ lo + w.toNat / 2 ^ (lo + n) * 2 ^ (lo + n)
      = w.toNat % 2 ^ lo + 2 ^ lo * (v % 2 ^ n + 2 ^ n * (w.toNat / 2 ^ (lo + n))) := by
    rw [Nat.pow_add, Nat.mul_add, Nat.mul_comm (v % 2 ^ n), Nat.mul_comm (w.toNat / _), Nat.mul_assoc, Nat.add_assoc]
  have hlo : 0 < 2 ^ lo := Nat.two_pow_pos lo
  have hn : 0 < 2 ^ n := Nat.two_pow_pos n
  have hd : ∀ x : Nat, x % 2 ^ 32 / 2 ^ lo % 2 ^ n = x / 2 ^ lo % 2 ^ n := by
    intro x
    have e32 : 2 ^ 32 = 2 ^ lo * (2 ^ n * 2 ^ (32 - lo - n)) := by
      rw [← Nat.pow_add, ← Nat.pow_add]; congr 1; omega
    rw [e32, Nat.mod_mul_right_div_self, Nat.mod_mul_right_mod]
  rw [BitVec.toNat_ofNat, hd, e, Nat.add_mul_div_left _ _ hlo, Nat.div_eq_of_lt (Nat.mod_lt _ hlo), Nat.zero_add,
    Nat.add_mul_mod_self_left, Nat.mod_mod]

/-- Bits outside the field written stay. -/
theorem wordField_wordSetField_below (w : Word) (lo n v lo' n' : Nat) (h : lo' + n' ≤ lo) :
    wordField (wordSetField w lo n v) lo' n' = wordField w lo' n' := by
  unfold wordField wordSetField
  by_cases h32 : lo ≤ 32
  · have e : ∀ x : Nat, x % 2 ^ 32 / 2 ^ lo' % 2 ^ n' = x / 2 ^ lo' % 2 ^ n' := by
      intro x
      have e32 : 2 ^ 32 = 2 ^ lo' * (2 ^ n' * 2 ^ (32 - lo' - n')) := by rw [← Nat.pow_add, ← Nat.pow_add]; congr 1; omega
      rw [e32, Nat.mod_mul_right_div_self, Nat.mod_mul_right_mod]
    have d : ∀ y : Nat, (w.toNat % 2 ^ lo + 2 ^ lo * y) / 2 ^ lo' % 2 ^ n' = w.toNat / 2 ^ lo' % 2 ^ n' := by
      intro y
      have el : 2 ^ lo = 2 ^ lo' * (2 ^ n' * 2 ^ (lo - lo' - n')) := by rw [← Nat.pow_add, ← Nat.pow_add]; congr 1; omega
      have e1 : 2 ^ lo * y = 2 ^ lo' * (2 ^ n' * (2 ^ (lo - lo' - n') * y)) := by rw [el, Nat.mul_assoc, Nat.mul_assoc]
      rw [e1, Nat.add_mul_div_left _ _ (Nat.two_pow_pos _), Nat.add_mul_mod_self_left, el, Nat.mod_mul_right_div_self,
        Nat.mod_mul_right_mod]
    rw [BitVec.toNat_ofNat, e, Nat.add_assoc,
      show v % 2 ^ n * 2 ^ lo + w.toNat / 2 ^ (lo + n) * 2 ^ (lo + n) = 2 ^ lo * (v % 2 ^ n + 2 ^ n * (w.toNat / 2 ^ (lo + n))) by
        rw [Nat.pow_add, Nat.mul_add, Nat.mul_comm (v % 2 ^ n), Nat.mul_comm (w.toNat / _), Nat.mul_assoc], d]
  · have hw : w.toNat < 2 ^ lo := Nat.lt_of_lt_of_le w.isLt (Nat.pow_le_pow_right (by omega) (by omega))
    have hw2 : w.toNat < 2 ^ (lo + n) := Nat.lt_of_lt_of_le hw (Nat.pow_le_pow_right (by omega) (by omega))
    have ed : 2 ^ lo = 2 ^ 32 * 2 ^ (lo - 32) := by rw [← Nat.pow_add]; congr 1; omega
    rw [BitVec.toNat_ofNat, Nat.mod_eq_of_lt hw, Nat.div_eq_of_lt hw2, Nat.zero_mul, Nat.add_zero, ed,
      show w.toNat + v % 2 ^ n * (2 ^ 32 * 2 ^ (lo - 32)) = w.toNat + 2 ^ 32 * (2 ^ (lo - 32) * (v % 2 ^ n)) by
        rw [Nat.mul_comm (v % 2 ^ n), Nat.mul_assoc], Nat.add_mul_mod_self_left, Nat.mod_eq_of_lt w.isLt]

theorem wordField_wordSetField_above (w : Word) (lo n v lo' n' : Nat) (h : lo + n ≤ lo') (h32 : lo' + n' ≤ 32) :
    wordField (wordSetField w lo n v) lo' n' = wordField w lo' n' := by
  unfold wordField wordSetField
  have e : ∀ x : Nat, x % 2 ^ 32 / 2 ^ lo' % 2 ^ n' = x / 2 ^ lo' % 2 ^ n' := by
    intro x
    have e32 : 2 ^ 32 = 2 ^ lo' * (2 ^ n' * 2 ^ (32 - lo' - n')) := by rw [← Nat.pow_add, ← Nat.pow_add]; congr 1; omega
    rw [e32, Nat.mod_mul_right_div_self, Nat.mod_mul_right_mod]
  have el : 2 ^ lo' = 2 ^ (lo + n) * 2 ^ (lo' - lo - n) := by rw [← Nat.pow_add]; congr 1; omega
  have low : w.toNat % 2 ^ lo + v % 2 ^ n * 2 ^ lo < 2 ^ (lo + n) := by
    rw [Nat.pow_add]
    have h1 : w.toNat % 2 ^ lo < 2 ^ lo := Nat.mod_lt _ (Nat.two_pow_pos lo)
    have h2 : v % 2 ^ n + 1 ≤ 2 ^ n := Nat.mod_lt _ (Nat.two_pow_pos n)
    have h3 := Nat.mul_le_mul_right (2 ^ lo) h2
    rw [Nat.add_mul, Nat.one_mul] at h3
    rw [Nat.mul_comm (2 ^ lo)]
    omega
  rw [BitVec.toNat_ofNat, e]
  congr 1
  rw [el, ← Nat.div_div_eq_div_mul, ← Nat.div_div_eq_div_mul, Nat.mul_comm (w.toNat / _),
    Nat.add_mul_div_left _ _ (Nat.two_pow_pos _), Nat.div_eq_of_lt low, Nat.zero_add]

/-! ### Registers -/

@[simp] theorem regGet_regPut_same (l : List (Reg × Word)) (r : Reg) (w : Word) : regGet (regPut l r w) r = w := by
  induction l with
  | nil => simp [regPut, regGet]
  | cons p t ih =>
    obtain ⟨k, v⟩ := p
    simp only [regPut]
    split
    · next h => simp [regGet, h]
    · next h => simp [regGet, h, ih]

theorem regGet_regPut_ne (l : List (Reg × Word)) {r q : Reg} (w : Word) (h : q ≠ r) : regGet (regPut l r w) q = regGet l q := by
  induction l with
  | nil => simp [regPut, regGet, h]
  | cons p t ih =>
    obtain ⟨k, v⟩ := p
    simp only [regPut]
    split
    · next hk => subst hk; simp [regGet, h]
    · simp only [regGet]; split
      · rfl
      · exact ih

variable (s : State)

@[simp] theorem State.reg_setReg_same (r : Reg) (w : Word) : (s.setReg r w).reg r = w := regGet_regPut_same _ _ _
theorem State.reg_setReg_ne {r q : Reg} (w : Word) (h : q ≠ r) : (s.setReg r w).reg q = s.reg q := regGet_regPut_ne _ _ h

/-- A field written reads as written, cut to its width. -/
theorem State.fld_setFld_same (f : Fld) (v : Nat) (h : f.lo + f.width ≤ 32) : (s.setFld f v).fld f = v % 2 ^ f.width := by
  unfold State.fld State.setFld
  rw [State.reg_setReg_same, wordField_wordSetField_same _ _ _ _ h]

/-- A field of another register is left alone. -/
theorem State.fld_setFld_ne {f g : Fld} (v : Nat) (h : g.reg ≠ f.reg) : (s.setFld f v).fld g = s.fld g := by
  unfold State.fld State.setFld
  rw [State.reg_setReg_ne _ _ h]

/-- Another field of the same register is left alone. -/
theorem State.fld_setFld_apart {f g : Fld} (v : Nat) (hr : g.reg = f.reg) (hg : g.lo + g.width ≤ 32)
    (h : g.lo + g.width ≤ f.lo ∨ f.lo + f.width ≤ g.lo) : (s.setFld f v).fld g = s.fld g := by
  unfold State.fld State.setFld
  rw [hr, State.reg_setReg_same]
  rcases h with h | h
  · exact wordField_wordSetField_below _ _ _ _ _ _ h
  · exact wordField_wordSetField_above _ _ _ _ _ _ h hg

theorem State.fld_setReg_ne {r : Reg} (w : Word) {g : Fld} (h : g.reg ≠ r) : (s.setReg r w).fld g = s.fld g := by
  unfold State.fld
  rw [State.reg_setReg_ne _ _ h]

theorem State.reg_setFld_ne {f : Fld} (v : Nat) {r : Reg} (h : r ≠ f.reg) : (s.setFld f v).reg r = s.reg r :=
  State.reg_setReg_ne _ _ h

theorem State.reg_congr_regs {t : State} (h : t.regs = s.regs) (r : Reg) : t.reg r = s.reg r := by
  unfold State.reg; rw [h]
theorem State.fld_congr_regs {t : State} (h : t.regs = s.regs) (f : Fld) : t.fld f = s.fld f := by
  unfold State.fld; rw [State.reg_congr_regs s h]


@[simp] theorem State.reg_setJob (k : Nat) (j : Job) (r : Reg) : (s.setJob k j).reg r = s.reg r := rfl
@[simp] theorem State.fld_setJob (k : Nat) (j : Job) (f : Fld) : (s.setJob k j).fld f = s.fld f := rfl
@[simp] theorem State.on_setJob (k : Nat) (j : Job) (f : Fld) : (s.setJob k j).on f = s.on f := rfl
@[simp] theorem State.reg_setSq (c : Nat) (x : Sq) (r : Reg) : (s.setSq c x).reg r = s.reg r := rfl
@[simp] theorem State.fld_setSq (c : Nat) (x : Sq) (f : Fld) : (s.setSq c x).fld f = s.fld f := rfl
@[simp] theorem State.on_setSq (c : Nat) (x : Sq) (f : Fld) : (s.setSq c x).on f = s.on f := rfl
@[simp] theorem State.reg_setEng (e : Nat) (x : Eng) (r : Reg) : (s.setEng e x).reg r = s.reg r := rfl
@[simp] theorem State.fld_setEng (e : Nat) (x : Eng) (f : Fld) : (s.setEng e x).fld f = s.fld f := rfl
@[simp] theorem State.on_setEng (e : Nat) (x : Eng) (f : Fld) : (s.setEng e x).on f = s.on f := rfl
@[simp] theorem State.reg_setVe (c : Nat) (x : Ve) (r : Reg) : (s.setVe c x).reg r = s.reg r := rfl
@[simp] theorem State.fld_setVe (c : Nat) (x : Ve) (f : Fld) : (s.setVe c x).fld f = s.fld f := rfl
@[simp] theorem State.on_setVe (c : Nat) (x : Ve) (f : Fld) : (s.setVe c x).on f = s.on f := rfl
@[simp] theorem State.reg_setEp (e : Nat) (x : Ep) (r : Reg) : (s.setEp e x).reg r = s.reg r := rfl
@[simp] theorem State.fld_setEp (e : Nat) (x : Ep) (f : Fld) : (s.setEp e x).fld f = s.fld f := rfl
@[simp] theorem State.on_setEp (e : Nat) (x : Ep) (f : Fld) : (s.setEp e x).on f = s.on f := rfl
@[simp] theorem State.reg_setHp (h : Nat) (x : Hp) (r : Reg) : (s.setHp h x).reg r = s.reg r := rfl
@[simp] theorem State.fld_setHp (h : Nat) (x : Hp) (f : Fld) : (s.setHp h x).fld f = s.fld f := rfl
@[simp] theorem State.on_setHp (h : Nat) (x : Hp) (f : Fld) : (s.setHp h x).on f = s.on f := rfl
@[simp] theorem State.reg_setQp (q : Nat) (x : Qp) (r : Reg) : (s.setQp q x).reg r = s.reg r := rfl
@[simp] theorem State.fld_setQp (q : Nat) (x : Qp) (f : Fld) : (s.setQp q x).fld f = s.fld f := rfl
@[simp] theorem State.on_setQp (q : Nat) (x : Qp) (f : Fld) : (s.setQp q x).on f = s.on f := rfl
@[simp] theorem State.reg_setMcg (g : Nat) (x : Mcg) (r : Reg) : (s.setMcg g x).reg r = s.reg r := rfl
@[simp] theorem State.fld_setMcg (g : Nat) (x : Mcg) (f : Fld) : (s.setMcg g x).fld f = s.fld f := rfl
@[simp] theorem State.on_setMcg (g : Nat) (x : Mcg) (f : Fld) : (s.setMcg g x).on f = s.on f := rfl
@[simp] theorem State.reg_setPage (n : Nat) (x : Page) (r : Reg) : (s.setPage n x).reg r = s.reg r := rfl
@[simp] theorem State.fld_setPage (n : Nat) (x : Page) (f : Fld) : (s.setPage n x).fld f = s.fld f := rfl
@[simp] theorem State.on_setPage (n : Nat) (x : Page) (f : Fld) : (s.setPage n x).on f = s.on f := rfl
@[simp] theorem State.reg_setCxp (p : Nat) (x : CxPart) (r : Reg) : (s.setCxp p x).reg r = s.reg r := rfl
@[simp] theorem State.fld_setCxp (p : Nat) (x : CxPart) (f : Fld) : (s.setCxp p x).fld f = s.fld f := rfl
@[simp] theorem State.on_setCxp (p : Nat) (x : CxPart) (f : Fld) : (s.setCxp p x).on f = s.on f := rfl
@[simp] theorem State.reg_setBank (b : Nat) (l : List ErrRec) (r : Reg) : (s.setBank b l).reg r = s.reg r := rfl
@[simp] theorem State.fld_setBank (b : Nat) (l : List ErrRec) (f : Fld) : (s.setBank b l).fld f = s.fld f := rfl
@[simp] theorem State.on_setBank (b : Nat) (l : List ErrRec) (f : Fld) : (s.setBank b l).on f = s.on f := rfl
@[simp] theorem State.reg_send (o : Out) (r : Reg) : (s.send o).reg r = s.reg r := rfl
@[simp] theorem State.fld_send (o : Out) (f : Fld) : (s.send o).fld f = s.fld f := rfl
@[simp] theorem State.on_send (o : Out) (f : Fld) : (s.send o).on f = s.on f := rfl
@[simp] theorem State.reg_spend (r : Reg) : s.spend.reg r = s.reg r := rfl
@[simp] theorem State.fld_spend (f : Fld) : s.spend.fld f = s.fld f := rfl
@[simp] theorem State.on_spend (f : Fld) : s.spend.on f = s.on f := rfl
@[simp] theorem State.reg_elapse (r : Reg) : s.elapse.reg r = s.reg r := rfl
@[simp] theorem State.fld_elapse (f : Fld) : s.elapse.fld f = s.fld f := rfl
@[simp] theorem State.on_elapse (f : Fld) : s.elapse.on f = s.on f := rfl
@[simp] theorem State.reg_keep (t : State) (r : Reg) : (s.keep t).reg r = t.reg r := rfl
@[simp] theorem State.fld_keep (t : State) (f : Fld) : (s.keep t).fld f = t.fld f := rfl
@[simp] theorem State.on_keep (t : State) (f : Fld) : (s.keep t).on f = t.on f := rfl

/-! ### Units: each table entry written reads back, and the others stay -/

@[simp] theorem State.sq_setSq_same (c : Nat) (x : Sq) : (s.setSq c x).sq c = x := tabGet_tabPut_same _ _ _ _
theorem State.sq_setSq_ne {c i : Nat} (x : Sq) (h' : i ≠ c) : (s.setSq c x).sq i = s.sq i := tabGet_tabPut_ne _ _ _ h'
@[simp] theorem State.eng_setEng_same (e : Nat) (x : Eng) : (s.setEng e x).eng e = x := tabGet_tabPut_same _ _ _ _
theorem State.eng_setEng_ne {e i : Nat} (x : Eng) (h' : i ≠ e) : (s.setEng e x).eng i = s.eng i := tabGet_tabPut_ne _ _ _ h'
@[simp] theorem State.ve_setVe_same (c : Nat) (x : Ve) : (s.setVe c x).ve c = x := tabGet_tabPut_same _ _ _ _
theorem State.ve_setVe_ne {c i : Nat} (x : Ve) (h' : i ≠ c) : (s.setVe c x).ve i = s.ve i := tabGet_tabPut_ne _ _ _ h'
@[simp] theorem State.ep_setEp_same (e : Nat) (x : Ep) : (s.setEp e x).ep e = x := tabGet_tabPut_same _ _ _ _
theorem State.ep_setEp_ne {e i : Nat} (x : Ep) (h' : i ≠ e) : (s.setEp e x).ep i = s.ep i := tabGet_tabPut_ne _ _ _ h'
@[simp] theorem State.hp_setHp_same (h : Nat) (x : Hp) : (s.setHp h x).hp h = x := tabGet_tabPut_same _ _ _ _
theorem State.hp_setHp_ne {h i : Nat} (x : Hp) (h' : i ≠ h) : (s.setHp h x).hp i = s.hp i := tabGet_tabPut_ne _ _ _ h'
@[simp] theorem State.qp_setQp_same (q : Nat) (x : Qp) : (s.setQp q x).qp q = x := tabGet_tabPut_same _ _ _ _
theorem State.qp_setQp_ne {q i : Nat} (x : Qp) (h' : i ≠ q) : (s.setQp q x).qp i = s.qp i := tabGet_tabPut_ne _ _ _ h'
@[simp] theorem State.mcg_setMcg_same (g : Nat) (x : Mcg) : (s.setMcg g x).mcg g = x := tabGet_tabPut_same _ _ _ _
theorem State.mcg_setMcg_ne {g i : Nat} (x : Mcg) (h' : i ≠ g) : (s.setMcg g x).mcg i = s.mcg i := tabGet_tabPut_ne _ _ _ h'
@[simp] theorem State.page_setPage_same (n : Nat) (x : Page) : (s.setPage n x).page n = x := tabGet_tabPut_same _ _ _ _
theorem State.page_setPage_ne {n i : Nat} (x : Page) (h' : i ≠ n) : (s.setPage n x).page i = s.page i := tabGet_tabPut_ne _ _ _ h'
@[simp] theorem State.cxp_setCxp_same (p : Nat) (x : CxPart) : (s.setCxp p x).cxp p = x := tabGet_tabPut_same _ _ _ _
theorem State.cxp_setCxp_ne {p i : Nat} (x : CxPart) (h' : i ≠ p) : (s.setCxp p x).cxp i = s.cxp i := tabGet_tabPut_ne _ _ _ h'
@[simp] theorem State.job_setJob_same (k : Nat) (j : Job) : (s.setJob k j).job k = some j := tabFind_tabPut_same _ _ _
theorem State.job_setJob_ne {k i : Nat} (j : Job) (h : i ≠ k) : (s.setJob k j).job i = s.job i := tabFind_tabPut_ne _ _ h
@[simp] theorem State.bank_setBank_same (b : Nat) (l : List ErrRec) : (s.setBank b l).bank b = l := tabGet_tabPut_same _ _ _ _
theorem State.bank_setBank_ne {b i : Nat} (l : List ErrRec) (h : i ≠ b) : (s.setBank b l).bank i = s.bank i := tabGet_tabPut_ne _ _ _ h

end Sys2Proof.Machine
end

