-- ==== Sys2Proof/Laws/Errors.lean ====
section
/-! SUPPORT. What writing an error record changes (R452), and what a dropped write leaves (R434). -/
namespace Sys2Proof.Machine

set_option Elab.async false

variable {s : State}

/-- A record that is not fatal changes its bank, the count of dropped records and the record number, and nothing else. -/
theorem errRecord_rest (e : ErrArgs) (h : e.cls ≠ 3) :
    errRecord e s = { s with regs := (errRecord e s).regs, err := (errRecord e s).err } := by
  unfold errRecord
  simp only [show (e.cls == 3) = false by simp [h], Bool.false_and, Bool.false_eq_true, if_false]
  (repeat' split) <;> rfl

theorem errRecord_reg (e : ErrArgs) (h : e.cls ≠ 3) {r : Reg} (hr : r ≠ .errBankStat e.bank) : (errRecord e s).reg r = s.reg r := by
  unfold errRecord
  simp only [show (e.cls == 3) = false by simp [h], Bool.false_and, Bool.false_eq_true, if_false]
  (repeat' split) <;> first | rfl | exact State.reg_setFld_ne _ _ hr

theorem errRecord_fld (e : ErrArgs) (h : e.cls ≠ 3) {f : Fld} (hr : f.reg ≠ .errBankStat e.bank) : (errRecord e s).fld f = s.fld f := by
  simp only [State.fld, errRecord_reg e h hr]

/-- The bank after one more error (R452). -/
theorem errRecord_bank (e : ErrArgs) (h : e.cls ≠ 3) : (errRecord e s).bank e.bank = (bankAdd (s.bank e.bank) (newRecord s e)).1 := by
  unfold errRecord
  simp only [show (e.cls == 3) = false by simp [h], Bool.false_and, Bool.false_eq_true, if_false]
  (repeat' split) <;> exact State.bank_setBank_same (s := s) e.bank _

/-- A write dropped and logged: its address and the count, and a corrected record in bank 0. -/
theorem dropLogged_rest (a : Nat) : dropLogged a s = { s with regs := (dropLogged a s).regs, err := (dropLogged a s).err } := by
  unfold dropLogged
  rw [errRecord_rest _ (Nat.zero_ne_add_one 2)]
  rfl

theorem dropLogged_reg (a : Nat) {r : Reg} (h : r ∉ [Reg.glbDropAddr, .glbDropCnt, .errBankStat 0]) : (dropLogged a s).reg r = s.reg r := by
  simp only [List.mem_cons, List.not_mem_nil, or_false, not_or] at h
  unfold dropLogged
  rw [errRecord_reg _ (Nat.zero_ne_add_one 2) h.2.2]
  show (State.setFld _ _ _).reg r = _
  rw [State.reg_setFld_ne _ _ h.2.1, State.reg_setFld_ne _ _ h.1]

theorem dropLogged_addr (a : Nat) : (dropLogged a s).fld F.glbDropAddrAddr = a % 2 ^ 26 := by
  unfold dropLogged
  rw [errRecord_fld _ (Nat.zero_ne_add_one 2) (by simp)]
  show (State.setFld _ _ _).fld _ = _
  rw [State.fld_setFld_ne (f := F.glbDropCntDrops) (g := F.glbDropAddrAddr) _ _ (by simp), State.fld_setFld_same _ _ _ (Nat.le_of_ble_eq_true rfl)]

theorem dropLogged_count (a : Nat) : (dropLogged a s).fld F.glbDropCntDrops = (s.fld F.glbDropCntDrops + 1) % 2 ^ 32 := by
  unfold dropLogged
  rw [errRecord_fld _ (Nat.zero_ne_add_one 2) (by simp)]
  show (State.setFld _ _ _).fld _ = _
  rw [State.fld_setFld_same _ _ _ (Nat.le_of_ble_eq_true rfl),
    State.fld_setFld_ne (f := F.glbDropAddrAddr) (g := F.glbDropCntDrops) _ _ (by simp)]

end Sys2Proof.Machine
end

