-- ==== Sys2Proof/Laws/Span.lean ====
section
/-! SUPPORT. What the span's service leaves alone: no access, fill, write-back, move or error record changes the units, the jobs,
the context tables or the collectives. -/
namespace Sys2Proof.Machine

set_option Elab.async false

/-- What only the cores, the context engine, the reduction engine and the loader change. -/
def State.units (s : State) : List Instr × (Tab Job × Tab Sq × Tab Eng × Tab Ve) × (Rde × Tab CxPart × List Stalled) ×
    (Tab Stash × Tab History × Tab LayerAcc × Tab StreamSt) × (List (List Byte × SaveInfo) × Tab Dword × Tab Byte) × (Sec × Flash × Tap × Fuses) :=
  (s.pending, (s.jobs, s.sqs, s.engs, s.ves), (s.rde, s.cx, s.stalled), (s.stashes, s.histories, s.layerAcc, s.streams),
   (s.saves, s.gens, s.rings), (s.sec, s.flash, s.tap, s.fuses))

theorem foldl_units {α : Type} (f : State → α → State) (h : ∀ t a, (f t a).units = t.units) (l : List α) (s : State) :
    (l.foldl f s).units = s.units := by
  induction l generalizing s with
  | nil => rfl
  | cons a l ih => rw [List.foldl_cons, ih, h]

variable (s : State)
@[simp] theorem State.setReg_units (r : Reg) (w : Word) : (s.setReg r w).units = s.units := rfl
@[simp] theorem State.setFld_units (f : Fld) (v : Nat) : (s.setFld f v).units = s.units := rfl
@[simp] theorem State.setEp_units (e : Nat) (x : Ep) : (s.setEp e x).units = s.units := rfl
@[simp] theorem State.setHp_units (h : Nat) (x : Hp) : (s.setHp h x).units = s.units := rfl
@[simp] theorem State.setQp_units (q : Nat) (x : Qp) : (s.setQp q x).units = s.units := rfl
@[simp] theorem State.setMcg_units (g : Nat) (x : Mcg) : (s.setMcg g x).units = s.units := rfl
@[simp] theorem State.setPage_units (n : Nat) (x : Page) : (s.setPage n x).units = s.units := rfl
@[simp] theorem State.setBank_units (b : Nat) (l : List ErrRec) : (s.setBank b l).units = s.units := rfl
@[simp] theorem State.send_units (o : Out) : (s.send o).units = s.units := rfl
@[simp] theorem State.spend_units  : (s.spend).units = s.units := rfl
@[simp] theorem State.alert_units (i : Nat) : (s.alert i).units = s.units := by
  unfold State.alert; dsimp only; split <;> rfl
theorem State.err_units (x : ErrSt) : { s with err := x }.units = s.units := rfl
theorem State.upsets_units (x : Tab Errs) : { s with upsets := x }.units = s.units := rfl
theorem State.flips_units (x : Tab Errs) : { s with flips := x }.units = s.units := rfl
theorem State.xlat_units (x : Xlat) : { s with xlat := x }.units = s.units := rfl
theorem State.mem_units (x : Tab Byte) : { s with mem := x }.units = s.units := rfl
theorem State.fills_units (x : List Fill) : { s with fills := x }.units = s.units := rfl
theorem State.requests_units (x : List Request) : { s with requests := x }.units = s.units := rfl
theorem State.lendPairs_units (x : Tab LendPair) : { s with lendPairs := x }.units = s.units := rfl
theorem State.poison_units (x : List Nat) : { s with poison := x }.units = s.units := rfl
@[simp] theorem State.bump_units (f : Fld) (n : Nat) : (s.bump f n).units = s.units := rfl
@[simp] theorem State.units_ite {b : Prop} [Decidable b] (s t u : State) (h : s.units = u.units) (h2 : t.units = u.units) : (if b then s else t).units = u.units := by split <;> assumption
@[simp] theorem enterError_units (q : Nat) : (enterError q s).units = s.units := by
  unfold enterError; simp only [↓State.setFld_units, ↓State.spend_units]
@[simp] theorem qpsToError_units (l : List Nat) : (qpsToError s l).units = s.units := by
  unfold qpsToError; exact foldl_units _ (fun t q => by split <;> simp only [↓enterError_units]) _ _
@[simp] theorem State.halt_units (n : Nat) : (s.halt n).units = s.units := by
  unfold State.halt; split; · rfl
  · simp; rfl
@[simp] theorem errRecord_units (e : ErrArgs) : (errRecord e s).units = s.units := by
  unfold errRecord; simp only
  (repeat' split) <;> first | rfl | simp only [↓State.err_units, ↓State.setFld_units, ↓State.setBank_units, ↓State.halt_units]
@[simp] theorem dropLogged_units (a : Nat) : (dropLogged a s).units = s.units := by
  unfold dropLogged; simp only [↓State.setFld_units, ↓State.bump_units, ↓errRecord_units]
@[simp] theorem flushHost_units (h : Nat) : (flushHost h s).units = s.units := by
  unfold flushHost; simp only
  rw [foldl_units _ (fun t m => by simp only [↓State.send_units])]; simp only [↓State.setHp_units]
@[simp] theorem State.sendHost_units (h p : Nat) (a : Option Nat) (o : Out) : (s.sendHost h p a o).units = s.units := by
  unfold State.sendHost; split <;> simp only [↓State.setHp_units, ↓flushHost_units]
@[simp] theorem askHop_units (h a : Nat) : (askHop h a s).units = s.units := by
  unfold askHop; simp only; split <;> simp only [↓State.setHp_units, ↓State.sendHost_units]
@[simp] theorem State.sendQp_units (q : Nat) (o : Roce) : (s.sendQp q o).units = s.units := by
  unfold State.sendQp; simp only; split <;> simp only [↓State.sendHost_units, ↓askHop_units]
@[simp] theorem emit_units (e : Nat) (f : TxFlit) : (emit e f s).units = s.units := by
  unfold emit; simp only; (repeat' split) <;> simp only [↓State.setEp_units, ↓State.send_units, ↓State.bump_units]
@[simp] theorem sendFlit_units (e : Nat) (f : TxFlit) : (sendFlit e f s).units = s.units := by
  unfold sendFlit; simp only [↓State.setEp_units, ↓emit_units]
@[simp] theorem sendFrame_units (e : Nat) (f : TxFrame) : (sendFrame e f s).units = s.units := by
  unfold sendFrame; simp only
  rw [foldl_units _ (fun t m => by simp only [↓sendFlit_units])]; simp only [↓State.setFld_units, ↓State.setEp_units, ↓State.bump_units]
@[simp] theorem pumpLoop_units (e n : Nat) : (pumpLoop e n s).units = s.units := by
  induction n generalizing s with
  | zero => rfl
  | succ n ih =>
    unfold pumpLoop; simp only; (repeat' split) <;> simp only [↓ih, ↓sendFlit_units, ↓sendFrame_units, ↓State.setEp_units]
@[simp] theorem pump_units (e : Nat) : (pump e s).units = s.units := by
  unfold pump; simp only [↓pumpLoop_units]
@[simp] theorem State.queueFrame_units (e : Nat) (f : TxFrame) : (s.queueFrame e f).units = s.units := by
  unfold State.queueFrame; simp only [↓State.setEp_units, ↓pump_units]
@[simp] theorem sendLink_units (e n : Nat) (b : List Byte) : (sendLink e n b s).units = s.units := by
  unfold sendLink; simp only [↓State.setEp_units, ↓pump_units]
@[simp] theorem sendColl_units (e n : Nat) (b : Bool) (f : Frame) : (sendColl e n b f s).units = s.units := by
  unfold sendColl; simp only [↓State.queueFrame_units]
@[simp] theorem sendTo_units (e n : Nat) (b : Bool) (f : Frame) : (sendTo e n b f s).units = s.units := by
  unfold sendTo; split <;> simp only [↓sendColl_units]
@[simp] theorem sendLend_units (pos n : Nat) (b : Bool) (f : LendMsg) : (sendLend pos n b f s).units = s.units := by
  unfold sendLend; simp only; split
  · rw [State.queueFrame_units]; rfl
  · rfl
@[simp] theorem State.poisonRange_units (a n : Nat) : (s.poisonRange a n).units = s.units := by
  rfl
@[simp] theorem State.clearPoison_units (l : List Nat) : (s.clearPoison l).units = s.units := by
  rfl
@[simp] theorem State.bump64_units (a b : Reg) (n : Nat) : (s.bump64 a b n).units = s.units := by
  rfl
@[simp] theorem retireBank_units (b : Nat) (a : Bool) : (retireBank b a s).units = s.units := by
  unfold retireBank; simp only; (repeat' split) <;> simp only [↓State.err_units, ↓State.setFld_units, ↓errRecord_units]
@[simp] theorem csCorrected_units (b w i : Nat) : (csCorrected b w i s).units = s.units := by
  unfold csCorrected; simp only; split <;> simp only [↓State.err_units, ↓errRecord_units, ↓retireBank_units]
@[simp] theorem failRow_units (g : Nat) (r : RowId) : (failRow g r s).units = s.units := by
  unfold failRow; simp only; split <;> rfl
@[simp] theorem mcgUpset_units (g : Nat) (r : RowId) (n : Nat) (u : Upset) : (mcgUpset g r n u s).units = s.units := by
  unfold mcgUpset; simp only; (repeat' split) <;> first | rfl | simp only [↓State.setMcg_units, ↓State.bump_units, ↓errRecord_units, ↓failRow_units]
@[simp] theorem garble_units (a : Nat) (x y : List Byte) : (garble a x y s).units = s.units := by
  unfold garble; split <;> rfl
theorem State.lost_units (x : List Nat) (y : Tab Errs) : { s with poison := x, upsets := y }.units = s.units := rfl
theorem State.stored_units (x : List Nat) (y : Tab Errs) : { s with poison := x, flips := y }.units = s.units := rfl
@[simp] theorem meetT0_units (p w : Nat) : (meetT0 p w s).units = s.units := by
  unfold meetT0; dsimp only
  (repeat' split) <;> simp only [↓State.lost_units, ↓errRecord_units, ↓retireBank_units, ↓csCorrected_units, ↓garble_units]
@[simp] theorem spoilSector_units (g i : Nat) : (spoilSector g i s).units = s.units := by
  have h (l : List Nat) (b : Bool) (f h : Nat → Nat) : (l.foldl (fun t k => if b then t.poisonRange (f k) 2048 else t.poisonRange (h k) 64) s).units = s.units :=
    foldl_units _ (fun t k => by split <;> simp only [↓State.poisonRange_units]) _ _
  unfold spoilSector; dsimp only; split
  · exact h _ _ _ _
  · exact h _ _ _ _
@[simp] theorem garbleSector_units (p g i : Nat) (x : List Byte) : (garbleSector p g i x s).units = s.units := by
  unfold garbleSector; dsimp only
  (repeat' split) <;> first | rfl | exact foldl_units _ (fun t k => by simp only [↓errRecord_units, ↓State.poisonRange_units]) _ _
@[simp] theorem meetT1_units (p g i : Nat) : (meetT1 p g i s).units = s.units := by
  unfold meetT1; dsimp only
  (repeat' split) <;> simp only [↓State.flips_units, ↓mcgUpset_units, ↓spoilSector_units, ↓garbleSector_units]
@[simp] theorem meetRange_units (a n : Nat) : (meetRange a n s).units = s.units := by
  unfold meetRange; split
  · rfl
  · refine foldl_units _ (fun t q => ?_) _ _
    dsimp only
    (repeat' split) <;> first | rfl | exact foldl_units _ (fun u w => by simp only [↓meetT0_units, ↓meetT1_units]) _ _
@[simp] theorem showInit_units (g : Nat) : (showInit g s).units = s.units := by rfl
@[simp] theorem t1Write_units (p : Nat) (us : List (Nat × Nat × Nat)) : (t1Write p us s).units = s.units := by
  unfold t1Write; exact foldl_units _ (fun t g => by simp only [↓showInit_units, ↓State.setMcg_units]) _ _
@[simp] theorem t1WritePage_units (p g : Nat) : (t1WritePage p g s).units = s.units := by
  unfold t1WritePage; dsimp only; rw [State.stored_units]; exact t1Write_units s _ _
theorem writePage_units (g a : Nat) (b : List Byte) : (writePage g a b s).units = s.units := by
  unfold writePage; dsimp only
  split
  · rfl
  · have h : ∀ (l : List Nat) (m : Tab Byte) (u f : Tab Errs) (c : List Nat) (p : Nat) (us : List (Nat × Nat × Nat)),
        (t1Write p us (State.clearPoison { l.foldl (fun t w => meetRange (w * 32) 32 t) s with mem := m, upsets := u, flips := f } c)).units = s.units := by
      intro l m u f c p us
      rw [t1Write_units, State.clearPoison_units]
      exact foldl_units _ (fun t w => meetRange_units t _ _) l s
    split
    · rw [State.bump_units, State.setPage_units]; exact h _ _ _ _ _ _ _
    · exact h _ _ _ _ _ _ _
@[simp] theorem State.writeBytes_units (a : Nat) (b : List Byte) : (s.writeBytes a b).units = s.units := by
  unfold State.writeBytes; exact foldl_units _ (fun t q => by simp only [↓writePage_units]) _ _
@[simp] theorem State.writePoisoned_units (a : Nat) (b : List Byte) : (s.writePoisoned a b).units = s.units := by
  unfold State.writePoisoned; simp only [↓State.poisonRange_units, ↓State.writeBytes_units]
@[simp] theorem State.touchPage_units (a : Nat) : (s.touchPage a).units = s.units := by
  rfl
@[simp] theorem issueRead_units (q va rkey len dst : Nat) (o : ReqOwner) : (issueRead q va rkey len dst o s).units = s.units := by
  unfold issueRead; simp only; split
  · rw [State.sendQp_units]; rfl
  · rfl
@[simp] theorem issueWrite_units (q va rkey : Nat) (d : List Byte) (i : Option Word) (o : ReqOwner) : (issueWrite q va rkey d i o s).units = s.units := by
  unfold issueWrite; simp only; split
  · rw [State.sendQp_units]; rfl
  · rfl
@[simp] theorem startRequests_units (q : Nat) : (startRequests q s).units = s.units := by
  unfold startRequests; rw [foldl_units _ (fun t m => by split <;> simp only [↓issueRead_units, ↓issueWrite_units])]; rfl
@[simp] theorem State.setLendPair_units (q : Nat) (x : LendPair) : (s.setLendPair q x).units = s.units := by
  rfl
@[simp] theorem sendOffer_units (q : Nat) : (sendOffer q s).units = s.units := by
  unfold sendOffer; dsimp only; rw [State.setLendPair_units, sendLend_units]
@[simp] theorem offerChanged_units : (offerChanged s).units = s.units := by
  unfold offerChanged; exact foldl_units _ (fun t q => by split <;> first | rfl | simp only [↓sendOffer_units]) _ _
@[simp] theorem placeAt_units (p g l : Nat) : (placeAt p g l s).units = s.units := by
  unfold placeAt
  generalize packForm s p g (s.page g).layout = f
  obtain ⟨pk, form⟩ := f
  simp only
  rw [State.setLendPair_units, foldl_units _ (fun t m => by simp only [↓sendLend_units])]
@[simp] theorem addBorrowed_units (p : Nat) (d : Int) : (addBorrowed p d s).units = s.units := by
  unfold addBorrowed; simp only; split <;> simp only [↓State.setFld_units]
@[simp] theorem writeBackRemote_units (p g : Nat) : (writeBackRemote p g s).units = s.units := by
  unfold writeBackRemote; simp only; (repeat' split) <;> simp only [↓issueWrite_units, ↓placeAt_units, ↓State.setPage_units]
@[simp] theorem freeHome_units (p : Nat) (x : Page) : (freeHome p x s).units = s.units := by
  unfold freeHome; split
  · rw [addBorrowed_units, sendLend_units]
  · rfl
@[simp] theorem putT1_units (p g : Nat) (y : Page) : (putT1 p g y s).units = s.units := by
  unfold putT1; rw [offerChanged_units, t1WritePage_units, State.setPage_units, freeHome_units, State.spend_units]
@[simp] theorem writeBack_units (p g : Nat) : (writeBack p g s).units = s.units := by
  unfold writeBack
  split
  · rfl
  have ht := meetRange_units s (g * 65536) 65536
  revert ht
  generalize meetRange (g * 65536) 65536 s = t
  intro ht; rw [← ht]
  dsimp only
  (repeat' split) <;> first
    | rfl
    | simp only [↓State.setPage_units, ↓putT1_units, ↓writeBackRemote_units, ↓offerChanged_units, ↓t1WritePage_units]
    | (rw [State.stored_units, t1Write_units, State.setPage_units])
@[simp] theorem dropErrors_units (g : Nat) : (dropErrors g s).units = s.units := by rfl
@[simp] theorem evict_units (p g : Nat) : (evict p g s).units = s.units := by
  unfold evict; dsimp only; split
  · exact writeBack_units s _ _
  · rw [State.setPage_units, dropErrors_units, writeBack_units]
@[simp] theorem fillValid_units (p g : Nat) : (fillValid p g s).units = s.units := by
  unfold fillValid; simp only [↓State.setPage_units]
@[simp] theorem fillHome_units (p g : Nat) : (fillHome p g s).units = s.units := by
  unfold fillHome; split <;> simp only [↓meetRange_units, ↓fillValid_units]
@[simp] theorem requestFill_units (p g n : Nat) (b d : Bool) : (requestFill p g n b d s).units = s.units := by
  unfold requestFill
  generalize storedAt s p g n = f
  obtain ⟨o, m⟩ := f
  simp only; (repeat' split) <;> first | rfl | simp only [↓State.fills_units, ↓sendLend_units, ↓issueRead_units]
@[simp] theorem dropFill_units (p g : Nat) : (dropFill p g s).units = s.units := by rfl
@[simp] theorem fillDown_units (p g k : Nat) : (fillDown p g k s).units = s.units := errRecord_units s _
@[simp] theorem translate_units (p g : Nat) : (translate p g s).units = s.units := by
  unfold translate; dsimp only; split <;> rfl
variable {s}

theorem cacheSlotFor_units {p g : Nat} {t : State} (h : cacheSlotFor p g s = some t) : t.units = s.units := by
  unfold cacheSlotFor at h
  simp only at h
  split at h
  · next u e =>
    obtain ⟨k, -, rfl⟩ := Option.map_eq_some_iff.mp e
    cases h
    rw [State.setPage_units, State.spend_units]
  · split at h
    · obtain ⟨k, -, rfl⟩ := Option.map_eq_some_iff.mp h
      rw [State.setPage_units, State.spend_units, evict_units]
    · cases h

theorem slotFor_units {p g : Nat} {t : State} (h : slotFor p g s = some t) : t.units = s.units := by
  unfold slotFor at h; split at h
  · cases h; rfl
  · exact cacheSlotFor_units h

variable (s)

@[simp] theorem markDirty_units (g k : Nat) : (markDirty g k s).units = s.units := by
  unfold markDirty; dsimp only; split <;> rfl

/-- A stripe's service changes nothing of a unit, whether or not it marks the stripe dirty. -/
theorem served_units (w : Bool) (g k : Nat) (t : State) (h : t.units = s.units) : (if w then markDirty g k t else t).units = s.units := by
  split <;> simp only [↓markDirty_units, h]

theorem touchStripe_units (p st : Nat) (w : Bool) : (touchStripe p w st s).state.units = s.units := by
  unfold touchStripe
  dsimp only
  (repeat' split)
  all_goals first | rfl | refine (served_units _ _ _ _ _ rfl).trans ?_ | refine (markDirty_units _ _ _).trans ?_ | skip
  all_goals simp only [↓fillHome_units, ↓fillValid_units, ↓State.touchPage_units, ↓dropFill_units, ↓State.poisonRange_units, ↓fillDown_units,
    ↓requestFill_units, ↓translate_units]
  all_goals first
    | exact (cacheSlotFor_units ‹cacheSlotFor _ _ _ = some _›).trans (translate_units s _ _)
    | exact (slotFor_units ‹slotFor _ _ _ = some _›).trans (translate_units s _ _)

/-- The state an access leaves, served or waiting. -/
def Touch.state : Touch → State
  | .wait t => t
  | .ok t _ => t

theorem touchRange_units (p : Nat) (w : Bool) (r : Touching) (a : Nat × Nat) : (touchRange p w r a).state.units = r.state.units := by
  have h : ∀ (l : List Nat) (x : Touching), (l.foldl (fun r' st =>
      let v := touchStripe p w st r'.state
      let said := (r'.notes.drop r.notes.length).any fun n => n.1 != 5
      ({ state := v.state, ok := r'.ok && v.ok, bad := if v.bad && !w then r'.bad ++ [st] else r'.bad
         notes := match v.note with
           | some c => if c != 5 && said then r'.notes else r'.notes ++ [(c, max a.1 (st * 2048))]
           | none => r'.notes } : Touching)) x).state.units = x.state.units := by
    intro l
    induction l with
    | nil => intro x; rfl
    | cons y l ih => intro x; rw [List.foldl_cons, ih]; exact touchStripe_units x.state p y w
  exact h _ r

theorem touch_units (p : Nat) (a : Access) : (touch p a s).state.units = s.units := by
  have all : ∀ (w : Bool) (l : List (Nat × Nat)) (r : Touching), (l.foldl (touchRange p w) r).state.units = r.state.units := by
    intro w l
    induction l with
    | nil => intro r; rfl
    | cons x l ih => intro r; rw [List.foldl_cons, ih, touchRange_units]
  have base := (all true a.writes _).trans (all false a.reads { state := s, ok := true, bad := [], notes := [] })
  unfold touch
  dsimp only
  split
  · refine (foldl_units _ (fun t w => meetRange_units t _ _) _ _).trans ?_
    refine (foldl_units _ (fun t w => errRecord_units t _) _ _).trans ?_
    exact (State.fills_units _ _).trans base
  · exact base

theorem bringIn_units (p a n : Nat) : (bringIn p a n s).units = s.units := by
  unfold bringIn
  refine foldl_units _ (fun t st => ?_) _ _
  dsimp only
  (repeat' split) <;> first
    | rfl
    | (next e => exact (fillValid_units _ _ _).trans ((slotFor_units e).trans (dropFill_units _ _ _)))

theorem readNow_units (p a n : Nat) : (readNow p a n s).1.units = s.units := by
  have h := touch_units s p { reads := [(a, n)], writes := [] }
  unfold readNow
  generalize touch p { reads := [(a, n)], writes := [] } s = o at *
  cases o with
  | ok t b => exact h
  | wait t =>
    have h2 := touch_units (bringIn p a n t) p { reads := [(a, n)], writes := [] }
    dsimp only
    generalize touch p { reads := [(a, n)], writes := [] } (bringIn p a n t) = o at *
    cases o <;> exact h2.trans ((bringIn_units t p a n).trans h)

@[simp] theorem writeNow_units (p a : Nat) (bs : List Byte) : (writeNow p a bs s).units = s.units := by
  have h := touch_units s p { reads := [], writes := [(a, bs.length)] }
  unfold writeNow
  generalize touch p { reads := [], writes := [(a, bs.length)] } s = o at *
  cases o with
  | ok t b => exact (State.writeBytes_units _ _ _).trans h
  | wait t =>
    have h2 := touch_units (bringIn p a bs.length t) p { reads := [], writes := [(a, bs.length)] }
    dsimp only
    generalize touch p { reads := [], writes := [(a, bs.length)] } (bringIn p a bs.length t) = o at *
    cases o <;> exact (State.writeBytes_units _ _ _).trans (h2.trans ((bringIn_units t p a bs.length).trans h))

@[simp] theorem writeReport_units (j : Job) (e : Nat) (q : QItem) (r : PassRun) : (writeReport j e q r s).units = s.units := by
  unfold writeReport
  split
  · split
    · exact writeNow_units s _ _ _
    · rfl
  · rfl

theorem unreported_units (j : Job) (n : Nat) : (unreported j n s).units = s.units := errRecord_units s _

@[simp] theorem reportJob_units (j : Job) (n : Nat) : (reportJob j n s).units = s.units := by
  unfold reportJob
  dsimp only
  split
  · exact issueWrite_units s _ _ _ _ _ _
  · exact unreported_units s j n

/-! ### What a projection keeps -/

theorem State.jobs_of_units {s t : State} (h : t.units = s.units) : t.jobs = s.jobs := congrArg (fun u => u.2.1.1) h
theorem State.sqs_of_units {s t : State} (h : t.units = s.units) : t.sqs = s.sqs := congrArg (fun u => u.2.1.2.1) h
theorem State.engs_of_units {s t : State} (h : t.units = s.units) : t.engs = s.engs := congrArg (fun u => u.2.1.2.2.1) h
theorem State.ves_of_units {s t : State} (h : t.units = s.units) : t.ves = s.ves := congrArg (fun u => u.2.1.2.2.2) h
theorem State.rde_of_units {s t : State} (h : t.units = s.units) : t.rde = s.rde := congrArg (fun u => u.2.2.1.1) h
theorem State.cx_of_units {s t : State} (h : t.units = s.units) : t.cx = s.cx := congrArg (fun u => u.2.2.1.2.1) h
theorem State.stashes_of_units {s t : State} (h : t.units = s.units) : t.stashes = s.stashes := congrArg (fun u => u.2.2.2.1.1) h
theorem State.flash_of_units {s t : State} (h : t.units = s.units) : t.flash = s.flash := congrArg (fun u => u.2.2.2.2.2.2.1) h
theorem State.tap_of_units {s t : State} (h : t.units = s.units) : t.tap = s.tap := congrArg (fun u => u.2.2.2.2.2.2.2.1) h

end Sys2Proof.Machine
end

