-- ==== Sys2Proof/Laws/Jobs.lean ====
section
/-! SUPPORT. What the sequencers' shared operations do: signals, stepping over a descriptor, the rows of the sequencer's own
descriptors. -/
namespace Sys2Proof.Machine

set_option Elab.async false

theorem State.jobAt_eq {s : State} {c k : Nat} {j : Job} (h : s.jobAt c = some (k, j)) : (s.sq c).job = some k ∧ s.job k = some j := by
  unfold State.jobAt at h
  cases e : (s.sq c).job with
  | none => rw [e] at h; cases h
  | some i =>
    rw [e] at h
    obtain ⟨x, hx, h⟩ := Option.map_eq_some_iff.mp h
    cases h
    exact ⟨rfl, hx⟩

theorem State.jobAt_intro {s : State} {c k : Nat} {j : Job} (h : (s.sq c).job = some k) (h2 : s.job k = some j) : s.jobAt c = some (k, j) := by
  unfold State.jobAt
  rw [h]
  simp [h2]

theorem State.atHand_eq {s : State} {c k : Nat} {j : Job} {d : Desc} (h : s.atHand c = some (k, j, d)) :
    s.jobAt c = some (k, j) ∧ (s.sq c).ended = false ∧ (j.stream (j.logical c) (s.sq c).stream)[(s.sq c).pos]? = some d := by
  unfold State.atHand at h
  cases e : s.jobAt c with
  | none => rw [e] at h; cases h
  | some x =>
    obtain ⟨i, y⟩ := x
    rw [e] at h
    simp only at h
    cases en : (s.sq c).ended with
    | true => simp [en] at h
    | false =>
      simp only [en, Bool.false_eq_true, if_false, Option.map_eq_some_iff] at h
      obtain ⟨b, hb, h⟩ := h
      cases h
      exact ⟨rfl, rfl, hb⟩

theorem Job.wellSized_ctr (c i : Nat) : (F.coreCtrValue c i).lo + (F.coreCtrValue c i).width ≤ 32 := Nat.le_of_ble_eq_true rfl

/-- Raising a signal changes the signalled counter and no other register, and nothing else. -/
theorem signalDesc_signals (j : Job) (d : Desc) (s : State) : Signals j d s (signalDesc j d s) := by
  unfold Signals signalDesc
  constructor
  · intro h
    simp only [h, Bool.not_true, Bool.false_eq_true, if_false]
    split
    · simp only [State.setCtr, State.ctr, State.fld_setFld_same _ _ _ (Job.wellSized_ctr _ _)]
      exact Nat.mod_mod _ _
    · simp only [State.setCtr, State.ctr, State.fld_setFld_same _ _ _ (Job.wellSized_ctr _ _)]
      exact Nat.mod_mod _ _
  · intro r hr
    split
    · rfl
    · next h =>
      have h : d.sigEn = true := by simpa using h
      dsimp only
      split <;> exact State.reg_setFld_ne _ _ (hr h)

theorem signalDesc_units (j : Job) (d : Desc) (s : State) : (signalDesc j d s).units = s.units := by
  unfold signalDesc; dsimp only; (repeat' split) <;> rfl

theorem signalDesc_rest (j : Job) (d : Desc) (s : State) : signalDesc j d s = { s with regs := (signalDesc j d s).regs } := by
  unfold signalDesc; dsimp only; (repeat' split) <;> rfl

theorem stepOver_spec {c : Nat} {s : State} {k : Nat} {j : Job} (h : s.jobAt c = some (k, j)) :
    stepOver c s = (s.setSq c { s.sq c with pos := (s.sq c).pos + 1, fenceFrom := some (j.issued + 1) }).setJob k { j with issued := j.issued + 1 } := by
  unfold stepOver
  rw [h]

theorem jobAt_congr {s t : State} (h : t.sqs = s.sqs) (h2 : t.jobs = s.jobs) (c : Nat) : t.jobAt c = s.jobAt c := by
  simp only [State.jobAt, State.sq, State.job, h, h2]

theorem atHand_congr {s t : State} (h : t.sqs = s.sqs) (h2 : t.jobs = s.jobs) (c : Nat) : t.atHand c = s.atHand c := by
  unfold State.atHand
  rw [jobAt_congr h h2, show t.sq c = s.sq c by simp only [State.sq, h]]

/-- A descriptor that the sequencer executes itself is complete: its signal is raised and it is stepped over. -/
theorem completeHere_spec {c : Nat} {s : State} {k : Nat} {j : Job} {d : Desc} (h : s.atHand c = some (k, j, d)) :
    completeHere c s = ((signalDesc j d s).setSq c { s.sq c with pos := (s.sq c).pos + 1, fenceFrom := some (j.issued + 1) }).setJob k
      { j with issued := j.issued + 1 } := by
  unfold completeHere
  rw [h]
  have hu := signalDesc_units j d s
  have hs := State.sqs_of_units hu
  have hj := State.jobs_of_units hu
  have h1 := (State.atHand_eq h).1
  rw [← jobAt_congr hs hj] at h1
  simp only [stepOver_spec h1]
  rw [show (signalDesc j d s).sq c = s.sq c by simp only [State.sq, hs]]

/-- The row of an own descriptor that is neither skipped nor waiting is its act. -/
theorem ownRow_next {s u : State} {c : Fin 4} {op k : Nat} {j : Job} {d : Desc} (h : OwnNext s u c op k j d)
    (act : Nat → Job → Desc → State → State) : ownRow c op act s.elapse = act k j d u := by
  obtain ⟨v, j0, h1, h2, h3, h4, rfl⟩ := h.hand
  unfold ownRow
  simp only [h1, h2, h3, h4, Bool.false_eq_true, if_false, if_true]

end Sys2Proof.Machine
end

