-- ==== Sys2Proof/Laws/Ve.lean ====
section
/-! SUPPORT. What one instruction of a vector engine does: the row's answer, and what its retirement changes. -/
namespace Sys2Proof.Machine

set_option Elab.async false

variable {s : State} {c : Fin 4} {op k : Nat} {j : Job} {q : QItem} {i : VInstr}

/-- The row of the instruction at PC is its act, on what the instruction sees. -/
theorem veRow_next (h : VeNext s c op k j q i) (act : VCtx → State → VOut) :
    veRow c op act s.elapse = match act (veCtx s c k j q i) s.elapse with
      | .ok t => t
      | .fault code t => veFault c code t
      | .wait t => t.bump64 (.veMemstallLo c) (.veMemstallHi c) (Config.elapsed (s.clock.freeIdx + 1)) := by
  obtain ⟨w, hw, rfl⟩ := h.word
  have hf : (shapeOf (parseV w).op).isSome = true := by
    have := h.form
    unfold VInstr.wellFormed at this
    cases e : shapeOf (parseV w).op with
    | none => rw [e] at this; cases this
    | some _ => rfl
  have e1 : s.elapse.ve c = s.ve c := rfl
  have e2 : s.elapse.jobAt c = s.jobAt c := rfl
  have e3 : s.elapse.live = s.live := rfl
  have e4 : s.elapse.coreFenced c = s.coreFenced c := rfl
  have e5 : s.elapse.vfetch c j = s.vfetch c j := rfl
  simp only [veRow, e1, e2, e3, e4, e5, h.kernel, h.job, h.live, h.inService, h.running, hw, h.opcode, h.form]
  rw [h.opcode] at hf
  rw [Option.isNone_eq_false_iff.mpr hf]
  simp only [veCtx, State.elapse_freeIdx, Bool.not_true, Bool.or_self, Bool.false_eq_true, if_false, ne_eq, not_true_eq_false]
  rfl

/-- A flag field raised or left. -/
theorem raise_on (s : State) (f : Fld) (b : Bool) (h : f.lo + f.width ≤ 32) (hw : 1 % 2 ^ f.width = 1) :
    (if b then s.setFld f 1 else s).on f = (s.on f || b) := by
  cases b with
  | false => simp
  | true => simp [State.on, State.fld_setFld_same _ _ _ h, hw]

theorem raise_fld_apart (s : State) (f g : Fld) (b : Bool) (hr : g.reg = f.reg) (hg : g.lo + g.width ≤ 32)
    (h : g.lo + g.width ≤ f.lo ∨ f.lo + f.width ≤ g.lo) : (if b then s.setFld f 1 else s).fld g = s.fld g := by
  cases b with
  | false => rfl
  | true => exact State.fld_setFld_apart _ _ hr hg h

theorem raise_reg_ne (s : State) (f : Fld) (b : Bool) {r : Reg} (h : r ≠ f.reg) :
    (if b then s.setFld f 1 else s).reg r = s.reg r := by
  cases b with
  | false => rfl
  | true => exact State.reg_setFld_ne _ _ h

/-- What raising flags does: registers but VE_FLAGS stay, each flag of it stays set or is raised. -/
theorem raiseFlags_reg_ne (c : Nat) (f : VFlags) (s : State) {r : Reg} (h : r ≠ .veFlags c) : (raiseFlags c f s).reg r = s.reg r := by
  unfold raiseFlags
  simp only
  rw [raise_reg_ne _ _ _ h, raise_reg_ne _ _ _ h, raise_reg_ne _ _ _ h]

theorem raiseFlags_rest (c : Nat) (f : VFlags) (s : State) : raiseFlags c f s = { s with regs := (raiseFlags c f s).regs } := by
  unfold raiseFlags
  cases f.ovf <;> cases f.inv <;> cases f.nf <;> rfl

theorem raiseFlags_on (c : Nat) (f : VFlags) (s : State) :
    (raiseFlags c f s).on (F.veFlagsOvf c) = (s.on (F.veFlagsOvf c) || f.ovf)
    ∧ (raiseFlags c f s).on (F.veFlagsInv c) = (s.on (F.veFlagsInv c) || f.inv)
    ∧ (raiseFlags c f s).on (F.veFlagsNf c) = (s.on (F.veFlagsNf c) || f.nf) := by
  unfold raiseFlags
  simp only
  have ble {a b : Nat} (h : Nat.ble a b = true) : a ≤ b := Nat.le_of_ble_eq_true h
  refine ⟨?_, ?_, ?_⟩
  · rw [State.on, raise_fld_apart _ (F.veFlagsNf c) (F.veFlagsOvf c) _ rfl (ble rfl) (Or.inl (ble rfl)),
      raise_fld_apart _ (F.veFlagsInv c) (F.veFlagsOvf c) _ rfl (ble rfl) (Or.inl (ble rfl))]
    exact raise_on _ _ _ (ble rfl) rfl
  · rw [State.on, raise_fld_apart _ (F.veFlagsNf c) (F.veFlagsInv c) _ rfl (ble rfl) (Or.inl (ble rfl)), ← State.on,
      raise_on _ (F.veFlagsInv c) _ (ble rfl) rfl, State.on,
      raise_fld_apart _ (F.veFlagsOvf c) (F.veFlagsInv c) _ rfl (ble rfl) (Or.inr (ble rfl))]
    rfl
  · rw [raise_on _ (F.veFlagsNf c) _ (ble rfl) rfl, State.on,
      raise_fld_apart _ (F.veFlagsInv c) (F.veFlagsNf c) _ rfl (ble rfl) (Or.inr (ble rfl)),
      raise_fld_apart _ (F.veFlagsOvf c) (F.veFlagsNf c) _ rfl (ble rfl) (Or.inr (ble rfl))]
    rfl

/-- A 64-bit counter pair counts modulo 2^64. -/
theorem State.pair_bump64 (s : State) {lo hi : Reg} (n : Nat) (h : lo ≠ hi) :
    (s.bump64 lo hi n).pair lo hi = (s.pair lo hi + n) % 2 ^ 64 := by
  unfold State.pair State.bump64
  simp only [State.reg_setReg_same, State.reg_setReg_ne _ _ h]
  rw [BitVec.toNat_ofNat, BitVec.toNat_ofNat]
  omega

/-- What retirement does to the registers. -/
theorem retire_spec (c : Nat) (step : Int) (s : State) :
    (retire c step s) = { s with regs := (retire c step s).regs }
    ∧ (∀ r, r ∉ [Reg.vePc c, .veRetiredLo c, .veRetiredHi c] → (retire c step s).reg r = s.reg r)
    ∧ (retire c step s).fld (F.vePcPc c) = unsignedOf 13 ((s.fld (F.vePcPc c) : Int) + step)
    ∧ (retire c step s).pair (.veRetiredLo c) (.veRetiredHi c) = (s.pair (.veRetiredLo c) (.veRetiredHi c) + 1) % 2 ^ 64 := by
  unfold retire
  refine ⟨rfl, ?_, ?_, ?_⟩
  · intro r hr
    simp only [List.mem_cons, List.not_mem_nil, or_false, not_or] at hr
    unfold State.bump64
    rw [State.reg_setReg_ne _ _ hr.2.2, State.reg_setReg_ne _ _ hr.2.1, State.reg_setFld_ne _ _ hr.1]
  · unfold State.bump64
    rw [State.fld_setReg_ne _ _ (by simp), State.fld_setReg_ne _ _ (by simp), State.fld_setFld_same _ _ _ (Nat.le_of_ble_eq_true rfl)]
    show unsignedOf 13 _ % 2 ^ 13 = _
    exact Nat.mod_eq_of_lt (by unfold unsignedOf; omega)
  · rw [State.pair_bump64 _ _ (by simp)]
    unfold State.pair
    rw [State.reg_setFld_ne _ _ (by simp), State.reg_setFld_ne _ _ (by simp)]

/-- An instruction that ends: the engine is `x`, the flags are raised, it has retired. -/
theorem done_spec (s : State) (C : VCtx) (x : Ve) (f : VFlags) (h : C.core < 4) :
    ∃ t, C.done x f s = .ok t ∧ t.ve C.core = x ∧ VeRaises ⟨C.core, h⟩ f s t ∧ VeRetires ⟨C.core, h⟩ 1 s t := by
  unfold VCtx.done
  refine ⟨_, rfl, ?_, ?_, ?_, ?_, ?_, ?_, ?_⟩
  · rw [show (retire C.core 1 (raiseFlags C.core f ((s.setVe C.core x).drawn (8 + C.core) 4096))).ve C.core
      = (s.setVe C.core x).ve C.core by rw [(retire_spec _ _ _).1, raiseFlags_rest]; rfl]
    exact State.ve_setVe_same _ _ _
  · have hreg : ∀ g : Fld, g.reg = .veFlags C.core →
        (retire C.core 1 (raiseFlags C.core f ((s.setVe C.core x).drawn (8 + C.core) 4096))).on g
        = (raiseFlags C.core f ((s.setVe C.core x).drawn (8 + C.core) 4096)).on g := by
      intro g hg
      unfold State.on State.fld
      rw [(retire_spec _ _ _).2.1 _ (by rw [hg]; simp)]
    refine ⟨?_, ?_, ?_⟩
    · rw [hreg _ rfl]; exact (raiseFlags_on _ _ _).1
    · rw [hreg _ rfl]; exact (raiseFlags_on _ _ _).2.1
    · rw [hreg _ rfl]; exact (raiseFlags_on _ _ _).2.2
  · rw [(retire_spec _ _ _).1, raiseFlags_rest]; rfl
  · intro i hi
    rw [show (retire C.core 1 (raiseFlags C.core f ((s.setVe C.core x).drawn (8 + C.core) 4096))).ve i
      = (s.setVe C.core x).ve i by rw [(retire_spec _ _ _).1, raiseFlags_rest]; rfl]
    exact State.ve_setVe_ne _ _ hi
  · intro r hr
    simp only [List.mem_cons, List.not_mem_nil, or_false, not_or] at hr
    rw [(retire_spec _ _ _).2.1 r (by simp [hr]), raiseFlags_reg_ne _ _ _ hr.2.2.2]
    rfl
  · rw [(retire_spec _ _ _).2.2.1]
    unfold State.fld
    rw [raiseFlags_reg_ne _ _ _ (by simp)]
    rfl
  · rw [(retire_spec _ _ _).2.2.2]
    unfold State.pair
    rw [raiseFlags_reg_ne _ _ _ (by simp), raiseFlags_reg_ne _ _ _ (by simp)]
    rfl

end Sys2Proof.Machine
end

