-- ==== Sys2Proof/Laws/Wire.lean ====
section
/-! SUPPORT. What a frame's arrival can change, said once: the registers of the fabric, the ports and what RDE holds; nothing else. -/
namespace Sys2Proof.Machine

set_option Elab.async false

theorem showMaster_only (s : State) : ∃ r, showMaster s = { s with regs := r } := by
  unfold showMaster
  cases s.masterPos <;> exact ⟨_, rfl⟩

theorem heardFrom_only (ep pos : Nat) (s : State) : ∃ r x d, heardFrom ep pos s = { s with regs := r, eps := x, rde := d } := by
  unfold heardFrom
  dsimp only
  split
  · exact ⟨_, _, _, rfl⟩
  · obtain ⟨r, h⟩ := showMaster_only { ((s.setEp ep { s.ep ep with peerPos := some pos }).setFld (F.rdePeerPeer ep) pos).setFld (F.rdePeerAlive ep) 1 with
      rde := { s.rde with lostSeen := s.rde.lostSeen.filter fun q => q != pos, declared := s.rde.declared.filter fun q => q != pos, live := pos :: s.rde.live } }
    exact ⟨r, _, _, h⟩

theorem heardPort_only (ep : Nat) (s : State) : ∃ r x d, heardPort ep s = { s with regs := r, eps := x, rde := d } := by
  unfold heardPort
  split
  · exact heardFrom_only _ _ _
  · exact ⟨s.regs, s.eps, s.rde, rfl⟩

/-- A fabric frame that is taken from its port changes registers, ports and what RDE holds, and time passes. -/
theorem landed_only (e : Fin 16) (type : Nat) (f : Frame) (s : State) :
    ∃ r x d, landed e type f s = { s with regs := r, eps := x, rde := d, clock := s.elapse.clock } := by
  obtain ⟨r, x, d, h⟩ := heardPort_only e (s.elapse.setEp e { s.ep e with inbox := (s.ep e).inbox.erase (.coll type f) })
  exact ⟨r, x, d, h⟩

@[simp] theorem landed_jobs (e : Fin 16) (type : Nat) (f : Frame) (s : State) : (landed e type f s).jobs = s.jobs := by
  obtain ⟨r, x, d, h⟩ := landed_only e type f s
  rw [h]
@[simp] theorem landed_mem (e : Fin 16) (type : Nat) (f : Frame) (s : State) : (landed e type f s).mem = s.mem := by
  obtain ⟨r, x, d, h⟩ := landed_only e type f s
  rw [h]
@[simp] theorem landed_pages (e : Fin 16) (type : Nat) (f : Frame) (s : State) : (landed e type f s).pages = s.pages := by
  obtain ⟨r, x, d, h⟩ := landed_only e type f s
  rw [h]

end Sys2Proof.Machine
end

