-- ==== Sys2Proof/Tests/Slice0.lean ====
section
/-! SUPPORT. Tests: terms that WellFormed refuses, a state that meets the hypotheses of each statement, and examples that the spec works out. -/
namespace Sys2Proof.Tests
open Sys2Proof Sys2Proof.Machine
set_option Elab.async false

/-! ### Small states -/

/-- A device that has started, with its eight engines and one partition of core 0, range 0 to 256 MiB, one tenant slot. -/
def base : State :=
  [(F.glbBootReady, 1), (F.glbMePresentMePresent, 0xFF), (F.secPartCfgValid 0, 1), (F.secPartCfgCores 0, 1), (F.secPartCfgQuarters 0, 1),
   (F.secPartMcgMcgs 0, 1), (F.secPartEpPorts 0, 1), (F.spnRangeSizeSize 0, 1)].foldl (fun s x => s.setFld x.1 x.2)
    { State.reset with aoc := { Aoc.empty with mode := .running } }

def t0Page : Page := { Page.empty with home := .t0 }

def desc (op : Nat) (body : List Byte) : Desc :=
  { offset := 0, opcode := op, unit := 0, waitEn := false, sigEn := false, bwdStart := false, layerStart := false, stopOnStatus := false,
    stashOnly := false, recomputeOnly := false, tag := 0, waitCtr := 0, sigCtr := 0, waitVal := 0, layer := 0xFFFF, body := body }
def item (d : Desc) : QItem :=
  { d := d, micro := 0, attempt := 0, skipped := false, resume := 0, ePass := 0, replays := 0, last := false, upd := false, no := 0 }

/-- The body of a descriptor: fields by offset from its start, 0x10 to 0x3F. -/
def bodyOf (l : List (Nat × Nat × Nat)) : List Byte :=
  l.foldl (fun b f => b.take (f.1 - 16) ++ leBytes f.2.1 f.2.2 ++ b.drop (f.1 - 16 + f.2.1)) (List.replicate 48 0)

/-- A job of core 0 with one base at address 0 and one at 64 KiB. -/
def job : Job :=
  { part := 0, ring := 0, seq := 1, record := JobRec.empty, image := { JobImage.empty with bases := [⟨0, 0, 0⟩, ⟨65536, 0, 0⟩], kernelLen := 65536 }
    cores := [0], ending := none, failTag := 0, failDetail := 0, nfOver := false, saved := false, nfTiles := 0, nfListed := 0, startStamp := 0
    issued := 0, train := Train.empty, suspend := false, seeded := [], last := Train.empty }
def trainJob : Job := { job with record := { JobRec.empty with kind := 1 } }

/-- `base` with a job on core 0, whose sequencer is `q`; pages 0 and 1 lie in T0. -/
def running (j : Job) (q : Sq) : State :=
  { base with jobs := [(0, j)], sqs := [(0, { q with job := some 0 })], pages := [(0, t0Page), (1, t0Page)] }

/-- An access is served, and what it leaves passes a check. -/
def okAnd (t : Touch) (f : State → List Nat → Bool) : Bool := match t with | .ok u b => f u b | .wait _ => false
theorem of_okAnd {t : Touch} {f : State → List Nat → Bool} (h : okAnd t f = true) : ∃ u b, t = .ok u b ∧ f u b = true := by
  cases t with
  | ok u b => exact ⟨u, b, rfl, h⟩
  | wait u => cases h

/-! ### Vector engine -/

/-- The vector engine of core 0 runs a kernel whose first instruction is the word `w`, with VL 2. -/
def veState (w : Nat) (j : Job) (upd : Bool) : State :=
  let k := { item (desc 3 (bodyOf [])) with upd := upd }
  ((running j Sq.empty).setVe 0 { Ve.empty with running := true, kernel := some k, store := leBytes 8 w, layer := 0 }).setFld (F.veStatusVl 0) 2
def veItem (upd : Bool) : QItem := { item (desc 3 (bodyOf [])) with upd := upd }

/-- The word of an opcode with its other fields. -/
def vword (op d a b c ty x imm : Nat) : Nat := op + d * 2 ^ 8 + a * 2 ^ 14 + b * 2 ^ 20 + c * 2 ^ 26 + ty * 2 ^ 33 + x * 2 ^ 36 + imm * 2 ^ 40

theorem veNext_of (w op : Nat) (j : Job) (upd : Bool) (h1 : (veState w j upd).live = true) (h2 : (veState w j upd).coreFenced 0 = false)
    (h3 : (veState w j upd).jobAt 0 = some (0, j)) (h4 : (veState w j upd).vfetch 0 j = some w) (h5 : (parseV w).op = op) (h6 : (parseV w).wellFormed = true) :
    VeNext (veState w j upd) 0 op 0 j (veItem upd) (parseV w) :=
  ⟨h1, h2, rfl, rfl, h3, ⟨w, h4, rfl⟩, h5, h6⟩

/-- The opcodes that have a statement for a running kernel of any job, and the word each is tried with: the roundings of NRG and NSSQ
are stochastic. -/
def vops : List Nat :=
  [0x10, 0x11, 0x12, 0x13, 0x14, 0x15, 0x1A, 0x3A, 0x16, 0x17, 0x18, 0x19, 0x1B, 0x1C, 0x1D, 0x1E, 0x1F, 0x20, 0x21, 0x22, 0x45, 0x48]
  ++ [0x30, 0x31, 0x32, 0x33, 0x34, 0x35, 0x36, 0x37, 0x38, 0x39, 0x40, 0x41, 0x42, 0x43, 0x44, 0x46, 0x47, 0x50]
  ++ [0x00, 0x01, 0x02, 0x03, 0x04, 0x05, 0x06, 0x08, 0x09, 0x60, 0x61, 0x62, 0x63, 0x64, 0x65, 0x66, 0x67, 0x51, 0x52, 0x72, 0x73, 0x74, 0x75]
def opWord (op : Nat) : Nat := if op = 0x72 ∨ op = 0x73 ∨ op = 0x70 ∨ op = 0x71 then op + 2 ^ 32 else op

/-- VeArithmeticLanes, VeBitLanes, VeTranscendentalsAndConversion, VeScalars, VeControlAndKernels, VeLoads, VeStores, VeOptimizer: each
instruction runs somewhere. -/
theorem wit_VeWords : ∀ op ∈ vops, VeNext (veState (opWord op) job false) 0 op 0 job (veItem false) (parseV (opWord op)) := by
  intro op h
  have all : (vops.all fun op => (veState (opWord op) job false).live && !(veState (opWord op) job false).coreFenced 0
        && decide ((veState (opWord op) job false).jobAt 0 = some (0, job)) && decide ((veState (opWord op) job false).vfetch 0 job = some (opWord op))
        && decide ((parseV (opWord op)).op = op) && (parseV (opWord op)).wellFormed) = true := by decide +kernel
  have := List.all_eq_true.mp all op h
  simp only [Bool.and_eq_true, Bool.not_eq_true', decide_eq_true_eq] at this
  obtain ⟨⟨⟨⟨⟨a, b⟩, c⟩, d⟩, e⟩, f⟩ := this
  exact veNext_of _ _ _ _ a b c d e f

/-- SETVL at the ends of its range, and next to them. -/
theorem wit_VeSetvl : ∀ n ∈ [0, 1, 1024, 1025, 2047],
    VeNext (veState (vword 7 0 0 0 0 0 0 n) job false) 0 7 0 job (veItem false) (parseV (vword 7 0 0 0 0 0 0 n)) ∧ (parseV (vword 7 0 0 0 0 0 0 n)).imm = n := by
  intro n h
  simp only [List.mem_cons, List.not_mem_nil, or_false] at h
  rcases h with rfl | rfl | rfl | rfl | rfl <;> exact ⟨veNext_of _ _ _ _ (by decide +kernel) (by decide +kernel) (by decide +kernel) (by decide +kernel) (by decide +kernel) (by decide +kernel), by decide +kernel⟩

/-- VeOptimizer: OADAM and OSGD in the update stream of a training job. -/
theorem wit_VeOptimizer : ∀ op ∈ [0x70, 0x71],
    VeNext (veState (opWord op) trainJob true) 0 op 0 trainJob (veItem true) (parseV (opWord op)) ∧ trainJob.training = true ∧ (veItem true).upd = true
    ∧ ((veState (opWord op) trainJob true).ve 0).layer ≠ 0xFFFF := by
  intro op h
  simp only [List.mem_cons, List.not_mem_nil, or_false] at h
  rcases h with rfl | rfl <;> exact ⟨veNext_of _ _ _ _ (by decide +kernel) (by decide +kernel) (by decide +kernel) (by decide +kernel) (by decide +kernel) (by decide +kernel),
    by decide +kernel, by decide +kernel, by decide +kernel⟩

/-- The access of a memory instruction of the running kernel is served. -/
def served (op : Nat) (write : Bool) (align : Nat) (f : VCtx → Ve → List (Nat × Nat)) : Prop :=
  let s := veState (opWord op) job false
  let C := veCtx s 0 0 job (veItem false) (parseV (opWord op))
  ∃ u, VeServed s C align 0 write (f C (s.ve 0)) u

/-- VeLoads, VeStores, VeOptimizer: the accesses at base 0 are served. -/
theorem wit_VeServed :
    served 0x60 false 2 (fun C x => (C.contiguous x 0).map fun a => (a, 2)) ∧ served 0x62 false 2 (fun C x => (C.strided x 0).map fun a => (a, 2))
    ∧ served 0x64 false 2 (fun C x => (C.indexed x 0).map fun a => (a, 2)) ∧ served 0x66 false 2 (fun C x => [(C.scalarAddr x 0, 2)])
    ∧ served 0x61 true 2 (fun C x => (C.contiguous x 0).map fun a => (a, 2)) ∧ served 0x63 true 2 (fun C x => (C.strided x 0).map fun a => (a, 2))
    ∧ served 0x65 true 2 (fun C x => (C.indexed x 0).map fun a => (a, 2)) ∧ served 0x67 true 2 (fun C x => [(C.scalarAddr x 0, 2)])
    ∧ served 0x74 true 4 (fun C x => [(C.pairAddr x 0, 4)]) ∧ served 0x75 false 4 (fun C x => [(C.pairAddr x 0, 4)])
    ∧ (∃ u, let s := veState 0x51 job false; let C := veCtx s 0 0 job (veItem false) (parseV 0x51); fmtMx (parseV 0x51).c = false ∧ VeServed s C C.packedAlign 0 false (C.packed (s.ve 0) 0) u)
    ∧ (∃ u, let s := veState 0x52 job false; let C := veCtx s 0 0 job (veItem false) (parseV 0x52); fmtMx (parseV 0x52).c = false ∧ VeServed s C C.packedAlign 0 true (C.packed (s.ve 0) 0) u) := by
  refine ⟨?_, ?_, ?_, ?_, ?_, ?_, ?_, ?_, ?_, ?_, ?_, ?_⟩
  all_goals first
    | exact ⟨_, by decide +kernel, by decide +kernel, by decide +kernel, ⟨_, rfl, fun _ => by decide +kernel⟩⟩
    | exact ⟨_, by decide +kernel, by decide +kernel, by decide +kernel, by decide +kernel, ⟨_, rfl, fun _ => by decide +kernel⟩⟩

/-- VeControlAndKernels: a VKERN with its entry at the start of the store, and at its last word; a kernel at its limit. -/
def vkernState (e : Nat) : State :=
  running job { Sq.empty with ve := [item (desc 3 (bodyOf [(0x10, 4, e / 64), (0x14, 4, noAddr)]))] }
theorem wit_VeKernels : (∀ e ∈ [0, 65472],
    ((vkernState e).ve 0).running = false ∧ (vkernState e).ready 0 .ve 3 = some (0, job, item (desc 3 (bodyOf [(0x10, 4, e / 64), (0x14, 4, noAddr)])))
    ∧ job.addrOf (item (desc 3 (bodyOf [(0x10, 4, e / 64), (0x14, 4, noAddr)]))) 0x10 = some e ∧ e % 8 = 0 ∧ e / 8 < 8192)
    ∧ (let q := item (desc 3 (bodyOf [(0x18, 4, 1)]))
       let s := (running job Sq.empty).setVe 0 { Ve.empty with running := true, kernel := some q }
       s.live = true ∧ (s.ve 0).kernel = some q ∧ q.d.at 0x18 4 ≠ 0 ∧ s.jobAt 0 = some (0, job)) := by decide +kernel

/-! ### Sequencers and jobs -/

/-- A job with a main stream or an update stream of one descriptor. -/
def withMain (j : Job) (d : Desc) : Job := { j with image := { j.image with main := [[d]] } }
def withUpdate (j : Job) (d : Desc) : Job := { j with image := { j.image with update := [[d]] } }
def inMain : Sq := { Sq.empty with stream := .main }
def inUpdate : Sq := { Sq.empty with stream := .update }

/-- `OwnNext` holds of a state in which nothing keeps the descriptor at hand. -/
theorem ownNext_of (s : State) (c : Fin 4) (op k : Nat) (j : Job) (d : Desc) (h1 : ownHand c op s.elapse = some (s.elapse, k, j, d))
    (h2 : s.elapse.job k = some j) (h3 : s.elapse.skips c j d = false) (h4 : s.elapse.waitMet j d ((s.elapse.sq c).stream == .update) = true)
    (h5 : (s.elapse.setSq c { s.elapse.sq c with dusk := false }).atHand c = some (k, j, d)) :
    OwnNext s (s.elapse.setSq c { s.elapse.sq c with dusk := false }) c op k j d :=
  ⟨⟨_, _, h1, h2, h3, h4, rfl⟩, h5⟩

/-- SequencerDescriptors: each of the four at hand, and a FENCE met and not met. -/
theorem wit_SequencerDescriptors : (∀ op ∈ [8, 9, 0xA, 0xF], ∃ u, OwnNext (running (withMain job (desc op (bodyOf []))) inMain) u 0 op 0
      (withMain job (desc op (bodyOf []))) (desc op (bodyOf [])) ∧ (op = 0xA → u.fenceMet 0 (withMain job (desc op (bodyOf []))) 0 = true))
    ∧ ∃ u, let d := desc 0xA (bodyOf [(0x10, 1, 2)])
      OwnNext (running (withMain job d) { inMain with ve := [item (desc 3 (bodyOf []))], fenceFrom := some 1 }) u 0 0xA 0 (withMain job d) d
      ∧ u.fenceMet 0 (withMain job d) (d.at 0x10 1) = false := by
  refine ⟨fun op h => ?_, _, ownNext_of _ _ _ _ _ _ rfl rfl rfl rfl rfl, rfl⟩
  simp only [List.mem_cons, List.not_mem_nil, or_false] at h
  rcases h with rfl | rfl | rfl | rfl <;> exact ⟨_, ownNext_of _ _ _ _ _ _ rfl rfl rfl rfl rfl, by decide +kernel⟩

/-- VoteAndCommit: a vote of a group of one and of two; a commit after a vote. -/
def voteDesc (n : Nat) : Desc := desc 0xB (bodyOf [(0x10, 1, n)])
def commitJob (v : Bool) (st : Option Nat) : Job :=
  { withUpdate trainJob (voteDesc 2) with train := { Train.empty with vote := some v, phase := .update, endAfter := st } }
theorem wit_Vote : (∀ n ∈ [1, 2], ∃ u, let j := { withUpdate trainJob (voteDesc 1) with record := { JobRec.empty with kind := 1, groupSize := n } }
      OwnNext (running j inUpdate) u 0 0xB 0 j (voteDesc 1) ∧ (voteDesc 1).at 0x10 1 = 1 ∧ j.train.vote = none
      ∧ (u.rde.colls.any fun x => x.key == 0 && x.item.isNone) = false ∧ j.record.groupSize = n) := by
  intro n h
  simp only [List.mem_cons, List.not_mem_nil, or_false] at h
  rcases h with rfl | rfl <;> exact ⟨_, ownNext_of _ _ _ _ _ _ rfl rfl rfl rfl rfl, by decide +kernel, rfl, by decide +kernel, rfl⟩
theorem wit_Commit : ∀ v ∈ [true, false], ∃ u, let j := commitJob v none
      OwnNext (running j inUpdate) u 0 0xB 0 j (voteDesc 2) ∧ (voteDesc 2).at 0x10 1 = 2 ∧ j.train.vote = some v
      ∧ (j.cores.all fun o => (u.pendingNos o .coll).isEmpty) = true ∧ u.fld F.rdeStatusPairState ≠ 1 ∧ u.mirrorsDone j = true := by
  intro v h
  simp only [List.mem_cons, List.not_mem_nil, or_false] at h
  rcases h with rfl | rfl <;>
    exact ⟨_, ownNext_of _ _ _ _ _ _ rfl rfl rfl rfl rfl, by decide +kernel, rfl, by decide +kernel, by decide +kernel, by decide +kernel⟩
/-- The commit word at its ends: step 0, and the last word of 64 bits. -/
theorem wit_CommitFlip : (∀ n ∈ [0, 2 ^ 63, 2 ^ 64 - 1], n < 2 ^ 64) ∧ ({ Train.empty with commitWord := 2 ^ 64 - 1 } : Train).flip.commitWord = 0 := by decide +kernel

/-- Dispatch: a VKERN and a PASS at hand, kept and skipped. -/
theorem wit_Dispatch : ∀ y ∈ [(desc 3 (bodyOf []), QUnit.ve), (desc 2 (bodyOf []), .eng0)],
    ∃ v, let j := withMain job y.1
      let s := running j inMain
      s.live = true ∧ s.coreFenced 0 = false ∧ s.atHand 0 = some (0, j, y.1) ∧ y.1.queue = some y.2 ∧ j.stopped = false
      ∧ ((s.sq 0).queue y.2).length < 16 ∧ bwdFence 0 0 j y.1 s.elapse = some v ∧ v.job 0 = some j ∧ (v.sq 0).job = some 0
      ∧ (v.eng 0).loaded = none ∧ (v.eng 0).dropNext = false ∧ v.skips 0 j y.1 = false := by
  intro y h
  simp only [List.mem_cons, List.not_mem_nil, or_false] at h
  rcases h with rfl | rfl <;> exact ⟨_, by decide +kernel, by decide +kernel, by decide +kernel, by decide +kernel, by decide +kernel, by decide +kernel, rfl,
    by decide +kernel, by decide +kernel, by decide +kernel, by decide +kernel, by decide +kernel⟩
def skippedDesc : Desc := { desc 3 (bodyOf []) with stashOnly := true, layer := 0 }
def skippedImage : JobImage := { job.image with main := [[skippedDesc]], layers := [{ stash := 0, input := 0, recompute := 0, mark := true }] }
def skippedJob : Job := { trainJob with image := skippedImage, train := { Train.empty with recompute := [0] } }
theorem wit_DispatchSkipped : (running skippedJob inMain).atHand 0 = some (0, skippedJob, skippedDesc)
    ∧ ((running skippedJob inMain).sq 0).queue .ve = [] ∧ (running skippedJob inMain).skips 0 skippedJob skippedDesc = true := by decide +kernel

/-- Runs: phase 2 of a training job, its end, and the end of the main streams of any other. -/
def microJob (n : Nat) (poisoned : Bool) : Job := { trainJob with train := { Train.empty with phase := .micro, microRun := n, poisoned := poisoned } }
theorem wit_Runs : let s := running (microJob 0 false) Sq.empty
    let j := withUpdate job (desc 0xF (bodyOf []))
    s.live = true ∧ s.jobAt 0 = some (0, microJob 0 false) ∧ s.between (microJob 0 false) = true ∧ s.unitsIdle (microJob 0 false) = true
    ∧ (microJob 0 false).train.microRun < (microJob 0 false).record.window
    ∧ (∀ y ∈ [microJob 1 false, microJob 0 true], (running y Sq.empty).between y = true ∧ y.stopped = false ∧ (y.train.poisoned = true ∨ y.record.window ≤ y.train.microRun))
    ∧ (running j { inMain with ended := true }).between j = true ∧ j.stopped = false ∧ (j.image.update.any fun l => !l.isEmpty) = true := by decide +kernel

/-- Rings: an entry at the head of ring 0, and of ring 15 alone; a ring that is disabled and one that is enabled. -/
def ringState (r n : Nat) : State :=
  ({ base with rings := memPut [] (r * 65536 + 0xF8) 1 }.setFld (F.jobRingCtrlEnable 0 r) n).setFld (F.jobRingSeqNextSeq 0 r) 1
theorem wit_Rings : (∀ r ∈ [0, 15], (ringState r 1).intake 0 = true ∧ (List.range 16).find? ((ringState r 1).takeable 0) = some r)
    ∧ (∀ n ∈ [0, 1], (ringState 15 n).writable = true ∧ (ringState 15 n).on (F.jobRingCtrlEnable 0 15) = (n == 1)) := by decide +kernel
/-- A job whose core mask is empty is refused. -/
theorem wit_RingsRefused : let s := ringState 0 1
    (worstFail (loadEntry 0 ((s.ringHead 0 0).getD []) ((s.elapse.setFld (F.jobRingSeqNextSeq 0 0) 2).bump (F.ldgJobsTakenTaken 0))).fails).isSome = true := by
  decide +kernel

/-- JobStops: a WAIT that is not met, and a queue head whose wait is not met, past their limits; jobs with and without a save area. -/
def waiting : Desc := { desc 8 (bodyOf []) with waitEn := true, waitCtr := 0, waitVal := 1 }
theorem wit_Timeout : let j := { withMain job waiting with record := { JobRec.empty with ctrTimeout := 1 } }
    (running j inMain).live = true ∧ (running j inMain).job 0 = some j ∧ j.ending = none ∧ (running j inMain).handTimeout 0 = some (1, 0, j, waiting) :=
  ⟨by decide +kernel, rfl, rfl, rfl⟩
theorem wit_HeadTimeout : let j := { trainJob with record := { JobRec.empty with kind := 1, ctrTimeout := 1 } }
    let d := { waiting with opcode := 3 }
    let s := running j { Sq.empty with ve := [item d] }
    s.handTimeout 0 = none ∧ (allUnits[2]?).bind (s.headTimeout 0) = some (1, 0, j, d) ∧ j.train.phase.open = true ∧ j.train.poisoned = false ∧ j.train.endAfter = none :=
  ⟨rfl, rfl, rfl, rfl, rfl⟩
theorem wit_Stopped : (∀ m ∈ [1, 15], (running job Sq.empty).writable = true ∧ (running job Sq.empty).maskJobs 0 m = [0])
    ∧ job.record.saveAddr = 0 ∧ ({ trainJob.record with saveAddr := 65536 } : JobRec).saveAddr ≠ 0 := by decide +kernel

/-- Completion: a job whose streams have ended, and one that a suspend has stopped. -/
theorem wit_Completion : (let s := running job { inMain with ended := true }
      s.live = true ∧ s.jobAt 0 = some (0, job) ∧ s.endsNow job = some 0)
    ∧ (let j := { job with suspend := true }
       (running j inMain).endsNow j = some 2) ∧ (let j := { job with ending := some 0x16 }
       (running j inMain).endsNow j = some 0x16) := by decide +kernel

/-! ### Matrix engines -/

/-- A LOAD and a PASS of one BF16 element, everything at the start of the base; the LOAD names a plan entry or none. -/
def loadDesc (plan : Nat) : Desc := desc 1 (bodyOf [(0x14, 4, noAddr), (0x18, 4, 64), (0x1C, 2, 1), (0x1E, 2, 1), (0x24, 4, noAddr), (0x28, 4, plan)])
def passDesc : Desc :=
  desc 2 (bodyOf [(0x14, 4, noAddr), (0x18, 4, 64), (0x1C, 4, 1), (0x20, 4, 1), (0x24, 4, noAddr), (0x28, 4, 64), (0x2C, 4, noAddr), (0x30, 4, 2), (0x34, 4, 3)])
def loadState (plan : Nat) : State := running job { Sq.empty with eng0 := [item (loadDesc plan), item passDesc] }

/-- EngineLoad: a LOAD without a plan entry, and one whose plan entry says SKIPPED; what comes from outside while it runs is nothing. -/
def calmLoad : LoadEnv := { engine := 0, rates := [], feed := 0, both := 0, hwFault := none, preemptAt := none }
theorem wit_EngineLoad : LoadNext (loadState noAddr) (loadStart 0 0 (loadState noAddr)) 0 0 job (item (loadDesc noAddr)) (item passDesc) []
    ∧ ∃ m u bad, let l := loadItem 0 0 job (item (loadDesc noAddr)) (item passDesc) (loadState noAddr)
      let v := loadStart 0 0 (loadState noAddr)
      let reads := (m.timeline job l (item passDesc) (v.pick 512)).map (·.2)
      let w := m.rows.foldl (fun x a => streamLoad 0 a x) u
      loadMap job l [] (bitAt ((item passDesc).d.at 0x3C 2) 4) = some m ∧ (reads.all fun r => v.inSlice job r.1 r.2) = true
      ∧ job.addrOf (item passDesc) 0x34 = some 192 ∧ v.inSlice job 192 64 = true
      ∧ touch 0 { reads := reads, writes := [] } v = .ok u bad ∧ (reads.all fun r => w.inSlice job r.1 r.2 && !w.bad bad r.1 r.2) = true :=
  ⟨⟨by decide +kernel, by decide +kernel, rfl, by rfl, by rfl, by decide +kernel, .inl ⟨by decide +kernel, rfl, rfl⟩⟩,
    _, _, _, by rfl, by decide +kernel, by decide +kernel, by decide +kernel, by rfl, by decide +kernel⟩
theorem wit_EngineLoadSkipped : ∃ v pl, LoadNext (loadState 0) v 0 0 job (item (loadDesc 0)) (item passDesc) pl ∧ pl ≠ [] ∧ planKind pl = 0 :=
  ⟨_, _, ⟨by decide +kernel, by decide +kernel, rfl, by rfl, by rfl, by decide +kernel,
    .inr ⟨0, _, by decide +kernel, by decide +kernel, by decide +kernel, by rfl, by decide +kernel, rfl⟩⟩, by decide +kernel, by decide +kernel⟩

/-- EnginePass and EngineControl: the pass of a loaded operand, and one that has overflowed at its first segment and its last. -/
def passState (replay : Option Nat) : State :=
  ((running job { Sq.empty with eng0 := [item passDesc] }).setEng 0 { Eng.empty with
    loaded := some (item (loadDesc noAddr)), kExt := 1, nExt := 1, replayAt := replay, station := [[[0]]] }).setFld (F.engStatusState 0) (if replay.isSome then 4 else 1)
def passC : PassCtx := passCtx (passState none) 0 0 job (item (loadDesc noAddr)) (item passDesc)
def calm : PassEnv :=
  { upTo := none, rates := [], feed := 0, drain := 0, both := 0, tailFreeze := 0, held := 0, hwFault := none, preemptIn := none, stagedUe := [] }
theorem wit_EnginePass : quietRun calm ∧ ∃ v bad, PassNext (passState none) v 0 0 job (item (loadDesc noAddr)) (item passDesc) bad :=
  ⟨⟨rfl, rfl, rfl⟩, _, _, ⟨by decide +kernel, by rfl, by decide +kernel, by decide +kernel, _, by rfl, rfl, by decide +kernel⟩⟩
theorem wit_EngineControl : (∀ seg ∈ [0, 127], let s := passState (some seg)
      EngHolds s 0 0 job (item (loadDesc noAddr)) (item passDesc)
      ∧ (s.eng 0).replayAt = some seg ∧ s.live = true ∧ job.ending = none ∧ job.accumulates (item passDesc) ((job.addrOf (item passDesc) 0x20).getD 0) = false)
    ∧ EngHolds (passState none) 0 0 job (item (loadDesc noAddr)) (item passDesc)
    ∧ (passState none).writable = true ∧ (passState none).present 0 = true ∧ ((passState none).eng 0).replayAt = none := by
  refine ⟨?_, ⟨by decide +kernel, by decide +kernel, by decide +kernel⟩, by decide +kernel, by decide +kernel, by decide +kernel⟩
  intro seg h
  simp only [List.mem_cons, List.not_mem_nil, or_false] at h
  rcases h with rfl | rfl <;>
    exact ⟨⟨by decide +kernel, by decide +kernel, by decide +kernel⟩, by decide +kernel, by decide +kernel, by decide +kernel, by decide +kernel⟩
/-- A PREEMPT of runs of three segments: one with two segments yet to open behind the one that is open, one in its last. -/
def longPass : Desc := desc 2 (bodyOf [(0x18, 4, 64), (0x1C, 4, 1025), (0x20, 4, 1), (0x28, 4, 64)])
def runOf (next : Nat) : EngRun :=
  { startRun 0 0 job (item (loadDesc noAddr)) (item longPass) (passState none) with next := next }
theorem wit_PreemptRun : ∀ next ∈ [1, 2], let s := (passState none).setEng 0 { Eng.empty with run := some (runOf next) }
    (s.eng 0).loaded = none ∧ (s.eng 0).replayAt = none ∧ (s.eng 0).run = some (runOf next) ∧ s.writable = true ∧ s.present 0 = true
    ∧ (runOf next).limit = none ∧ (runOf next).p.segments = 3 ∧ (next + 1 < 3 ∨ 3 ≤ next + 1) := by decide +kernel

/-- EnginePass: the one segment commits, in a job that is no training job, and the run ends DONE. -/
def passV : State := firstRow 0 ((passState none).elapse.drawn 0 PassCtx.span)
def passR : PassRunSt := passCommits passC [] [] passV
theorem wit_EnginePassEnds : passR.stop = none ∧ passR.asked = false ∧ passR.done = 1 ∧ (passR.s.eng 0).loaded = none
    ∧ passR.s.wants (startRun 0 0 job (item (loadDesc noAddr)) (item passDesc) (passState none)) = true := by decide +kernel
def passR0 : PassRunSt := { s := passV, done := 0, empty := 0, ue := false, limit := 1, asked := false, stop := none }
theorem wit_SegmentCommit : passC.firstFault passV [] passC.drain 3 (passC.segRows 0) = none ∧ ((passC.stores 0).any fun x => !passV.inSlice job x.1 x.2) = false
    ∧ (passC.segment passV 0 (passC.sums passV 0) false).overflow = false ∧ (passV.job 0).isSome = true ∧ passR0.stop = none ∧ 0 < passR0.limit := by decide +kernel
/-- A segment that overflows: 2^10 times 2^10 does not fit FP16, and the pass may overflow again. -/
def overC : PassCtx := { passC with draws := { forced := some 0, state := 0, idx := 0 }, x := { passC.x with station := [[[0x4480]]] }, p := item { passDesc with body := passDesc.body.set 0x29 1 } }
theorem wit_SegmentOverflow : let v := { passV with mem := [(1, 0x44), (0, 0x80)].foldl (fun m x => memPut m x.1 x.2) [] }
    overC.firstFault v [] overC.drain 3 (overC.segRows 0) = none ∧ ((overC.stores 0).any fun x => !v.inSlice job x.1 x.2) = false
    ∧ (overC.segment v 0 (overC.sums v 0) false).overflow = true ∧ overC.final = false := by decide +kernel

/-! ### Host transfers and ports -/

/-- An image with one host port, 0, and one queue pair, 0, of partition 0. -/
def host0 : HostCfg :=
  { mode := 1, cr := false, pcp := 0, vlan := none, mac := 2, ipv4 := 10, prefix4 := 0, gw4 := 0, ipv6 := 11, prefix6 := 0, gw6 := 0, neighbours := [],
    wakePort := 9, wakeCode := [] }
def cfg0 : CfgImage :=
  { sigOk := true, formOk := true, minFw := 0, ignored := 0, m := [], posBase := 0, pinMode := false, groupSize := 1, members := [], roster := [], named := 0,
    pair := false, pairShadow := false, plans := [], parts := [], debugOk := true, vcAlloc := [], encPermit := 0xFFFF, permitted := [], listen := 0,
    hosts := [host0], hostRecords := [], qps := [{ q := 0, part := 0, port := 0, mgmt := false }], mws := [], regDefaults := [], rate := 0, eventQp := none, eventVa := 0,
    eventRkey := 0 }

/-- A state whose host port 0 is linked and whose queue pair 0 is in a state. -/
def linked (st : Nat) (s : State) : State := (({ s with cfg := some cfg0 }.setFld (F.hptStatusLinkUp 0) 1).setFld (F.qpCtrlState 0) st).setFld (F.hptStatusMode 0) 1

/-- Transfers: each mode with 64 bytes, and a host transfer whose queue pair is not RTS. -/
def xferItem (mode n : Nat) : QItem := item (desc 4 (bodyOf [(0x10, 1, mode), (0x14, 4, 1), (0x18, 4, 2), (0x1C, 4, n)]))
def xferState (mode st n : Nat) : State := linked st (running job { Sq.empty with xfer := [xferItem mode n] })
theorem wit_Xfer : ∀ y ∈ [(0, 3, 64), (1, 3, 64), (2, 3, 64), (3, 3, 64), (4, 3, 64), (2, 2, 64), (3, 0, 64), (0, 3, 1)],
    XferNext (xferState y.1 y.2.1 y.2.2) 0 y.1 0 job (xferItem y.1 y.2.2) 64 y.2.2 ∧ (xferState y.1 y.2.1 y.2.2).qpState 0 = y.2.1
    ∧ (xferItem y.1 y.2.2).d.at 0x12 2 = 0 ∧ (xferState y.1 y.2.1 y.2.2).readsOut 0 < 16 := by
  intro y h
  simp only [List.mem_cons, List.not_mem_nil, or_false] at h
  rcases h with rfl | rfl | rfl | rfl | rfl | rfl | rfl | rfl <;>
    exact ⟨⟨by rfl, by decide +kernel, by decide +kernel, by decide +kernel, by decide +kernel, by decide +kernel⟩, by decide +kernel, by decide +kernel, by decide +kernel⟩
theorem wit_XferServed : ∃ u v w b1 b2 b3, job.addrOf (xferItem 0 64) 0x18 = some 128 ∧ (xferState 0 3 64).inSlice job 128 64 = true
    ∧ touch 0 { reads := [(128, 64)], writes := [(64, 64)] } (xferState 0 3 64).elapse = .ok u b1 ∧ u.bad b1 128 64 = false
    ∧ touch 0 { reads := [], writes := [(64, 64)] } (xferState 1 3 64).elapse = .ok v b2
    ∧ touch 0 { reads := [(64, 64)], writes := [] } (xferState 2 3 64).elapse = .ok w b3 ∧ w.bad b3 64 64 = false :=
  ⟨_, _, _, _, _, _, by decide +kernel, by decide +kernel, by rfl, by decide +kernel, by rfl, by rfl, by decide +kernel⟩
/-- A copy whose source is poisoned. -/
theorem wit_XferPoisoned : ∃ u b, touch 0 { reads := [(128, 64)], writes := [(64, 64)] } ({ xferState 0 3 64 with poison := [4] }).elapse = .ok u b
    ∧ u.bad b 128 64 = true := ⟨_, _, by rfl, by decide +kernel⟩

/-- RdmaResponder: a window of each kind that admits a read and a write of 64 KiB at most; a receive ring, and none. -/
def mwState (kind : Nat) : State :=
  [(F.mwAttrKind 0, kind), (F.mwAttrRd 0, 1), (F.mwAttrWr 0, 1), (F.mwKeyKey 0, 7), (F.mwLenLen 0, 1)].foldl (fun s x => s.setFld x.1 x.2) (linked 3 (running job Sq.empty))
theorem wit_Windows : ∀ kind ∈ [0, 1, 2], (mwState kind).answers 0 = true ∧ ((ceMarked 0 false (mwState kind)).qp 0).epsn = 0
    ∧ (∀ off ∈ [0, 65472], ∀ w ∈ [true, false], (mwState kind).admits 0 7 off 64 w = some (0, off))
    ∧ (mwState kind).fld (F.mwAttrKind 0) = kind ∧ (mwState kind).on F.errStatusHalted = false ∧ inRange ((mwState kind).range 0) ((mwState kind).windowAddr 0 65472) 64 = true
    ∧ 65472 + 64 ≤ 2 ^ 20 ∧ controlOk 65472 64 = true := by decide +kernel
theorem wit_WindowServed : okAnd (touch 0 { reads := [], writes := [(65472, 64)] } (ceMarked 0 false (mwState 0).elapse)) (fun _ _ => true) = true
    ∧ okAnd (touch 0 { reads := [(65472, 64)], writes := [] } (ceMarked 0 false (mwState 0).elapse)) (fun v c => (v.firstBadPacket 0 65472 64 c).isNone) = true := by
  decide +kernel
def ringQp : State := ((mwState 0).setReg (.qpRingLo 0) 65536).setQp 0 { Qp.empty with freeSlots := 1 }
theorem wit_Sends : ringQp.answers 0 = true ∧ ringQp.ringBase 0 ≠ 0 ∧ (ringQp.qp 0).freeSlots ≠ 0 ∧ (mwState 0).ringBase 0 = 0
    ∧ (List.replicate 4032 (0 : Byte)).length ≤ 4032 := by decide +kernel
theorem wit_SendServed : okAnd (touch 0 { reads := [], writes := ((ringQp.elapse.slotWrites 0 [1] none).filter fun w => !w.2.isEmpty).map fun w => (w.1, w.2.length) }
    ringQp.elapse) (fun _ _ => true) = true := by decide +kernel

/-- Acknowledgement: an outstanding WRITE and an outstanding READ, with and without retries left, and an RNR wait. -/
def request (isRead : Bool) : Request :=
  { q := 0, psn := 0, last := 0, isRead := isRead, va := 0, rkey := 0, data := [], len := 1, dst := 0, imm := none, owner := .event }
def waitingQp (retry rnr : Nat) (isRead : Bool) (x : Qp) : State :=
  let s := [(F.qpRetryRetryCnt 0, retry), (F.qpRetryRnrRetry 0, rnr), (F.qpDestAckTimeout 0, 1)].foldl (fun s x => s.setFld x.1 x.2) (linked 3 (running job Sq.empty))
  { s.setQp 0 x with requests := [request isRead] }
theorem wit_Acknowledgement : (waitingQp 0 0 false Qp.empty).hears 0 = true ∧ (waitingQp 0 0 false Qp.empty).qpState 0 = 3
    ∧ psnLe (request false).last 0 = true ∧ ((waitingQp 0 0 true Qp.empty).requests.find? fun y => y.q == 0) = some (request true) ∧ [(5 : Byte)].length = (request true).len
    ∧ psnLe (request false).last ((0 + 2 ^ 24 - 1) % 2 ^ 24) = false
    ∧ (∀ n ∈ [1, 7], 0 < n ∧ (waitingQp 7 n true Qp.empty).fld (F.qpRetryRnrRetry 0) = n) ∧ (waitingQp 0 0 true Qp.empty).fld (F.qpRetryRnrRetry 0) = 0
    ∧ (waitingQp 1 0 true Qp.empty).fld (F.qpRetryRetryCnt 0) = 1 ∧ (waitingQp 1 0 true Qp.empty).fld (F.qpDestAckTimeout 0) ≠ 0
    ∧ ((waitingQp 1 0 true Qp.empty).requests.any fun y => y.q == 0) = true ∧ ((waitingQp 0 0 true { Qp.empty with rnrWait := true }).qp 0).rnrWait = true := by decide +kernel

/-- CongestionAndFlowControl: no cut yet and one just made; priorities 0 and 7 unpaused and paused, with and without their record. -/
def pausedHp (n : BitVec 8) (storm xoff : Bool) : State :=
  (linked 3 base).setHp 0 { Hp.empty with paused := n, stormed := if storm then 0xFF else 0, xoffSent := xoff }
theorem wit_FlowControl : (linked 3 base).hears 0 = true ∧ ((linked 3 base).qp 0).lastCut = none ∧ ((linked 3 base).qp 0).cnpSeen = false
    ∧ (((linked 3 base).setQp 0 { Qp.empty with lastCut := some 0, cnpSeen := true }).qp 0).cnpSeen = true
    ∧ (∀ p : Fin 8, p = 0 ∨ p = 7 → (pausedHp 0 false true).up = true ∧ (pausedHp 0 false true).linkUp 0 = true ∧ ((pausedHp 0 false true).hp 0).paused.toNat.testBit p = false
      ∧ ((pausedHp 0xFF false true).hp 0).paused.toNat.testBit p = true ∧ ((pausedHp 0xFF false true).hp 0).stormed.toNat.testBit p = false
      ∧ ((pausedHp 0 false true).hp 0).xoffSent = true ∧ (pausedHp 0xFF false true).bank 0x14 = []) := by decide +kernel
theorem elapse_setQp (s : State) (q : Nat) (x : Qp) : (s.setQp q x).elapse.clock = s.elapse.clock := rfl
theorem elapse_setHp (s : State) (h : Nat) (x : Hp) : (s.setHp h x).elapse.clock = s.elapse.clock := rfl
theorem later (f m n : Nat) (h : 0 < n) : f < f + max 1 m * n := Nat.lt_add_of_pos_right (Nat.mul_pos (Nat.lt_of_lt_of_le Nat.one_pos (Nat.le_max_left 1 m)) h)
theorem wit_CutJustMade : ∃ s : State, ∃ f, s.hears 0 = true ∧ (s.qp 0).lastCut = some f ∧ s.elapse.clock.fclk < f + max 1 (s.fld (F.hptCcTCutUs 0)) * 1400 := by
  refine ⟨(linked 3 base).setQp 0 { Qp.empty with lastCut := some (linked 3 base).elapse.clock.fclk }, _, by decide +kernel, rfl, ?_⟩
  rw [elapse_setQp]
  exact later _ _ _ (by decide)

/-- EthernetAndQueuePairs: the port's own addresses, an open resolution, an echo of 1,024 bytes, and each state of a queue pair. -/
theorem wit_Ethernet : (linked 3 base).hostCfg 0 = some host0 ∧ (linked 3 base).linkUp 0 = true ∧ ownAddress host0 10 false = true ∧ ownAddress host0 11 true = true
    ∧ ((linked 3 base).hp 0).paused.toNat.testBit 0 = false ∧ ((linked 3 base).hp 0).txq = [] ∧ (linked 3 base).fld (F.hptStatusMode 0) ≠ 0
    ∧ (let s := (linked 3 base).setHp 0 { Hp.empty with resolving := [mapped4 5, 6] }
       (s.hp 0).resolving.contains (mapped4 5) = true ∧ (s.hp 0).resolving.contains 6 = true ∧ ((s.hp 0).neigh.filter fun n => !n.2.2).length < 256)
    ∧ (List.replicate 1024 (0 : Byte)).length ≤ 1024 := by decide +kernel
theorem wit_Echo : ∃ s : State, s.up = true ∧ s.linkUp 0 = true ∧ (s.hp 0).echoSecond ≠ s.elapse.clock.fclk / 1400000000 := by
  refine ⟨(linked 3 base).setHp 0 { Hp.empty with echoSecond := (linked 3 base).elapse.clock.fclk / 1400000000 + 1 }, by decide +kernel, by decide +kernel, ?_⟩
  rw [elapse_setHp, State.hp_setHp_same]
  exact Nat.succ_ne_self _
theorem wit_QueuePairs : ∀ st ∈ [0, 1, 2, 3, 4], (linked st base).writable = true ∧ (linked st base).qpState 0 = st
    ∧ ((linked st base).requests.any fun r => r.q == 0) = false
    ∧ (∃ n : Fin 8, n.val ≠ 0 ∧ n.val ≠ st ∧ ¬(st ≤ 2 ∧ n.val = st + 1)) := by
  intro st h
  simp only [List.mem_cons, List.not_mem_nil, or_false] at h
  rcases h with rfl | rfl | rfl | rfl | rfl <;> exact ⟨by decide +kernel, by decide +kernel, by decide +kernel, 7, by decide, by decide, by decide⟩

/-! ### Context engine -/

/-- A class of one layer with `frames` frames; live context 0 of one page and one token, parked context 100 without a page. -/
def cls0 (frames : Nat) : CxClass :=
  { pageCode := 0, fmt := 0, layers := 1, share := false, causal := true, windowEn := false, padEn := false, window := 0, frames := frames, frameBase := 65536, salt := [] }
def ctx0 (tokens : Nat) (pages : List (List Nat)) : Ctx :=
  { cls := 0, tenant := 0, causal := true, windowEn := false, padEn := false, chained := false, tokens := tokens, window := 0, padStart := 0, parentHash := 0
    parentNode := none, pending := List.replicate tokens 0, pages := pages, dirAt := 0, lists := [[1]], stamp := 0, stalled := false, fault := false }
def cx0 (frames : Nat) : CxPart :=
  { CxPart.empty with
    valid := true, classes := [cls0 frames], pageCount := 8, listBlocks := 16, parkFirst := 100, parkCount := 4, regions := [(0, 4), (0, 4), (0, 4)]
    live := [(0, ctx0 1 [[0]])], parked := [(100, ctx0 0 [[]])]
    pages := [(0, { cls := 0, written := 1, node := false, region := 0, location := 0, stamp := 0 })] }

/-- An operation on context `id` with argument `arg`, its status word at address 0, its results at 64; `layer` is the word at 0x12. -/
def cxItem (op id arg layer : Nat) : QItem := item (desc 5 (bodyOf [(0x10, 1, op), (0x12, 2, layer), (0x14, 4, id), (0x18, 4, arg), (0x20, 4, 1), (0x2C, 4, 1)]))
def cxState (frames op id arg layer : Nat) : State :=
  ((running job { Sq.empty with cxe := [cxItem op id arg layer] }).setCxp 0 (cx0 frames)).setFld (F.cxePartIdsLiveCount 0) 4

/-- What an operation meets where it begins, as a check: its area is served and clean. -/
def cxChecks (s : State) (op : Nat) (q : QItem) : Bool :=
  decide (s.cxeNext 0 op = some (0, job, 0, q)) && (s.cxp 0).valid && decide (job.addrOf q 0x24 = some 0) && s.inSlice job 0 8
  && match cxArea (s.cxp 0) job q op with
    | some (a, n) => (n == 0 || op == 6 || s.inSlice job a n)
      && okAnd (touch 0 { reads := if n = 0 then [] else [(a, n)], writes := [] } (s.elapse.setSq 0 { s.sq 0 with cxe := (s.sq 0).cxe.eraseIdx 0 }))
          (fun t bad =>
            let y := cxListed 0 (s.cxp 0) (op == 6) (t.bytes a n) t
            !y.2.2 && (n == 0 || cxStaging op q || !y.1.bad bad a n))
    | none => false
theorem wit_CxNext : ([(1, 0xFFFFF, 0, 0xFFFF), (2, 0, 1, 0xFFFF), (2, 0, 1, 0), (3, 0, 0xFFFFFFFF, 0), (4, 0, 1, 0), (5, 0, 1, 0), (6, 100, 0xFFFFFFFF, 0), (7, 0, 0, 0),
    (8, 0, 0, 0)].all fun y => cxChecks (cxState 4 y.1 y.2.1 y.2.2.1 y.2.2.2) y.1 (cxItem y.1 y.2.1 y.2.2.1 y.2.2.2)) = true := by decide +kernel

/-- How the operations end: what each works with where its area reads as zeros, in tables with four frames or none. -/
def cxA (op id arg layer : Nat) : CxArgs :=
  { p := 0, tenant := 0, d := (cxItem op id arg layer).d, area := [], areaAt := 0, liveFirst := 0, liveCount := 4, held := [], listed := ([[]], [[]]) }
def cxW (frames : Nat) : CxWork := { x := cx0 frames, now := 0, copies := [], fresh := [], idx := 0, coll := 0 }
def ends : CxRes → Nat × Nat
  | .done .. => (0, 0)
  | .fail c => (1, c)
  | .short c n => (2, 16 * c + n)
theorem wit_CxEnds :
    ends (opTrim (cxA 4 0 1 0) (cxW 4)) = (0, 0) ∧ ends (opClose (cxA 7 0 0 0) (cxW 4)) = (0, 0) ∧ ends (opPlan (cxA 8 0 0 0) 64 (fun _ => true) (cxW 4)) = (0, 0)
    ∧ ends (opReserve (cxA 2 0 16 0xFFFF) (cxW 1)) = (2, 1) ∧ (ends (opTrim (cxA 4 0 2 0) (cxW 4))).1 = 1 ∧ (ends (opClose (cxA 7 1 0 0) (cxW 4))).1 = 1
    ∧ (ends (opFork (cxA 3 1 0 0) (cxW 4))).1 = 1 ∧ (ends (opPark (cxA 5 1 0 0) (cxW 4))).1 = 1 ∧ (ends (opUnpark (cxA 6 101 0 0) (cxW 4))).1 = 1
    ∧ (ends (opWrite (cxA 2 0 0 0) (cxW 4))).1 = 1 ∧ (ends (opOpen (cxA 1 0 1 0) (cxW 4))).1 = 1 ∧ (ends (opReserve (cxA 2 0 1 0xFFFF) (cxW 4))).1 = 0
    ∧ (ends (opWrite (cxA 2 0 1 0) (cxW 4))).1 = 0 := by decide +kernel

/-- ContextTables: what each clause asks of the tables, with a live context 0 of one page and one token, and a parked one. -/
def tablesX : CxPart := { cx0 8 with live := [(0, ctx0 1 [[0]])], parked := [(101, ctx0 0 [[]])] }
def unparkA : CxArgs := { cxA 6 101 1 0 with area := padTo 128 ([3, 0, 0, 0] ++ leBytes 32 0 ++ leBytes 4 101) }
theorem wit_ContextTables : let r := ctx0 1 [[0]]
    (tablesX.cls 0 = some (cls0 8) ∧ matchPrefix tablesX 0 0 [] 0 0 0 none = [] ∧ 8 + ceilDiv 1 8 ≤ tablesX.listBlocks ∧ 8 ∉ tablesX.blocksUsed)
    ∧ 1 + 1 ≤ tablesX.idsFree ∧ 1 + 1 ≤ tablesX.framesFree 0
    ∧ (∀ n ∈ [1, 15, 16], (fitLists tablesX 0 false { r with pages := r.pages.map fun l => l ++ List.replicate n 0 }).isSome = true)
    ∧ tablesX.pageState 0 = 1 ∧ tablesX.parked.length < tablesX.parkCount ∧ r.pages.flatten.length + (tablesX.slotsUsed 1).length ≤ (tablesX.regions.getD 0 (0, 0)).2
    ∧ (tabFind tablesX.parked 101 = some (ctx0 0 [[]]) ∧ leAt unparkA.area 0 1 = 3 ∧ leAt unparkA.area 0x24 4 = 101 ∧ leAt unparkA.area 4 4 = 0
      ∧ ∀ e < 8, unparkA.listed.1.flatten.length ≤ tablesX.framesFree e)
    ∧ (bitAt (cxA 7 101 1 0).arg 0 = true ∧ bitAt (cxA 7 0 0 0).arg 0 = false) ∧ (cxA 8 0 0 0).d.at 0x2C 4 = 1 ∧ (cxA 8 0 0 0).d.at 0x28 4 + 1 ≤ r.tokens := by
  decide +kernel
/-- The contexts and IDs that the clauses name. -/
theorem wit_ContextNames : (cxA 2 0 1 0xFFFF).live tablesX = .ok (ctx0 1 [[0]]) ∧ (cxA 7 0 0 0).live tablesX = .ok (ctx0 1 [[0]])
    ∧ (cxA 1 0xFFFFF 0 0xFFFF).target tablesX none = .ok 1 ∧ (cxA 3 0 1 0).target tablesX (some 1) = .ok 1 ∧ unparkA.target tablesX (some 3) = .ok 3 :=
  ⟨rfl, rfl, rfl, rfl, rfl⟩
/-- FORK of a context without pages has list blocks enough, whichever of them the device picks. -/
theorem freeRun_one (used : List Nat) (start total k : Nat) (h : k + 1 ≤ total) (h' : used.contains k = false) : ∃ d, freeRun used start 1 total = some d :=
  Option.isSome_iff_exists.mp (List.find?_isSome.mpr ⟨k, List.mem_cons_of_mem _ (List.mem_range.mpr h), by simpa [h] using h'⟩)
def emptyX : CxPart := { tablesX with live := [(0, ctx0 0 [[]])] }
theorem wit_Fork (idx : Nat) : (cxA 3 0 1 0).live emptyX = .ok (ctx0 0 [[]]) ∧ (fitLists emptyX idx true { ctx0 0 [[]] with lists := [] }).isSome = true := by
  refine ⟨rfl, ?_⟩
  obtain ⟨k, hk⟩ := freeRun_one emptyX.blocksUsed (Config.pick idx % max 1 emptyX.listBlocks) emptyX.listBlocks 8 (by decide) (by decide)
  have hz : ceilDiv ([[]] : List (List Nat)).length 8 = 1 := rfl
  have h0 : ceilDiv 0 1024 = 0 := rfl
  unfold fitLists
  rw [show ({ ctx0 0 [[]] with lists := [] } : Ctx).pages = [[]] from rfl, hz]
  simp [hk, h0]

/-- Starvation: one stalled reservation, of core 0. -/
theorem wit_Starvation : let y : Stalled := { core := 0, part := 0, item := cxItem 7 0 0 0, ids := [0] }
    let s := { cxState 4 7 0 0 0 with stalled := [y] }
    s.live = true ∧ s.jobAt y.core = some (0, job) ∧ (s.stalled.filter fun z => z.part == 0) = [y] ∧ (s.stalled.find? fun z => z.core == 0) = some y
    ∧ (runCx 0 y.core (y.item.d.at 0x10 1) job y.item true s.elapse).2 = true := by decide +kernel

/-! ### Fabric -/

/-- The hypotheses of CollectiveStart for each operation, with a plan of one device, and with a plan without dimensions. -/
def collItem (op plan : Nat) : QItem := item (desc 6 (bodyOf [(0x10, 1, op), (0x12, 2, 0xFFFF), (0x14, 4, 0), (0x18, 4, 1), (0x1C, 2, plan), (0x20, 4, 1)]))
def collState (op plan : Nat) : State := (running trainJob { Sq.empty with coll := [collItem op plan] }).setFld (F.rdePlanPlan 0 0) 0x10001
theorem wit_CollectiveStart : ∀ op ∈ [0, 1, 2], ∀ plan ∈ [0, 1],
    let s := collState op plan
    s.ready 0 .coll 6 = some (0, trainJob, collItem op plan) ∧ (collItem op plan).d.at 0x10 1 = op ∧ s.rde.colls.length < 256
    ∧ ((collOfItem 0 0 trainJob (collItem op plan) s).map fun x => (x.op, x.out, x.blocks, x.expAddr)) = some (op, 64, 1, 0)
    ∧ (collOfItem 0 0 trainJob (collItem op plan) s).any (fun x =>
        let own := (s.plan x.plan).part x.blocks (s.plan x.plan).dims
        let shard := 64 * (own.2 - own.1)
        okAnd (touch trainJob.part { reads := [if op = 1 then (x.buf + 64 * own.1, shard) else (x.buf, 64 * x.blocks)]
                                     writes := if op = 1 then [] else [(x.out, if op = 2 then 64 * x.blocks else shard)] } s.elapse)
        fun t _ => (t.plan plan).dims == 1 - plan) = true := by decide +kernel

/-- ReductionHop: a finite and a non-finite contribution. Table 10.6: own scales, agreed scales 130 and 131 agree on 131. -/
def contrib (v : Option (List Rat)) (own agreed : Nat) : Contribution :=
  { vals := v, own := some own, agreed := agreed, saturated := false, escalated := false, count := 1 }
theorem wit_ReductionHop : (contrib (some (List.replicate 32 1)) 128 130).vals = some (List.replicate 32 1) ∧ (contrib none 128 130).vals = none := ⟨rfl, rfl⟩
theorem test_hop_agrees : (hopBlock 1 7 (contrib (some (List.replicate 32 1)) 128 130) (contrib (some (List.replicate 32 1)) 127 131) (fun _ _ => 0)).info.agreed = 131 := by
  decide +kernel

/-- Frames of a running COLL: phase at hand, a later phase, a READY that is new and one that is repeated; without a COLL; stale frames. -/
def coll0 (op : Nat) : Coll :=
  { core := 0, key := 0, part := 0, job := 0, attempt := 0, bucket := 0xFFFF, op := op, fmt := 0, plan := 0, buf := 0, out := 64, blocks := 1, weight := 0, headroom := 0,
    expAddr := 0, group := 1, item := some (collItem op 0), scalar := [], phase := 0, opened := true, done := [], held := [], parts := [], next := [], seen := [],
    readyRx := [(0, false)], readyTx := [], waiting := [] }
def withColl (l : List Coll) : State := let s := collState 0 0; { s with rde := { s.rde with colls := l } }
def frame0 : Frame := { noFrame with bucket := 0xFFFF }
theorem wit_CollectiveFrames : (withColl [coll0 2]).live = true ∧ (withColl [coll0 2]).stale frame0 = false ∧ frame0.dim < ((withColl []).plan 0).dims
    ∧ (coll0 2).phaseOf ((withColl []).plan 0) false 0 = 0 ∧ (coll0 2).phaseOf ((withColl []).plan 0) true 0 = 1
    ∧ (coll0 1).phaseOf ((withColl []).plan 0) true 0 = 0
    ∧ (coll0 2).readyRx.contains (0, false) = true ∧ (coll0 2).readyRx.contains (0, true) = false ∧ (withColl []).rde.early = []
    ∧ ((withColl []).collJob 0).isSome = true ∧ 0xFFFF ∉ trainJob.train.collsDone := by decide +kernel
theorem wit_StaleFrames : (withColl []).live = true ∧ (withColl []).stale { frame0 with job := 1 } = true ∧ (withColl []).collJob 1 = none
    ∧ (withColl []).stale { frame0 with attempt := 1 } = true ∧ (withColl []).stale { frame0 with bucket := 3 } = true ∧ (withColl []).stale frame0 = false
    ∧ (running job Sq.empty).stale frame0 = true ∧ ((running job Sq.empty).collJob 0).isSome = true := by decide +kernel

/-- Losses: the device at position 1 of a group of positions 0 and 1, whose port 0 leads to position 0. -/
def group (j : Option Job) : State :=
  let s : State := match j with | some j => running j Sq.empty | none => base
  let s := (({ s with cfg := some { cfg0 with members := [0, 1], groupSize := 2 } }.setFld F.rdeGroupPosition 1).setFld (F.rdePeerAlive 0) 1).setFld F.rdeMasterNamed 0xFFF
  { s.setEp 0 { s.ep 0 with peerPos := some 0 } with rde := { s.rde with live := [0, 1] } }
theorem wit_Losses : (group none).live = true ∧ (group none).jobs = [] ∧ (group none).rde.groupStep = [] ∧ (group none).position = 1 ∧ (group none).isMember 0 = true
    ∧ ((List.range 16).any fun p => ((group none).ep p).peerPos == some 0 && (group none).on (F.rdePeerAlive p)) = true ∧ (group none).masterPos = some 0
    ∧ 5 ∉ (group none).rde.lostSeen := by decide +kernel
theorem wit_Aborts : (group (some job)).live = true ∧ (group (some job)).collJob 0 = some (0, job) ∧ (group (some job)).job 0 = some job ∧ job.ending = none
    ∧ (group (some job)).isMember 0 = true ∧ (group (some job)).isMember 7 = false ∧ bitAt 4096 12 = true ∧ bitAt 0 12 = false
    ∧ (group (some job)).rde.aborts.contains (0, 0, 0) = false := by decide +kernel
def mastering (j : Job) : State := let s := (group (some j)).setFld F.rdeMasterNamed 1; { s with rde := { s.rde with live := [1], unfilled := [0], barriers := [{ job := 0, arrived := [(1, 0, 3)], selfArrived := true, sentUp := false }] } }
theorem wit_Unfilled : (mastering job).isMaster = true ∧ (mastering job).rde.unfilled ≠ [] ∧ (mastering job).rde.aborts = [] := by decide +kernel

/-- The barrier: the last ARRIVE at the master, a RELEASE, an announcement, a RESYNC; phase 2; an ASSIGN. -/
def atBarrier (ph : TrainPhase) : Job := { job with train := { Train.empty with phase := ph } }
theorem wit_StepBarrier : let s := mastering (atBarrier .barrier)
    let l := ((0, 0, 3) : Nat × Nat × Nat) :: (s.barrier 0).arrived.filter fun x => x.1 != 0
    s.live = true ∧ s.isMember 0 = true ∧ s.collJob 0 = some (0, atBarrier .barrier) ∧ s.job 0 = some (atBarrier .barrier)
    ∧ (landed 0 7 noFrame s).masterPos = some s.position
    ∧ (s.barrier 0).selfArrived = true ∧ (s.barrier 0).sentUp = false ∧ (s.positions.all fun q => l.any fun x => x.1 == q) = true
    ∧ (∀ q ∈ s.rde.unfilled, q = 0) ∧ (∀ x ∈ l, x.2.2 = 3) ∧ (atBarrier .barrier).train.step + 1 = 1
    ∧ (mastering (atBarrier .released)).jobAt 0 = some (0, atBarrier .released) ∧ s.position = (noFrame.bucket + 1) % 4096 ∧ s.rde.assigned.contains (1, 0) = false
    ∧ noFrame.dst ≠ s.position ∧ noFrame.bucket % 4096 ≠ s.position ∧ s.rde.assigned.contains (0, 1) = false := by
  decide +kernel
/-- The RESYNC's clause: the job has no status to end with. -/
theorem wit_Resync (f : Frame) (j : Job) (h : (landed 0 0xA f (mastering (atBarrier .barrier))).job 0 = some j) : j.endStatus = none := by
  rw [State.job, landed_jobs] at h
  have : some (atBarrier .barrier) = some j := h
  cases this; rfl

/-- The pair: MIRROR of a group member and of the pair's primary, HEARTBEAT to a shadow, silence, TAKEOVER. -/
def pairState (st : Nat) (ph : TrainPhase) : State :=
  ((group (some { atBarrier ph with record := { JobRec.empty with kind := 1 } })).setFld F.rdeStatusPairState st).setFld (F.lnkStatusState 0) 2
theorem wit_Pair : (pairState 2 .window).live = true ∧ (pairState 2 .window).pairPort 0 = false ∧ ((pairState 2 .window).setFld (F.rdePeerPair 0) 1).pairPort 0 = true
    ∧ ((pairState 2 .window).jobs.find? fun x => x.2.training).isSome = true ∧ ((pairState 2 .window).collJob 0).isSome = true
    ∧ (pairState 2 .window).fld F.rdeStatusPairState = 2 ∧ 1 ≠ (pairState 2 .window).rde.pairStep ∧ ((pairState 2 .window).standbyJob.map (·.1)) = some 0
    ∧ (pairState 1 .window).fld F.rdeStatusPairState = 1 ∧ ((pairState 2 .window).setFld F.rdeGroupSize 1).fld F.rdeGroupSize ≤ 1
    ∧ (let s := (pairState 2 .window).setFld F.rdeGroupSize 2; 1 < s.fld F.rdeGroupSize ∧ s.masterPos = some 0 ∧ s.portsTo 0 = [0])
    ∧ (pairState 2 .window).isMember 0 = true ∧ noFrame.dst = (pairState 2 .window).fld F.glbPosPosCold := by decide +kernel
/-- A TAKEOVER request at the master, which has declared the position lost, or has not. -/
def asked (declared : List Nat) : State :=
  let s := (pairState 0 .window).setFld F.rdeMasterNamed 1
  { s.setEp 0 { s.ep 0 with peerPos := some 1 } with rde := { s.rde with live := [1], declared := declared } }
theorem wit_Takeover : ∀ d ∈ [[], [0]], let s := asked d
    s.live = true ∧ s.isMember 0 = true ∧ (landed 0 0xE { noFrame with count := 2 } s).isMaster = true
    ∧ (landed 0 0xE { noFrame with count := 2 } s).rde.declared.contains 0 = !d.isEmpty := by decide +kernel

/-! ### Links -/

/-- Port 0 in a state of LNK_STATUS, with a group of lanes and its width code. -/
def port (st width : Nat) (lanes : Nat) (x : Ep) : State :=
  (((base.setFld (F.lnkStatusState 0) st).setFld (F.lnkStatusWidth 0) width).setFld (F.lnkStatusLanesOk 0) lanes).setEp 0 x

/-- A flit: its header, 240 bytes of payload, and the CRC of both. -/
def flit (h : Nat) : FlitIn :=
  let body := leBytes 8 h ++ List.replicate 240 0
  { bytes := body ++ leBytes 8 (crc64 body), uncorr := false, corrected := 0, laneSyms := [], retrainOk := true }
/-- Flits of the expected number: data that begins and ends a frame, LINK, IDLE with ACK and with NAK; a repeat and a gap; one that does not check. -/
theorem wit_LinkReception : (port 2 3 255 Ep.empty).up = true ∧ (port 2 3 255 Ep.empty).linkOpen 0 = true
    ∧ ((port 2 3 255 Ep.empty).ep 0).widthAsked = false ∧ (port 2 3 255 Ep.empty).fld (F.lnkStatusState 0) ≠ 1
    ∧ ((port 1 3 255 { Ep.empty with exchanged := true }).fld (F.lnkStatusState 0) = 1 ∧ ((port 1 3 255 { Ep.empty with exchanged := true }).ep 0).exchanged = true)
    ∧ (let y := (port 3 3 255 { Ep.empty with widthTo := some (0xF0, 1), widthAsked := true }).ep 0; y.widthAsked = true ∧ y.widthTo = some (0xF0, 1) ∧ y.linkq = [] ∧ y.replay = [])
    ∧ (∀ h ∈ [1 + 2 ^ 7 + 2 ^ 8 + 2 ^ 4, 2, 0 + 2 ^ 41, 0 + 2 ^ 42, 1 + 4095 * 2 ^ 17, 1 + 5 * 2 ^ 17],
        let bs := padTo 256 (flit h).bytes
        leAt bs 248 8 = crc64 (bs.take 248) ∧ leAt bs 0 8 = h ∧ (flit h).uncorr = false)
    ∧ seqLe 4095 0 = true ∧ seqLe 5 0 = false ∧ ((port 2 3 255 Ep.empty).setFld (F.lnkVcCredAlloc 0 1) 4).fld (F.lnkVcCredAlloc 0 1) ≠ 0
    ∧ ({ flit 1 with uncorr := true } : FlitIn).uncorr = true := by decide +kernel
/-- Timers of a port: an unacknowledged flit, a repeated NAK (the second and the eighth), a channel without credits, a port that is up. -/
theorem wit_LinkTimers : ({ Ep.empty with unacked := 1 } : Ep).unacked ≠ 0 ∧ ({ Ep.empty with nakWait := true, nakCount := 7 } : Ep).nakWait = true
    ∧ (port 2 3 255 Ep.empty).fld (F.lnkStatusState 0) = 2 ∧ (port 2 3 255 Ep.empty).fld (F.lnkVcCredHeld 0 1) = 0
    ∧ natAt ({ Ep.empty with peerAlloc := [4, 4] } : Ep).peerAlloc 1 ≠ 0 ∧ (port 2 3 255 Ep.empty).bank 0x20 = [] := by decide +kernel

/-- Training: all lanes, the upper four, none; EXCHANGE on the wider group; the 1,023rd and the 1,024th VERIFY. -/
def exchMsg : LinkMsg := { src := 1, port := 0, body := [3, 0xFF, 0, 0] }
theorem wit_LinkTraining : (port 0 0 0 Ep.empty).writable = true ∧ (port 0 0 0 Ep.empty).on (F.lnkCtrlDisable 0) = false ∧ (port 0 0 0 Ep.empty).fld (F.lnkStatusState 0) = 0
    ∧ widest 0xFF 3 = some (0xFF, 3) ∧ widest 0xF0 3 = some (0xF0, 2) ∧ widest 0x11 3 = none
    ∧ (port 1 3 255 { Ep.empty with trainLanes := 0xFF }).fld (F.lnkStatusState 0) = 1
    ∧ ((port 0 0 0 Ep.empty).ep 0).outOfService = false ∧ ((port 0 0 0 { Ep.empty with outOfService := true }).ep 0).outOfService = true
    ∧ widest ((0xFF : BitVec 8) &&& BitVec.ofNat 8 (leAt exchMsg.body 1 1)) (min ((port 1 3 255 Ep.empty).fld (F.lnkStatusWidth 0)) (leAt exchMsg.body 0 1)) = some (0xFF, 3)
    ∧ ({ Ep.empty with exchanged := true, verified := 1022 } : Ep).verified + 1 < 1024 ∧ 1024 ≤ ({ Ep.empty with exchanged := true, verified := 1023 } : Ep).verified + 1 := by
  decide +kernel

/-- Width: one lane fails of eight, lanes fail in every half of two, a WIDTH that waits, a loopback on two lanes. -/
theorem wit_LinkWidth : (port 2 3 255 Ep.empty).writable = true ∧ (1 : BitVec 8) &&& (port 2 3 255 Ep.empty).lanes 0 ≠ 0
    ∧ narrower ((port 2 3 255 Ep.empty).lanes 0) 1 3 = some (0xF0, 2) ∧ narrower 0x03 1 1 = none ∧ (port 3 3 255 Ep.empty).fld (F.lnkStatusState 0) = 3
    ∧ ({ Ep.empty with widthTo := some (0xF0, 1) } : Ep).widthTo = some (0xF0, 1) ∧ widest 0xF0 3 = some (0xF0, 2) ∧ widest 0x11 3 = none ∧ (3 : BitVec 8) &&& (port 2 3 255 Ep.empty).lanes 0 = 3
    ∧ (narrower ((port 2 3 255 Ep.empty).lanes 0) 3 ((port 2 3 255 Ep.empty).fld (F.lnkStatusWidth 0))).isSome = true := by decide +kernel

/-- A key exchange under way at a port whose ends both permit it; KEYX_DONE of each kind. -/
def keyxPort : State := { port 2 3 255 { Ep.empty with peerFlags := 6, keyTx := some [1] } with cfg := some cfg0 }
theorem wit_KeyExchange : keyxPort.up = true ∧ keyxPort.encBoth 0 = true ∧ leAt [1] 0 1 ≠ 0 ∧ leAt [0] 0 1 = 0 ∧ (keyxPort.ep 0).keyTx.isSome = true
    ∧ (port 2 3 255 Ep.empty |>.ep 0).keyTx = none ∧ keyxPort.bank 0x20 = [] := by decide +kernel

/-! ### Lending -/

def lendMsg0 : LendMsg := { lendMsg 0 0 with src := 1, seq := 1, lastPart := true }
def paired (l : LendPair) : LendPair := (l.note 1).getD l
/-- A message of position 1 that is new: the state once it is noted. -/
def noted (s : State) (type : Nat) (m : LendMsg) : State := (heardPort 0 (takeLend 0 type m s.elapse)).setLendPair m.src (paired (s.lendPair m.src))
theorem lendNext (s : State) (type : Nat) (m : LendMsg) (h : s.live = true) (h2 : ((s.lendPair m.src).note m.seq).isSome = true) (h3 : m.seq = 1) :
    LendNext s (noted s type m) 0 type m := by
  obtain ⟨l, hl⟩ := Option.isSome_iff_exists.mp h2
  refine ⟨h, l, hl, ?_⟩
  rw [h3] at hl
  simp only [noted, paired, hl, Option.getD_some]
  rfl

/-- The lender: 8,256 granules to lend, one page of two granules lent, a range under reclaim. -/
def lender : State :=
  let s := [(F.spnLendLendEn 0, 1), (F.spnLendShare 0, 32), (F.mcgUsableMibMib 0, 64), (F.spnT1WaterLowGib 0, 0), (F.spnT1WaterHighGib 0, 0)].foldl (fun s x => s.setFld x.1 x.2) base
  { s with lentPages := [(8256, { borrower := 1, granules := 2, packed := true, bytes := [] })], reclaims := [{ borrower := 1, first := 8256, count := 4 }] }
theorem wit_Lender : LendNext lender (noted lender 2 { lendMsg0 with arg := 1 }) 0 2 { lendMsg0 with arg := 1 } ∧ LendWhole (noted lender 2 { lendMsg0 with arg := 1 }) lendMsg0
    ∧ (lender.borrowers.contains 1 || decide (lender.borrowers.length < 16)) = true
    ∧ LendNext lender (noted lender 2 { lendMsg0 with lastPart := false }) 0 2 { lendMsg0 with lastPart := false }
    ∧ tabFind lender.lentPages 8256 = some { borrower := 1, granules := 2, packed := true, bytes := [] }
    ∧ (∀ type, LendNext lender (noted lender type { lendMsg0 with handle := 8256, arg := 4 }) 0 type { lendMsg0 with handle := 8256, arg := 4 })
    ∧ (lender.reclaims.find? fun r => r.borrower == 1 && r.first == 8256 && r.count == 4) = some { borrower := 1, first := 8256, count := 4 }
    ∧ (lender.reclaims.find? fun r => r.borrower == 1) = some { borrower := 1, first := 8256, count := 4 } ∧ lender.live = true := by
  have hl : lender.live = true := by decide +kernel
  have hn : ((lender.lendPair 1).note 1).isSome = true := by decide +kernel
  exact ⟨lendNext _ _ _ hl hn rfl, by constructor <;> decide +kernel, by decide +kernel, lendNext _ _ _ hl hn rfl, by decide +kernel,
    fun t => lendNext _ _ _ hl hn rfl, by decide +kernel, by decide +kernel, hl⟩
/-- The pool has room, wherever the device looks first. -/
theorem wit_LenderRoom : ∃ g, ((noted lender 2 { lendMsg0 with arg := 1 }).noParts lendMsg0).poolPlace 0 1 = some g := by
  have h : 1 ≤ ((noted lender 2 { lendMsg0 with arg := 1 }).noParts lendMsg0).offerOf 0 := by decide +kernel
  unfold State.poolPlace
  dsimp only
  rw [if_pos h]
  exact Option.isSome_iff_exists.mp (List.find?_isSome.mpr ⟨8260, by
    refine ⟨List.mem_cons_of_mem _ (List.mem_cons_of_mem _ ?_), ?_⟩ <;> decide +kernel⟩)
theorem wit_LenderFull : ∃ t, LendNext base t 0 2 { lendMsg0 with arg := 17 } := ⟨_, lendNext _ _ _ (by decide +kernel) (by decide +kernel) rfl⟩
/-- The offer timer: some partition lends. -/
theorem wit_Offer : ((List.range 4).any fun p => let v := (List.range 4).foldl (fun t p => if t.partValid p then reclaimBlocks p (reclaimPool p t) else t) lender.elapse
    v.partValid p && v.on (F.spnLendLendEn p)) = true := by decide +kernel

/-- The borrower: page 1 waits for its answer, page 2 is at the lender with a fill outstanding. -/
def borrower (h : Home) (moving : Bool) : State :=
  { base with pages := [(1, { t0Page with home := h, moving := moving, moveTo := if moving then some .t2 else none }), (2, { t0Page with home := .t2, lender := 1, location := 8192 })]
              fills := [{ page := 2, stripe := 0, answered := false, psn := 0, install := true, demand := true }], lendPairs := [(1, { (base.lendPair 1) with placing := [(1, 0)] })] }
theorem wit_Borrower : ∀ x ∈ [(Home.t2, false), (.t1, true), (.t1, false)], let s := borrower x.1 x.2
    s.live = true ∧ ((s.lendPair 1).note 1).isSome = true ∧ (s.lendPair 1).placing = [(1, 0)] ∧ s.partOfAddr 65536 = some 0 ∧ (s.page 1).takes = true ∧ (s.page 1).home = x.1
    ∧ (s.page 1).moveTo = (if x.2 then some .t2 else none) ∧ (s.page 1).moveHit = false
    ∧ ((s.pages.find? fun y => y.2.home == .t2 && y.2.lender == 1 && y.2.location == 8192).map (·.1)) = some 2 ∧ s.partOfAddr (2 * 65536) = some 0
    ∧ (s.fills.any fun f => f.page == 2 && f.stripe == 0) = true ∧ s.bank 6 = [] ∧ (s.lendPair 1).parts = [] ∧ 2 ∈ s.heldIn 1 8192 4 := by
  decide +kernel
/-- A page of zeros travels packed. -/
theorem zeroStripe_sectors (bs : List Byte) (h : ∀ b ∈ bs, b = 0) : sectorsOf (waferEncode 0 bs).payload.length = 1 := by
  have hw : (((List.range 256).map fun i => (bs.drop (8 * i)).take 8).filter fun x => x.any (· != 0)) = [] := by
    rw [List.filter_eq_nil_iff]
    intro x hx
    obtain ⟨i, -, rfl⟩ := List.mem_map.mp hx
    simp only [List.any_eq_true, not_exists, not_and]
    intro b hb hne
    rw [h b (List.mem_of_mem_drop (List.mem_of_mem_take hb))] at hne
    exact absurd hne (by decide)
  unfold waferEncode
  simp only [hw]
  generalize bitLen _ = w
  rw [show waferLayout 0 = (2, 7, 8) from rfl, if_pos ⟨by decide, by
    show 1 ≤ ceilDiv (1024 + 1024 * w / 8) 64
    unfold ceilDiv
    omega⟩]
  rw [show sectorsOf (32 + 8 * ([] : List (List Byte)).length) = 1 from rfl]
  unfold padTo sectorsOf ceilDiv
  rw [List.length_append, List.length_take, List.length_replicate]
  omega
theorem packGranules_one (z : List Byte) (h : sectorsOf (waferEncode 0 z).payload.length = 1) : packGranules 0 (List.replicate 32 z) = some 1 := by
  have h : packedSectors 0 (List.replicate 32 z) = 36 := by
    unfold packedSectors
    rw [List.map_replicate, h]
    decide
  unfold packGranules
  rw [h]
  decide
theorem stripes_zero (s : State) (h : s.mem = []) (pg : Nat) : ∃ z, s.stripes pg = List.replicate 32 z ∧ ∀ b ∈ z, b = 0 := by
  have hb (n a : Nat) : memBytes [] a n = List.replicate n 0 := by
    induction n generalizing a with
    | zero => rfl
    | succ n ih => rw [memBytes, ih]; rfl
  exact ⟨List.replicate 2048 0, by simp only [State.stripes, State.bytes, h, hb, List.map_const', List.length_range], fun b hb => (List.mem_replicate.mp hb).2⟩
theorem storedForm_packed (s : State) (p pg : Nat) : (storedForm s p pg).1 = (packGranules (s.page pg).form (s.stripes pg)).isSome := by
  unfold storedForm packForm
  dsimp only
  generalize s.stripes pg = bs
  generalize (s.page pg).form = l
  cases packGranules l bs <;> (dsimp only; split <;> rfl)
theorem packed_zero (s : State) (p pg : Nat) (hm : s.mem = []) (hl : (s.page pg).form = 0) : (storedForm s p pg).1 = true := by
  obtain ⟨z, hz, h0⟩ := stripes_zero s hm pg
  rw [storedForm_packed, hl, hz, packGranules_one z (zeroStripe_sectors z h0)]
  rfl
/-- DATA in a protected partition: the payload that the home copy gives, and one that is not it. -/
theorem received_guarded (s : State) (p pg k : Nat) (hg : s.guarded p = true) (hp : (storedForm s p pg).1 = true) :
    ∃ a, (∃ bs, s.received p pg k a = some bs) ∧ ∀ b, b ≠ a → s.received p pg k b = none := by
  have h (a : List Byte) : s.received p pg k a
      = if a = ((storedForm s p pg).2.drop (storedAt s p pg k).1).take (storedAt s p pg k).2 then some (s.bytes (pg * 65536 + 2048 * k) 2048) else none := by
    unfold State.received
    rw [hp, hg]
    rfl
  exact ⟨_, ⟨_, (h _).trans (if_pos rfl)⟩, fun b hb => (h b).trans (if_neg hb)⟩
def guardedBorrower : State := (borrower .t1 false).setFld (F.secPartCfgProtected 0) 1
def dataMsg (l : List Byte) : LendMsg := { lendMsg0 with handle := 8192, payload := l }
theorem noted_data (l : List Byte) : noted guardedBorrower 5 (dataMsg l) = noted guardedBorrower 5 (dataMsg []) := rfl
theorem wit_Data : (noted guardedBorrower 5 (dataMsg [])).guarded 0 = true ∧ (storedForm (noted guardedBorrower 5 (dataMsg [])) 0 2).1 = true
    ∧ ∃ a b : List Byte, (∃ u bs, LendNext guardedBorrower u 0 5 (dataMsg a) ∧ u.received 0 2 0 a = some bs)
      ∧ ∃ u, LendNext guardedBorrower u 0 5 (dataMsg b) ∧ u.received 0 2 0 b = none := by
  have hg : (noted guardedBorrower 5 (dataMsg [])).guarded 0 = true := by decide +kernel
  have hp : (storedForm (noted guardedBorrower 5 (dataMsg [])) 0 2).1 = true := packed_zero _ _ _ (by decide +kernel) (by decide +kernel)
  have hl : guardedBorrower.live = true := by decide +kernel
  have hn : ((guardedBorrower.lendPair 1).note 1).isSome = true := by decide +kernel
  obtain ⟨a, ⟨bs, h1⟩, h2⟩ := received_guarded _ 0 2 0 hg hp
  refine ⟨hg, hp, a, 0 :: a, ⟨_, bs, lendNext _ _ _ hl hn rfl, ?_⟩, _, lendNext _ _ _ hl hn rfl, ?_⟩
  · rw [noted_data]; exact h1
  · rw [noted_data]; exact h2 _ (List.cons_ne_self 0 a)

/-! ### The span -/

def part0 : PartCfg :=
  { cores := 1, quarters := 1, mcgs := 1, eps := 1, guarded := false, slotsLog2 := 0, rangeBase := 0, rangeSize := 1, pinMib := 0, tableMib := 1, t3Qp := 0x3FF,
    t3Va := 0, t3Rkey := 0, t3Slots := 0, policies := [], lend := 0, layoutAddr := 0, liveFirst := 0, liveCount := 0, pages := [], content := [], tableKey := 0, records := [] }
/-- One MCG of some MiB usable, a table area of 1 MiB, some pages, and a mapping command for one page. -/
def spanState (mibs addr : Nat) (l : Tab Page) : State :=
  { ((base.setFld (F.mcgUsableMibMib 0) mibs).setReg (.spnCmdAddrLo 0) (BitVec.ofNat 32 addr)).setFld (F.spnCmdCountCount 0) 1 with
    cfg := some { cfg0 with parts := [part0] }, pages := l }
/-- A command outside the range, on an unmapped page with a table free and without, on a mapped page. -/
theorem wit_MappingCommands : (∀ x ∈ [(2 ^ 28, []), (65536, []), (65536, [(1, t0Page)])], (spanState 64 x.1 x.2).writable = true ∧ (spanState 64 x.1 x.2).cmdCount 0 = 1)
    ∧ inRange ((spanState 64 0 []).range 0) ((spanState 64 (2 ^ 28) []).cmdPage 0 * 65536) 65536 = false
    ∧ inRange ((spanState 64 0 []).range 0) ((spanState 64 65536 []).cmdPage 0 * 65536) 65536 = true
    ∧ ((spanState 64 65536 []).tablesUsed 0).length < (spanState 64 65536 []).tableMax 0 ∧ ((spanState 64 65536 []).page 1).home = .unmapped
    ∧ ((spanState 64 65536 [(1, t0Page)]).page 1).home = .t0
    ∧ ({ spanState 64 65536 [] with cfg := none } : State).tableMax 0 ≤ (({ spanState 64 65536 [] with cfg := none } : State).tablesUsed 0).length := by decide +kernel
/-- A command while a PREFETCH runs, and not; a PREFETCH of a page of T1 that has its slot, and of one of T2 that waits for its fills. -/
def atLender : Page := { t0Page with home := .t2, cached := true, lender := 1, location := 8192 }
theorem wit_Prefetch : (spanState 64 65536 []).spnBusy 0 = false
    ∧ ((spanState 64 65536 []).setFld (F.spnCmdStatusBusy 0) 1).spnBusy 0 = true
    ∧ (slotFor 0 1 (spanState 64 65536 [(1, { t0Page with home := .t1, cached := true })]).elapse).isSome = true
    ∧ (prefetchPage 0 1 (spanState 64 65536 [(1, atLender)]).elapse).2 = false := by decide +kernel
/-- A free T1 frame is found, wherever the device looks first. -/
theorem t1Place_some (s : State) (h : 16 ≤ s.t1Free 0) (hp : s.partPages 0 = [] ∨ ∃ x, s.partPages 0 = [x] ∧ x.2.home = .unmapped) (h2 : 16 ≤ s.t1Linear 0 - s.poolGranules 0)
    (h3 : s.t1Holes 0 = []) (h4 : s.lentPages = []) : ∃ l, s.t1Place 0 16 = some l := by
  unfold State.t1Place
  dsimp only
  rw [if_pos h]
  unfold freePlace
  refine Option.isSome_iff_exists.mp (List.find?_isSome.mpr ⟨0, by simp, ?_⟩)
  rcases hp with hp | ⟨x, hp, hx⟩ <;> simp [*]
theorem newHome_t1 (s : State) (pg : Nat) (h : (s.policy 0 (s.page pg).cls).waferT1 = false) : (newHome 0 pg .t1 s).isSome = (s.t1Place 0 16).isSome := by
  unfold newHome State.t1Entry
  dsimp only
  rw [h]
  simp
theorem t1Place_none (s : State) (h : ¬16 ≤ s.t1Free 0) : s.t1Place 0 16 = none := by
  unfold State.t1Place
  dsimp only
  rw [if_neg h]
def onlyT1 : Policy := { t1Ok := true, t2Ok := false, t3Ok := false, install := true, pin := none, waferT1 := false, backed := false, keep := 0, layout := 0 }
theorem mapPage_t1 (s : State) (h : s.policy 0 0 = onlyT1) :
    mapPage 0 1 0 s = newHome 0 1 .t1 ((zeroPage 1 s).setPage 1 { Page.empty with home := .unmapped, cls := 0, layout := 0, form := 0 }) := by
  unfold mapPage
  rw [h]
  dsimp only [onlyT1]
  cases newHome 0 1 .t1 ((zeroPage 1 s).setPage 1 { Page.empty with home := .unmapped, cls := 0, layout := 0, form := 0 }) <;> rfl
theorem wit_MapRoom : ∃ v, mapPage 0 1 0 (spanState 64 65536 []).elapse = some v := by
  rw [mapPage_t1 _ (by decide +kernel)]
  refine Option.isSome_iff_exists.mp ?_
  rw [newHome_t1 _ _ (by decide +kernel)]
  exact Option.isSome_iff_exists.mpr (t1Place_some _ (by decide +kernel) (.inr ⟨(1, { Page.empty with home := .unmapped, cls := 0, layout := 0, form := 0 }), by decide +kernel, rfl⟩) (by decide +kernel) (by decide +kernel) (by decide +kernel))
theorem wit_MapFull : mapPage 0 1 0 (spanState 0 65536 []).elapse = none := by
  rw [mapPage_t1 _ (by decide +kernel), ← Option.isNone_iff_eq_none, ← Option.not_isSome, newHome_t1 _ _ (by decide +kernel), t1Place_none _ (by decide +kernel)]
  rfl

/-- Moves: to T1 with room and without, from a poisoned page; demotion; a fill of a cached T1 page; a slab that is wanted; a stash over its quota. -/
def moving : Page := { t0Page with moving := true, moveTo := some .t1 }
theorem wit_Moves : (spanState 64 0 [(1, moving)]).live = true ∧ (spanState 64 0 [(1, moving)]).partOfAddr (1 * 65536) = some 0
    ∧ ((spanState 64 0 [(1, moving)]).page 1).moveTo = some .t1 ∧ ((spanState 64 0 [(1, moving)]).page 1).takes = true
    ∧ (readSource 1 (spanState 64 0 [(1, moving)]).elapse).2 = false
    ∧ (readSource 1 ({ spanState 64 0 [(1, moving)] with poison := [2048] } : State).elapse).2 = true
    ∧ (spanState 64 0 [(1, moving)]).leaving 0 1 = false
    ∧ ((spanState 64 0 [(1, { moving with home := .t1 })]).setMcg 0 { Mcg.empty with fitted := true, retiring := [({ ch := 0, rank := 0, bank := 0, row := 0 }, [0])] }).leaving 0 1 = true
    ∧ (spanState 64 0 [(1, moving)]).stillMoves 0 ((spanState 64 0 [(1, moving)]).page 1) .t1 = true
    ∧ base.partValid (0 : Fin 4) = true ∧ base.t1Free (0 : Fin 4) < base.lowWater (0 : Fin 4) := by decide +kernel
theorem wit_MoveFull : newHome 0 1 .t1 (readSource 1 (spanState 0 0 [(1, moving)]).elapse).1 = none := by
  rw [← Option.isNone_iff_eq_none, ← Option.not_isSome, newHome_t1 _ _ (by decide +kernel), t1Place_none _ (by decide +kernel)]
  rfl
theorem wit_Fill : let s := { borrower .t1 false with pages := [(2, { t0Page with home := .t1, cached := true })], fills := [{ page := 2, stripe := 0, answered := true, psn := 0, install := true, demand := true }] }
    s.live = true ∧ s.partOfAddr (2 * 65536) = some 0 ∧ ((s.fills.find? fun f => f.page == 2 && f.stripe == 0).map fun f => (f.answered, f.install)) = some (true, true)
    ∧ (s.page 2).cached = true ∧ ¬((s.page 2).home = .t3 ∧ s.t3Down 0 = true) := by decide +kernel
def streaming : State := { spanState 64 0 [(16, { t0Page with home := .t1 })] with streams := [(0, { window := BitVec.ofNat 32 0x1101, lo := 0, hi := 0, len := 2, current := some 0, down := false })] }
theorem wit_Slab : (streaming.stream 0).enabled = true ∧ ((streaming.stream 0).wanted.find? fun k => ((streaming.stream 0).pages k).any (streaming.elapse.windowLacks 0)) = some 1
    ∧ ((streaming.partPages 0).filter fun y => y.2.window) = [] ∧ ((streaming.stream 0).pages 1).length ≤ streaming.elapse.windowSlots 0 := by decide +kernel
theorem wit_StashSpill : let s := { base.setFld (F.jobStashQuotaT0Mib 0) 1 with stashes := [(0, { layers := [{ layer := 0, t0 := 2 ^ 21, sectors := 0 }] })] }
    s.live = true ∧ s.stashQuotaMib 0 * mib < (s.stash 0).t0Bytes := by decide +kernel

/-! ### Memory channel groups -/

def mcg0 : Mcg := { Mcg.empty with fitted := true, groups := 4 }
def mcgState (m : Mcg) : State := base.setMcg 0 m
def row0 : RowId := { ch := 0, rank := 0, bank := 0, row := 0 }
/-- A group to initialise, a rank, readings that are hotter, cooler and equal, powers, a reinitialisation, a scrub of every kind. -/
theorem wit_MemoryChannels : (mcgState mcg0).mcgUp 0 = true ∧ mcg0.nextMarked = some 0 ∧ 0 < (mcgState mcg0).mcgRanks 0 ∧ mcg0.selfRefresh = false
    ∧ ({ mcg0 with reinit := true } : Mcg).reinit = true
    ∧ ((mcgState mcg0).setFld (F.mcgStatusStep 0) 2).fld (F.mcgStatusStep 0) = 2 ∧ (mcgState mcg0).bank 0x40 = []
    ∧ ((mcgState mcg0).setFld (F.mcgScrubCtrlEnable 0) 1).on (F.mcgScrubCtrlEnable 0) = true ∧ mcg0.scrubPos + 1 < (mcgState mcg0).packageSectors 0
    ∧ (mcgState mcg0).t1Marked 0 row0 = true ∧ (mcgState { mcg0 with initNext := 4 }).t1Marked 0 row0 = false
    ∧ decodeSyn (synOf []) = .clean := by decide +kernel
/-- The sector that the scrub reads: held by no page, and, wherever the device lays the row, by one of two pages. -/
theorem wit_ScrubFree (r : RowId) (col : Nat) : (mcgState mcg0).heldAt 0 r col = none := by
  have h (u : Nat) : (mcgState mcg0).pageAtUnit 0 u = none := rfl
  unfold State.heldAt
  rw [show (mcgState mcg0).partOfMcg 0 = some 0 by decide +kernel]
  cases hu : (mcgState mcg0).unitAt 0 0 r with
  | none => simp [hu]
  | some u => simp [hu, h u]
def heldState : State := { mcgState mcg0 with pages := [(1, { t0Page with home := .t1, location := 1 }), (2, { t0Page with home := .t1, location := 2 })] }
theorem wit_ScrubHeld : ∃ x, heldState.heldAt 0 { row0 with row := 1 } 0 = some x := by
  have all : ∀ d < 4, (heldState.pageAtUnit 0 (64 - d)).isSome = true := by decide +kernel
  have hd : Config.rowShift 0 % 4 < 4 := Nat.mod_lt _ (by decide)
  have hc : heldState.channels 0 = [(0, 0), (0, 1), (0, 2), (0, 3)] := by decide +kernel
  have hu : heldState.unitAt 0 0 { row0 with row := 1 } = some (64 - Config.rowShift 0 % 4) := by
    unfold State.unitAt
    rw [hc, show heldState.bankRows 0 = base.bankRows 0 from rfl]
    generalize base.bankRows 0 = b
    have h64 : ((0 * (b / 32 * 31) + 1 / 32 * 31 + 1 % 32) * 16 + 0) * 4 + 0 = 64 := by omega
    have hne : ¬64 < Config.rowShift 0 % 4 := by omega
    simp only [row0, RowId.isCheck]
    simpa [List.findIdx?, List.findIdx?.go] using hne
  obtain ⟨y, hy⟩ := Option.isSome_iff_exists.mp (all _ hd)
  unfold State.heldAt
  rw [show heldState.partOfMcg 0 = some 0 by decide +kernel]
  exact ⟨(0, y.1, y.2 + 0), by simp only [Option.bind_some, hu, hy, Option.map_some]⟩
/-- One wrong symbol is corrected, two are not (R282). -/
theorem test_scrub_corrects : decodeSyn (synOf [(5, 3)]) = .corrected 5 3 := by decide +kernel
theorem wit_ScrubUncorrectable : decodeSyn (synOf [(5, 3), (6, 1)]) = .uncorrectable ∨ decodeSyn (synOf [(5, 3), (6, 1)]) = .misdirected := by decide +kernel

/-- A failed row with a spare free, one with none, one that is remapped; a channel test that runs, one that may start, one without a spare. -/
def spent : Mcg := { mcg0 with remaps := (List.range 64).map fun k => { row := { row0 with row := k + 1 }, spare := k }, failed := [row0] }
theorem wit_FailedRows : (mcgState { mcg0 with failed := [row0] }).mcgUp 0 = true ∧ ({ mcg0 with failed := [row0] } : Mcg).toRemap = some (row0, 0)
    ∧ spent.toRetire = some row0 ∧ spent.remapped row0 = false ∧ spent.freeSpare 0 = none ∧ (mcg0.freeSpare 0).isSome = true
    ∧ ({ mcg0 with failed := [row0], remaps := [{ row := row0, spare := 0 }] } : Mcg).toRetire = some row0
    ∧ (mcgState mcg0).on F.errStatusHalted = false ∧ (mcgState mcg0).on (F.mcgTestBusy 0) = false ∧ ((mcgState mcg0).setFld (F.mcgTestBusy 0) 1).on (F.mcgTestBusy 0) = true
    ∧ (mcgState mcg0).on (F.mcgConfigPprFitted 0) = false ∧ (mcgState mcg0).bank 0x40 = [] ∧ (mcgState spent).partOfMcg 0 = some 0 := by decide +kernel
/-- Blocks that hold nothing, no stored bit in error, and a package whose spares are gone. -/
def spentAll : Mcg := { mcg0 with failed := [row0], remaps := (List.range 256).map fun k => { row := { row0 with ch := k / 64, row := k % 64 + 1 }, spare := k % 64 } }
theorem wit_EmptyBlocks : (mcgState spent).sound ∧ (∀ b, (mcgState spent).pagesIn 0 b = [] ∧ (mcgState spent).lentIn 0 b = [])
    ∧ spentAll.toRetire = some row0 ∧ spentAll.remapped row0 = false ∧ spentAll.remaps.length = 256 :=
  ⟨⟨rfl, rfl⟩, fun _ => ⟨rfl, rfl⟩, by decide +kernel, by decide +kernel, by decide +kernel⟩

/-! ### Power -/

/-- Limits: a trip to release, a brake, a ramp, samples above and below the cap and the throttle point. -/
theorem wit_IssueLimits : base.up = true ∧ (base.setFld F.pwrIssueDroop 1).on F.pwrIssueDroop = true ∧ (base.setFld F.pwrIssueBrake 1).on F.pwrIssueBrake = true
    ∧ (({ base with engs := [(0, { base.eng 0 with ramp := 8 })] } : State).eng 0).ramp ≠ 0
    ∧ base.cap * 1000 < ({ avg1 := 2000000, avg10 := 0 } : PowerSample).avg1 ∧ ({ avg1 := 0, avg10 := 0 } : PowerSample).avg1 < base.cap * 980
    ∧ base.cap * 980 ≤ base.cap * 1000 ∧ (base.setFld F.pwrIssueCapN 60).paced = true
    ∧ ((base.throttleC * 4 : Nat) : Int) ≤ signedOf 12 (hottest [480]).1 ∧ signedOf 12 (hottest [100]).1 < ((base.throttleC * 4 : Nat) : Int)
    ∧ base.on F.telTempMaxWarn = false ∧ ((base.fld F.telThermCtrlWarnC * 4 : Nat) : Int) ≤ signedOf 12 (hottest [480]).1
    ∧ signedOf 12 (base.fld F.telTempMaxTemp) < ((base.throttleC * 4 : Nat) : Int) - 8 := by decide +kernel

/-- Operating points, from full clock and voltage; a voltage request under way. -/
def busyDvfs : State := base.setFld F.pwrDvfsVBusy 1
theorem wit_OperatingPoints : base.writable = true ∧ (base.fld F.pwrDvfsClkPt, base.fld F.pwrDvfsVPt, base.fld F.pwrDvfsVConf) = (0, 0, 0)
    ∧ (base.fld F.pwrDvfsVConf ≤ 1 ∧ base.on F.pwrDvfsVBusy = false) ∧ (busyDvfs.on F.pwrDvfsVBusy = true ∧ 1 ≠ busyDvfs.fld F.pwrDvfsClkPt) ∧ 0 < 1
    ∧ (base.setFld F.pwrDvfsClkPt 2).fld F.pwrDvfsClkPt = 2 ∧ busyDvfs.bank 1 = []
    ∧ (List.replicate 9 ({ total := 5, owned := [], shared := [] } : RailEnergy)).length = 9 := by decide +kernel
/-- R384: the clock is lowered before the voltage is; a voltage below what the clock needs is refused. -/
theorem test_vPt_refused : (match exec (.vPtWrite 1) base with | .next t => t.on F.pwrDvfsRefused | _ => false) = true := by decide +kernel

/-- Energy: two partitions of three cores and one, an own part and one shared block; the rest is split by cores, the remainder to the larger fraction. -/
def rail0 : RailEnergy := { total := 103, owned := [10, 0], shared := [{ uj := 50, tags := [1, 1] }] }
theorem wit_EnergySplit : 0 < [3, 1].sum ∧ rail0.owned.length = [3, 1].length ∧ (∀ b ∈ rail0.shared, b.tags.length = [3, 1].length)
    ∧ rail0.owned.sum + ((rail0.shared.filter fun b => b.tags.sum != 0).map (·.uj)).sum ≤ rail0.total := by decide +kernel
theorem test_energy_split : railCharge [3, 1] rail0 = [67, 36] := by decide +kernel

/-- Dusk and Midnight: everything idle; one refusal; a Midnight to wake from, by each way. -/
def env0 : BootEnv :=
  { posPins := 0, pgHigh := true, flashOk := true, pllOk := true, csBad := [], fitted := 0, packages := [], chFail := [], chDown := [], ports := [], hostLinks := 0,
    fwCopyOk := true, midnightXclk := 0, midnightUj := [] }
def asleep : State :=
  let s := ((linked 0 base).setFld F.pwrWakeFrameEn 1).setFld F.pwrWakeAlarmEn 1
  { s with aoc := { s.aoc with mode := .midnight } }
theorem wit_Dusk : base.live = true ∧ base.fld F.pwrIdleDuskUs ≠ 0 ∧ base.present 0 = true ∧ base.engIdle 0 = true ∧ base.veIdle 0 = true
    ∧ (({ base with engs := [(0, { base.eng 0 with dusk := true })] } : State).eng 0).dusk = true
    ∧ (base.setFld F.pwrIdleDuskRamp 1).on F.pwrIdleDuskRamp = true ∧ (base.setFld F.pwrIdleDuskRamp 0).on F.pwrIdleDuskRamp = false := by decide +kernel
theorem wit_DuskSq : base.elapse.sqIdle 0 = true := by decide +kernel
def dusky : State := { base with engs := (List.range 8).map fun e => (e, { base.eng e with dusk := true }), sqs := (List.range 4).map fun c => (c, { Sq.empty with dusk := true })
                                 ves := (List.range 4).map fun c => (c, { base.ve c with dusk := true }) }
theorem wit_Midnight : base.writable = true ∧ dusky.live = true ∧ dusky.fld F.pwrAutoMidnightS = 0 ∧ (dusky.setFld F.pwrAutoMidnightS 5).fld F.pwrAutoMidnightS ≠ 0
    ∧ dusky.elapse.powerState = 1 ∧ base.elapse.midnightRefusal = none ∧ busyDvfs.elapse.midnightRefusal = some 6
    ∧ base.on F.pwrReqEntryMode = false ∧ (base.setFld F.pwrReqEntryMode 1).on F.pwrReqEntryMode = true := by decide +kernel
def wakeFrame0 : WakeFrame := { host := 0, dstUnicast := true, dstPort := 9, payload := leBytes 4 0x53504157 ++ leBytes 4 0 ++ padTo 8 [] }
theorem wit_Wake : asleep.aoc.mode = .midnight ∧ env0.fwCopyOk = true ∧ wakeFrame0.host = asleep.fld F.pwrWakeListen ∧ asleep.linkUp 0 = true ∧ asleep.hostCfg 0 = some host0
    ∧ wakeFrame0.dstPort = host0.wakePort ∧ wakeFrame0.payload = leBytes 4 0x53504157 ++ leBytes 4 0 ++ padTo 8 host0.wakeCode ∧ asleep.on F.pwrWakeFrameEn = true
    ∧ asleep.on F.pwrWakeAlarmEn = true := by decide +kernel
theorem wit_Alarm : asleep.fld F.pwrAlarmAlarmUtc ≤ asleep.elapse.clock.calendar := by
  have h : asleep.fld F.pwrAlarmAlarmUtc = 0 := by decide +kernel
  rw [h]; exact Nat.zero_le _

/-! ### Start and reset -/

def warm : State := { State.reset with aoc := { State.reset.aoc with mode := .warmReset } }
theorem wit_ResetAndStart : State.reset.aoc.mode = .reset ∧ State.reset.aoc.warmLow = false ∧ warm.aoc.mode = .warmReset ∧ env0.flashOk = true
    ∧ ({ env0 with flashOk := false } : BootEnv).flashOk = false ∧ base.aoc.mode ≠ .off ∧ base.aoc.mode ≠ .reset ∧ base.aoc.thermTripLow = false
    ∧ base.live = true ∧ base.bank 1 = [] ∧ base.bank 3 = [] := by decide +kernel
/-- A vendor key that matches its fuse, with no firmware; one that does not match. -/
theorem wit_VendorKey (k : List Byte) : ∃ f f2 : Fuses, ∃ g : Flash, sha3 g.vendorKey = f.vendorHash ∧ sha3 g.vendorKey ≠ f2.vendorHash ∧ pickFw g = none :=
  ⟨{ State.reset.fuses with vendorHash := sha3 k }, { State.reset.fuses with vendorHash := 0 :: sha3 k },
    { State.reset.flash with vendorKey := k, fwA := { state := .erased, generation := 0, image := none }, fwB := { state := .erased, generation := 0, image := none } },
    by dsimp only, by dsimp only; exact fun h => List.cons_ne_self _ _ h.symm, rfl⟩

/-! ### SEC and the flash -/

/-- The command block of partition 0 at address 0, with its bytes. -/
def secState (guard ts : Nat) (block : List Byte) (m : Tab Byte) : State :=
  { (((running job Sq.empty).setFld (F.secPartCfgProtected 0) guard).setTsState 0 0 ts).setFld (F.secPartCfgSlotsLog2 0) 0 with
    mem := memPutAll m 0 block, jobs := [] }
def secArgsOf (bs : List Byte) : SecArgs := { tenant := leAt bs 0 1, key := leAt bs 1 1, src := leAt bs 8 8, dst := leAt bs 0x10 8, len := leAt bs 0x18 8 }
/-- A command block at 0 is read. -/
theorem secNext (s : State) (h : s.writable = true) (hp : s.partValid 0 = true) (ha : s.pair (.secCmdLo (0 : Fin 4)) (.secCmdHi (0 : Fin 4)) % 2 ^ 52 = 0) (hr : inRange (s.range (0 : Fin 4)) 0 64 = true)
    (hb : (readNow 0 0 64 s.elapse).2.2 = false) (hx : (secArgsOf (readNow 0 0 64 s.elapse).2.1).tenant < 2 ^ (readNow 0 0 64 s.elapse).1.fld (F.secPartCfgSlotsLog2 0)) :
    SecNext s (readNow 0 0 64 s.elapse).1 0 (secArgsOf (readNow 0 0 64 s.elapse).2.1) :=
  ⟨h, hp, by rw [ha]; exact hr, ⟨_, by rw [ha, ← hb]; rfl, rfl⟩, hx⟩
theorem wit_SecCommands : ∀ x ∈ [(0, 0), (0, 1), (0, 2), (1, 1)], ∃ u a, SecNext (secState x.1 x.2 [] []) u 0 a ∧ u.tsState 0 a.tenant = x.2 ∧ u.resetting 0 = false ∧ a.tenant < 16 ∧ a.key < 4
    ∧ u.guarded 0 = (x.1 == 1) ∧ (u.jobs.any fun j => j.2.part == 0 && j.2.record.tenant == a.tenant) = false := by
  intro x h
  refine ⟨_, _, secNext _ ?_ ?_ ?_ ?_ ?_ ?_, ?_⟩ <;> revert x <;> decide +kernel
/-- EVICT of a slot that a job uses; a slot of keys. -/
def secBusy : State := { secState 0 1 [] [] with jobs := [(0, job)], sec := { Sec.empty with content := [(0, ([], []))] } }
theorem wit_SecBusy : ∃ u a, SecNext secBusy u 0 a ∧ u.tsState 0 a.tenant = 1 ∧ (u.jobs.any fun j => j.2.part == 0 && j.2.record.tenant == a.tenant) = true
    ∧ tabFind u.sec.content (contentKey 0 a.tenant a.key) = some ([], []) := by
  refine ⟨_, _, secNext _ ?_ ?_ ?_ ?_ ?_ ?_, ?_⟩ <;> decide +kernel

/-- UNSEAL: a header at 256 of one block of 64 bytes, whose key the slot holds; the image goes to 4096. -/
def sealHead : List Byte := padTo 64 (leBytes 4 0x53505345 ++ leBytes 4 0 ++ leBytes 4 65536 ++ leBytes 4 1 ++ leBytes 8 64)
def unsealState : State :=
  { secState 1 1 (padTo 64 (List.replicate 8 0 ++ leBytes 8 256 ++ leBytes 8 4096 ++ leBytes 8 144)) (memPutAll [] 256 sealHead) with
    sec := { Sec.empty with content := [(0, (List.replicate 32 0, []))] } }
theorem wit_Unseal : ∃ u a, SecNext unsealState u 0 a ∧ u.guarded 0 = true ∧ a.key < 4 ∧ inRange (u.slice 0 a.tenant) a.src 64 = true ∧ u.tsState 0 a.tenant = 1
    ∧ u.withheld13 0 a.tenant = none ∧ tabFind u.sec.content (contentKey 0 a.tenant a.key) = some (List.replicate 32 0, [])
    ∧ (readNow 0 a.src 64 u).2 = (sealHead, false) ∧ leAt sealHead 0 4 = 0x53505345 ∧ leAt sealHead 6 2 = 0 ∧ leAt sealHead 8 4 = 65536 * 2 ^ 0
    ∧ leAt sealHead 0xC 4 = ceilDiv (leAt sealHead 0x10 8) (leAt sealHead 8 4) ∧ (sealHead.drop 0x1C).take 32 = List.replicate 32 0
    ∧ inRange (u.slice 0 a.tenant) a.src (64 + 64 + 16) = true ∧ inRange (u.slice 0 a.tenant) a.dst 64 = true ∧ 64 + 64 + 16 ≤ a.len := by
  refine ⟨_, _, secNext _ ?_ ?_ ?_ ?_ ?_ ?_, ?_⟩ <;> decide +kernel

/-- KEY_LOAD: what its clause asks of the state, in a slot whose last nonce is all zeros. Which envelope is for this device, and whether it
opens, are the ciphers' answers (log entry 9). -/
def keyState : State := { secState 1 1 [] [] with sec := { Sec.empty with nonces := [(0, [List.replicate 32 0])] } }
theorem wit_KeyLoad : ∃ u a, SecNext keyState u 0 a ∧ u.guarded 0 = true ∧ a.key < 4 ∧ inRange (u.slice 0 a.tenant) a.src 1252 = true ∧ (readNow 0 a.src 1252 u).2.2 = false
    ∧ (readNow 0 a.src 1252 u).1.tsState 0 a.tenant = 1 ∧ (tabGet [] (readNow 0 a.src 1252 u).1.sec.nonces (slotKey 0 a.tenant)).contains (List.replicate 32 0) = true
    ∧ (readNow 0 a.src 1252 u).1.withheld13 0 a.tenant = none := by
  refine ⟨_, _, secNext _ ?_ ?_ ?_ ?_ ?_ ?_, ?_⟩ <;> decide +kernel

/-- Attestation and debug: a partition that is valid, an image that permits debug, a forced draw with debug on and off. -/
theorem wit_Attestation : (linked 3 base).writable = true ∧ base.partValid (0 : Fin 4) = true ∧ (linked 3 base).cfg = some cfg0 ∧ cfg0.debugOk = true ∧ base.debug = false
    ∧ base.coreJob 0 = none ∧ (base.setFld F.secDebugEnable 1).debug = true ∧ wordField (1 : Word) 0 1 = 1 ∧ base.on (F.coreRngCtrlFixedEn 0) = false := by decide +kernel

/-- Updates: slots that are staged and that are not, images of each length, nothing that runs; a snapshot that is due. -/
def stagedFlash : Flash := { State.reset.flash with fwB := { state := .staged, generation := 0, image := some { sigOk := true, version := 0, boot := [], sec := [], seq := [], whole := [] } }
                                                    cfgB := { state := .staged, generation := 0, image := none } }
def erasedFlash : Flash := { State.reset.flash with fwB := { state := .erased, generation := 0, image := none }, cfgB := { state := .erased, generation := 0, image := none } }
theorem wit_Updates : base.writable = true ∧ base.on F.glbBootReady = true ∧ base.busy = false ∧ base.fld F.secStatusResetting = 0 ∧ base.fld F.secStatusScrubbing = 0
    ∧ base.fld F.lifFlashLenLen ≤ 2 ^ 21 - 65536 ∧ 2 ^ 23 - 65536 < (base.setFld F.lifFlashLenLen (2 ^ 23 - 1)).fld F.lifFlashLenLen ∧ (running job Sq.empty).busy = true
    ∧ base.spareFw = true ∧ base.spareCfg = true ∧ (stagedFlash.fw true).state = .staged ∧ (stagedFlash.cfgSlot true).state = .staged
    ∧ (erasedFlash.fw true).state ≠ .staged ∧ (erasedFlash.cfgSlot true).state ≠ .staged
    ∧ (stagedFlash.fw true).image.isSome = true ∧ env0.fwCopyOk = true ∧ ({ env0 with fwCopyOk := false } : BootEnv).fwCopyOk = false := by
  decide +kernel
theorem wit_Snapshot : (∀ x ∈ ({ State.reset.flash.mirror with stamps := [] } : Mirror).stamps, x.1 = .overlay → x.2 + sectionSpacing .overlay ≤ base.elapse.clock.powered) := by
  intro x h; cases h

/-- A record of the life log that checks, one that is gone. -/
def logRec (seq : Nat) : List Byte := let b := leBytes 4 1 ++ leBytes 4 seq ++ List.replicate 52 0; b ++ leBytes 4 (crc32c b)
theorem wit_LifeLogRead : base.writable = true ∧ leAt (logRec 7) 4 4 = 7 ∧ leAt (logRec 7) 0x3C 4 = crc32c ((logRec 7).take 0x3C) ∧ leAt (logRec 131079) 4 4 ≠ 7 := by decide +kernel

/-! ### Errors, service, registers and pins -/

theorem wit_Audits : base.up = true ∧ base.on F.errStatusHalted = false ∧ base.on F.errStatusVoid = false ∧ (base.setFld F.errStatusVoid 1).on F.errStatusVoid = true
    ∧ base.bank 4 = [] ∧ base.on F.glbBootReady = true ∧ (1 : BitVec 8) ≠ 0 := by decide +kernel
/-- The bucket ledger holds while RDE_CNT_DELTA is 0. -/
theorem wit_AuditHolds : lowestBreak (ledgerBreaks 6 base) = none ∧ lowestBreak (ledgerBreaks 5 base) = none := by decide +kernel
theorem wit_AuditBreaks : (([5].findSome? fun l => (lowestBreak (ledgerBreaks l (base.setReg .rdeCntDelta 1))).map fun b => (l, b))).isSome = true := by decide +kernel

/-- Service: a bank and a spare for it, an engine in each state, a core with and without a job. -/
def spares : State := { base with err := { base.err with csMap := [(0, 5)], csSpares := [256, 257] } }
theorem wit_Service : spares.writable = true ∧ (List.range 256).find? (fun l => tabGet l spares.err.csMap l == 5) = some 0 ∧ spares.err.csSpares = [256, 257] ∧ spares.bank 7 = []
    ∧ base.present 0 = true ∧ base.fld (F.engStatusState 0) = 0 ∧ (base.jobs.any fun j => j.2.namesEngine 0) = false ∧ (base.setFld (F.engStatusState 0) 6).fld (F.engStatusState 0) = 6
    ∧ (base.setFld (F.engStatusState 0) 5).fld (F.engStatusState 0) = 5 ∧ base.bank 0x10 = [] ∧ base.jobAt 0 = none ∧ (running job Sq.empty).jobAt 0 = some (0, job)
    ∧ job.ending = none ∧ job.training = false ∧ (base.setFld (F.coreFenceFenced 0) 1).coreFenced 0 = true ∧ (∀ e ∈ engsOf 0, (base.setFld F.glbMePresentMePresent 0xFC).present e = false)
    ∧ base.partValid 0 = true ∧ base.resetting 0 = false := by decide +kernel

theorem wit_RegisterAccess : base.up = true ∧ base.on F.errStatusHalted = false ∧ (running trainJob Sq.empty).partTraining 0 = true
    ∧ wordField (5 : Word) 0 24 ≠ (running trainJob Sq.empty).fld (F.rdeMirLenMirrorLen 0) ∧ Reg.telEDevLo.hiOf = some .telEDevHi := by decide +kernel

def halted : State := { base.setFld F.errStatusHalted 1 with err := { base.err with banks := [] } }
theorem wit_HaltState : halted.up = true ∧ halted.on F.errStatusHalted = true ∧ halted.bank 0 = [] ∧ regAt Reg.pwrCapWatts.addr = some .pwrCapWatts
    ∧ Reg.pwrCapWatts.hiOf = none ∧ (halted.aoc.latches.find? fun x => x.1 == 0 && x.2.1 == .pwrCapWatts) = none ∧ Reg.pwrCapWatts.engine = none
    ∧ wordField (1 : Word) 0 1 = 1 ∧ wordField (0x100 : Word) 8 1 = 1 ∧ wordField (0x100 : Word) 0 8 = 0 ∧ wordField (3 : Word) 0 8 ≠ 0 := by decide +kernel

def alerting : State := { base with aoc := { base.aoc with alerts := 1 } }
theorem wit_Pins : alerting.smbServed = true ∧ alerting.alertLow = true ∧ base.tapUp = true ∧ State.reset.tapUp = true ∧ State.reset.aoc.mode = .reset ∧ base.aoc.mode ≠ .reset := by decide +kernel
/-- R499: the IDCODE, least significant bit first. -/
theorem test_idcode : (match exec .idcode base with | .next t => (match t.tx with | [.tdo l] => l.take 12 | _ => []) | _ => [])
    = [true, true, false, true, false, true, true, true, true, false, true, true] := by decide +kernel

/-! ### The block -/

theorem wit_StepRunsTheFront : State.reset.pending = [] := rfl
theorem wit_ResetHolds : step { State.reset with pending := [.porstNAssert] } = exec .porstNAssert State.reset ∧ ∃ t, exec .porstNAssert State.reset = .next t := ⟨rfl, _, rfl⟩

/-! ### Words that spell commands, and terms that are not well formed -/

theorem test_no_words : decodeTableWord 32 0 = none ∧ State.reset.withFetchWord 32 0 = State.reset := ⟨rfl, rfl⟩
def longMsg : LinkMsg := { src := 4096, port := 0, body := [] }
def bootEnv0 : BootEnv := { env0 with ports := List.replicate 16 { lanes := 0xFF, peer := none }, packages := List.replicate 24 0 }
def goodFlit : FlitIn := { bytes := List.replicate 256 0, uncorr := false, corrected := 0, laneSyms := [], retrainOk := true }
def arp (v6 : Bool) (a : Nat) : ArpMsg := { target := a, sender := 0, mac := 0, v6 := v6 }
/-- Of every check, a term that it refuses. -/
theorem test_ill_formed : ∀ i ∈ [
    Instr.porstNRelease { bootEnv0 with ports := [] }, .warmNRelease { bootEnv0 with packages := [] }, .wakeNLow { bootEnv0 with chFail := [96] },
    .calendarAlarm { bootEnv0 with chDown := [96] }, .porstNRelease { bootEnv0 with csBad := [264] }, .porstNRelease { bootEnv0 with midnightUj := List.replicate 8 0 },
    .porstNRelease { bootEnv0 with ports := List.replicate 16 { lanes := 0, peer := some longMsg } },
    .autoMidnight { wakeAt := some 7, latched := false, dawn := bootEnv0 }, .midnightRequest { wakeAt := some 0, latched := false, dawn := bootEnv0 },
    .wakeFrame { wakeFrame0 with host := 4 } bootEnv0, .wakeFrame { wakeFrame0 with dstPort := 65536 } bootEnv0, .wakeFrame { wakeFrame0 with payload := List.replicate 4225 0 } bootEnv0,
    .thermalSample [0], .thermalSample (List.replicate 80 4096), .energyMeasure { rails := [], watts := 0 },
    .energyMeasure { rails := List.replicate 9 { total := 0, owned := List.replicate 5 0, shared := [] }, watts := 0 },
    .energyMeasure { rails := List.replicate 9 { total := 0, owned := [], shared := [{ uj := 0, tags := List.replicate 5 0 }] }, watts := 0 },
    .rdmaWriteReceive { q := 0, psn := 2 ^ 24, rkey := 0, va := 0, data := [], imm := none, ce := false }, .rdmaWriteReceive { q := 0, psn := 0, rkey := 0, va := 2 ^ 64, data := [], imm := none, ce := false },
    .rdmaReadRequest { q := 0, psn := 2 ^ 24, rkey := 0, va := 0, len := 0, ce := false }, .rdmaReadRequest { q := 0, psn := 0, rkey := 0, va := 2 ^ 64, len := 0, ce := false },
    .rdmaReadRequest { q := 0, psn := 0, rkey := 0, va := 0, len := 2 ^ 31 + 1, ce := false }, .sendReceive { q := 0, psn := 2 ^ 24, data := [], imm := none, ce := false },
    .invalidRequest 0 ⟨2 ^ 24, false⟩, .roceAckReceive 0 ⟨2 ^ 24, false⟩, .roceNakReceive 0 ⟨2 ^ 24, false⟩ .psnSequence, .roceNakReceive 0 ⟨0, false⟩ (.rnr 32),
    .readResponseReceive 0 ⟨2 ^ 24, false⟩ [],
    .arpRequest 0 (arp false (2 ^ 32)), .arpReply 0 (arp true 0), .neighbourSolicitation 0 (arp false 0), .neighbourAdvertisement 0 (arp true (2 ^ 128)),
    .echoRequest 0 { dst := 2 ^ 32, src := 0, v6 := false, ident := 0, seq := 0, payload := [] }, .neighbourAgeOut 0 (2 ^ 128),
    .load { calmLoad with rates := [(0, 0)] }, .load { calmLoad with hwFault := some 1024 }, .load { calmLoad with preemptAt := some 1024 },
    .pass 0 { calm with hwFault := some (6, 0) }, .pass 0 { calm with hwFault := some (1, 67072) }, .pass 0 { calm with preemptIn := some 128 },
    .pass 0 { calm with upTo := some 129 }, .pass 0 { calm with rates := [(0, 65)] }, .pass 0 { calm with stagedUe := [65536] },
    .flitReceive 0 { goodFlit with bytes := [] }, .flitReceive 0 { goodFlit with laneSyms := List.replicate 9 0 }] ++ [
    .exchange 0 longMsg, .verify 0 { longMsg with src := 0, port := 16 },
    .keepalive 0 { noFrame with fmt := 256 }, .lost 0 { noFrame with job := 4096 }, .depart 0 { noFrame with bucket := 65536 }, .reduce 0 { noFrame with n := 256 },
    .gather 0 { noFrame with dim := 4 }, .ready 0 { noFrame with blockFirst := 2 ^ 32 }, .abort 0 { noFrame with count := 65536 }, .arrive 0 { noFrame with src := 4096 },
    .release 0 { noFrame with dst := 4096 }, .assign 0 { noFrame with hops := 65536 }, .resync 0 { noFrame with attempt := 2 ^ 32 }, .mirror 0 { noFrame with step := 2 ^ 32 },
    .heartbeat 0 { noFrame with info := List.replicate 17 { scale := 0, agreed := 0, saturated := false, escalated := false } },
    .takeover 0 { noFrame with info := [{ scale := 256, agreed := 0, saturated := false, escalated := false }] },
    .offer 0 { lendMsg0 with part := 8 }, .place 0 { lendMsg0 with src := 4096 }, .placed 0 { lendMsg0 with seq := 2 ^ 32 }, .fetch 0 { lendMsg0 with handle := 2 ^ 32 },
    .free 0 { lendMsg0 with arg := 2 ^ 32 }, .stripeFill (2 ^ 36) 0, .pageMoveComplete (2 ^ 36), .refresh 0 0 16, .refreshRateRead 0 [], .refreshRateRead 0 (List.replicate 4 { code := 32, step := 0 }),
    .oscillatorCheck 0 [], .patrolScrub 0 { errs := [(140, 1)], strikes := [] }, .patrolScrub 0 { errs := [(0, 16)], strikes := [] },
    .patrolScrub 0 { errs := [], strikes := [(true, 0, [(140, 1)])] }, .bankRetire 264, .channelTest 0 0 { stillAt := none, bad := [(2, 0, 0)], pprFails := [] },
    .counterLoRead 0 2, .registerWrite (2 ^ 26) 0 (.device 0), .samplePreload []], i.wf = false := by decide +kernel
/-- Messages and payloads that are too long. -/
theorem test_too_long (l : List Byte) (h : 2 ^ 31 < l.length) :
    (RdmaWrite.wf { q := 0, psn := 0, rkey := 0, va := 0, data := l, imm := none, ce := false } || RdmaSend.wf { q := 0, psn := 0, data := l, imm := none, ce := false }
      || Instr.wf (.readResponseReceive 0 ⟨0, false⟩ l) || Frame.wf { noFrame with payload := l } || LendMsg.wf { lendMsg0 with payload := l } || LinkMsg.wf { longMsg with src := 0, body := l }) = false := by
  simp [RdmaWrite.wf, RdmaSend.wf, Instr.wf, Frame.wf, LendMsg.wf, LinkMsg.wf]
  omega
theorem test_well_formed : (Instr.porstNRelease bootEnv0).wf = true ∧ (Instr.flitReceive 0 goodFlit).wf = true ∧ (Instr.reduce 0 noFrame).wf = true := by decide +kernel

end Sys2Proof.Tests
end

section
/-! SUPPORT and PROOFS for chapter 10. Which registers the arrival of a fabric frame leaves alone, what makes a frame stale, and what
becomes of a stale one (R303). -/
namespace Sys2Proof.Machine

set_option Elab.async false

/-! ### Registers that a frame's arrival leaves alone -/

/-- Showing the master writes RDE_MASTER and RDE_STATUS. -/
theorem showMaster_reg_ne (s : State) {r : Reg} (hm : r ≠ .rdeMaster) (hs : r ≠ .rdeStatus) : (showMaster s).reg r = s.reg r := by
  unfold showMaster
  cases s.masterPos with
  | none => exact (State.reg_setFld_ne _ _ hs).trans (State.reg_setFld_ne _ _ hm)
  | some m => exact ((State.reg_setFld_ne _ _ hs).trans (State.reg_setFld_ne _ _ hm)).trans (State.reg_setFld_ne _ _ hm)

/-- Hearing a peer writes the port's RDE_PEER, and what the election shows. -/
theorem heardFrom_reg_ne (e pos : Nat) (s : State) {r : Reg} (hp : r ≠ .rdePeer e) (hm : r ≠ .rdeMaster) (hs : r ≠ .rdeStatus) :
    (heardFrom e pos s).reg r = s.reg r := by
  have hset (x : Ep) : (((s.setEp e x).setFld (F.rdePeerPeer e) pos).setFld (F.rdePeerAlive e) 1).reg r = s.reg r :=
    (State.reg_setFld_ne _ _ hp).trans (State.reg_setFld_ne _ _ hp)
  unfold heardFrom
  dsimp only
  split
  · exact hset _
  · exact (showMaster_reg_ne _ hm hs).trans (hset _)

theorem heardPort_reg_ne (e : Nat) (s : State) {r : Reg} (hp : r ≠ .rdePeer e) (hm : r ≠ .rdeMaster) (hs : r ≠ .rdeStatus) :
    (heardPort e s).reg r = s.reg r := by
  unfold heardPort
  cases (s.ep e).peerPos with
  | none => rfl
  | some pos => exact heardFrom_reg_ne e pos s hp hm hs

theorem landed_reg_ne (e : Fin 16) (type : Nat) (f : Frame) (s : State) {r : Reg} (hp : r ≠ .rdePeer e) (hm : r ≠ .rdeMaster)
    (hs : r ≠ .rdeStatus) : (landed e type f s).reg r = s.reg r :=
  heardPort_reg_ne e _ hp hm hs

@[simp] theorem landed_aoc (e : Fin 16) (type : Nat) (f : Frame) (s : State) : (landed e type f s).aoc = s.aoc := by
  obtain ⟨r, x, d, h⟩ := landed_only e type f s
  rw [h]

@[simp] theorem landed_tx (e : Fin 16) (type : Nat) (f : Frame) (s : State) : (landed e type f s).tx = s.tx := by
  obtain ⟨r, x, d, h⟩ := landed_only e type f s
  rw [h]

/-- The arrival of a frame neither halts nor starts the device. -/
@[simp] theorem landed_live (e : Fin 16) (type : Nat) (f : Frame) (s : State) : (landed e type f s).live = s.live := by
  have hhalt : (landed e type f s).reg .errStatus = s.reg .errStatus := landed_reg_ne e type f s nofun nofun nofun
  have hboot : (landed e type f s).reg .glbBoot = s.reg .glbBoot := landed_reg_ne e type f s nofun nofun nofun
  simp only [State.live, State.on, State.fld, landed_aoc, hhalt, hboot]

theorem State.up_of_live {s : State} (h : s.live = true) : s.up = true := by
  simp only [State.live, Bool.and_eq_true] at h
  obtain ⟨⟨hup, -⟩, -⟩ := h
  exact hup

/-- A frame that comes in while the device is up is handed on in the state in which it has landed. -/
theorem takeFrame_up (e : Fin 16) (type : Nat) (f : Frame) (act : State → State) {s : State} (h : s.up = true) :
    takeFrame e type f act s.elapse = act (landed e type f s) := by
  have hup : s.elapse.up = true := h
  simp only [takeFrame, hup, Bool.not_true, Bool.false_eq_true, if_false]
  rfl

/-! ### Counters -/

/-- Adding one to a field counts it up, modulo its width. -/
theorem State.bump_counts (s : State) {f : Fld} (h : f.lo + f.width ≤ 32) : Counts f s (s.bump f) :=
  ⟨s.fld_setFld_same f _ h, fun _ hr => s.reg_setFld_ne _ hr⟩

/-! ### Stale frames (R303) -/

/-- Whether a frame is stale depends on the jobs alone. -/
theorem State.stale_congr {s t : State} (h : t.jobs = s.jobs) (f : Frame) : t.stale f = s.stale f := by
  simp only [State.stale, State.collJob, h]

/-- A frame of no running job is stale. -/
theorem State.stale_of_no_job {s : State} {f : Frame} (h : s.collJob f.job = none) : s.stale f = true := by
  simp only [State.stale, h]

/-- A frame of a running job is taken where it is of the job's attempt, and of the vote's bucket or one that the job's table lists. -/
theorem State.stale_eq_false_iff {s : State} {f : Frame} {k : Nat} {j : Job} (h : s.collJob f.job = some (k, j)) :
    s.stale f = false ↔ f.attempt = (if j.training then j.train.attempt else 0) % 2 ^ 32
      ∧ (f.bucket = 0xFFFF ∧ j.training = true ∨ ∃ b ∈ j.image.buckets, b.id = f.bucket) := by
  simp only [State.stale, h, Bool.or_eq_false_iff, bne_eq_false_iff_eq, Bool.not_eq_false', Bool.or_eq_true, Bool.and_eq_true,
    beq_iff_eq, List.any_eq_true, and_comm]

/-- RDE drops a stale frame, and counts it in RDE_STALE. -/
theorem reduceFrame_stale (e type : Nat) {f : Frame} {s : State} (hl : s.live = true) (h : s.stale f = true) :
    reduceFrame e type f s = s.bump F.rdeStaleStale := by
  simp [reduceFrame, hl, h]

/-- The rows of REDUCE, GATHER and READY hand their frame to RDE by its type. -/
theorem exec_collFrame (s : State) (e : Fin 16) (f : Frame) :
    ∀ r ∈ [(Instr.reduce e f, 1), (.gather e f, 2), (.ready e f, 3)], exec r.1 s = go s (takeFrame e r.2 f (reduceFrame e r.2 f)) := by
  simp only [List.forall_mem_cons, List.not_mem_nil, false_implies, implies_true, and_true]
  exact ⟨rfl, rfl, rfl⟩

/-- A stale frame that comes in leaves the state in which it has landed, with one more in RDE_STALE. -/
theorem go_reduceFrame_stale (e : Fin 16) (type : Nat) {f : Frame} {s : State} (hl : s.live = true) (h : s.stale f = true) :
    go s (takeFrame e type f (reduceFrame e type f)) = .next (s.keep ((landed e type f s).bump F.rdeStaleStale)) := by
  have hstale : (landed e type f s).stale f = true := (State.stale_congr (landed_jobs e type f s) f).trans h
  rw [go, takeFrame_up e type f _ (State.up_of_live hl), reduceFrame_stale e type ((landed_live e type f s).trans hl) hstale]

/-- Settles O29: a stale frame lands and adds one to RDE_STALE, and neither touches the jobs, the wires, memory or what RDE holds. -/
theorem staleFrames : Obligations.StaleFrames := by
  intro s e f hl
  refine ⟨fun r hr hstale => ?_, State.stale_of_no_job, fun k j hj => State.stale_eq_false_iff hj⟩
  refine ⟨_, (exec_collFrame s e f r hr).trans (go_reduceFrame_stale e r.2 hl hstale), ?_⟩
  have hcounts : Counts F.rdeStaleStale (landed e r.2 f s) ((landed e r.2 f s).bump F.rdeStaleStale) := State.bump_counts _ (by decide)
  exact ⟨hcounts, rfl, landed_jobs .., landed_tx .., fun x => congrArg (memGet · x) (landed_mem ..)⟩

end Sys2Proof.Machine
end

section
/-! SUPPORT and PROOFS for chapter 14. What a read of the life log stores: the record found, its sixteen data words, and the registers and
state that the read leaves alone (R446). -/
namespace Sys2Proof.Machine

/-! ### Fields of a whole word -/

theorem wordSetField_whole (w : Word) (v : Nat) : wordSetField w 0 32 v = BitVec.ofNat 32 v := by
  apply BitVec.eq_of_toNat_eq
  have hw : w.toNat < 2 ^ 32 := w.isLt
  simp only [wordSetField, BitVec.toNat_ofNat]
  omega

/-- A register that is one field of 32 bits holds what is written to the field. -/
theorem State.reg_setFld_whole (s : State) (r : Reg) (v : Nat) : (s.setFld ⟨r, 0, 32⟩ v).reg r = BitVec.ofNat 32 v := by
  rw [State.setFld, State.reg_setReg_same, wordSetField_whole]

/-- No byte reads from an empty structure. -/
theorem leAt_nil (o n : Nat) : leAt [] o n = 0 := by
  simp [leAt, leNat]

/-! ### The data words of LIF_LOG_DATA -/

/-- The first `n` data words take the bytes of a record, four to a word. -/
def showLogWords (bs : List Byte) (n : Nat) (s : State) : State :=
  (List.range n).foldl (fun t k => t.setFld (F.lifLogDataData k) (leAt bs (4 * k) 4)) s

theorem showLogWords_succ (bs : List Byte) (n : Nat) (s : State) :
    showLogWords bs (n + 1) s = (showLogWords bs n s).setFld (F.lifLogDataData n) (leAt bs (4 * n) 4) := by
  simp only [showLogWords, List.range_succ, List.foldl_append, List.foldl_cons, List.foldl_nil]

theorem showLogWords_only (bs : List Byte) (n : Nat) (s : State) : ∃ l, showLogWords bs n s = { s with regs := l } := by
  induction n with
  | zero => exact ⟨s.regs, rfl⟩
  | succ n ih =>
    obtain ⟨l, hl⟩ := ih
    rw [showLogWords_succ, hl]
    exact ⟨_, rfl⟩

theorem showLogWords_reg_ne (bs : List Byte) (n : Nat) (s : State) {r : Reg} (h : ∀ k, r ≠ .lifLogData k) :
    (showLogWords bs n s).reg r = s.reg r := by
  induction n with
  | zero => rfl
  | succ n ih => rw [showLogWords_succ, State.reg_setFld_ne _ _ (h n), ih]

theorem showLogWords_data (bs : List Byte) {n k : Nat} (s : State) (h : k < n) :
    (showLogWords bs n s).reg (.lifLogData k) = BitVec.ofNat 32 (leAt bs (4 * k) 4) := by
  induction n with
  | zero => omega
  | succ n ih =>
    rw [showLogWords_succ]
    by_cases hk : k = n
    · rw [hk, State.reg_setFld_whole]
    · have hne : Reg.lifLogData k ≠ .lifLogData n := fun e => hk (Reg.lifLogData.inj e)
      rw [State.reg_setFld_ne _ _ hne, ih (by omega)]

/-! ### The record of a seq -/

/-- A record in flash is the one of `seq` and passes its check (Table 14.9). -/
def LogRecordGood (seq : Word) (r : List Byte) : Prop :=
  leAt r 4 4 = seq.toNat ∧ leAt r 0x3C 4 = crc32c (r.take 0x3C)

/-- The record that a read of `seq` delivers: the slot's, where it is the one asked for and passes its check. -/
def foundLogRecord (seq : Word) (s : State) : Option (List Byte) :=
  (tabFind s.flash.log (seq.toNat % 131072)).bind fun r =>
    if leAt r 4 4 == seq.toNat && leAt r 0x3C 4 == crc32c (r.take 0x3C) then some r else none

theorem foundLogRecord_eq_some {seq : Word} {s : State} {r : List Byte} (hslot : tabFind s.flash.log (seq.toNat % 131072) = some r)
    (hgood : LogRecordGood seq r) : foundLogRecord seq s = some r := by
  obtain ⟨hseq, hcheck⟩ := hgood
  simp [foundLogRecord, hslot, hseq, hcheck]

theorem foundLogRecord_eq_none {seq : Word} {s : State}
    (hbad : ∀ r, tabFind s.flash.log (seq.toNat % 131072) = some r → ¬ LogRecordGood seq r) : foundLogRecord seq s = none := by
  unfold foundLogRecord
  cases hslot : tabFind s.flash.log (seq.toNat % 131072) with
  | none => rfl
  | some r =>
    have hfail := hbad r hslot
    refine if_neg fun h => hfail ?_
    simpa only [LogRecordGood, Bool.and_eq_true, beq_iff_eq] using h

/-! ### The read -/

/-- The state of a read before its data words are filled: the seq is stored, and the status shows whether a record was found. -/
def logStatusShown (seq : Word) (s : State) : State :=
  ((s.setFld F.lifLogIdxSeq seq.toNat).setFld F.lifLogStatusBusy 0).setFld F.lifLogStatusGone (boolNat (foundLogRecord seq s).isNone)

theorem logRead_eq (seq : Word) (s : State) :
    logRead seq s = showLogWords ((foundLogRecord seq s).getD []) 16 (logStatusShown seq s) := rfl

/-- A read of the log changes registers only. -/
theorem logRead_only (seq : Word) (s : State) : ∃ l, logRead seq s = { s with regs := l } := by
  obtain ⟨l, hl⟩ := showLogWords_only ((foundLogRecord seq s).getD []) 16 (logStatusShown seq s)
  exact ⟨l, (logRead_eq seq s).trans hl⟩

@[simp] theorem logRead_flash (seq : Word) (s : State) : (logRead seq s).flash = s.flash := by
  obtain ⟨l, hl⟩ := logRead_only seq s
  rw [hl]

@[simp] theorem logRead_mem (seq : Word) (s : State) : (logRead seq s).mem = s.mem := by
  obtain ⟨l, hl⟩ := logRead_only seq s
  rw [hl]

/-- The data words are filled after every other field of the read is in place. -/
theorem logRead_fld (seq : Word) (s : State) {f : Fld} (h : ∀ k, f.reg ≠ .lifLogData k) :
    (logRead seq s).fld f = (logStatusShown seq s).fld f := by
  rw [State.fld, State.fld, logRead_eq, showLogWords_reg_ne _ _ _ h]

theorem logRead_seq (seq : Word) (s : State) : (logRead seq s).fld F.lifLogIdxSeq = seq.toNat := by
  rw [logRead_fld _ _ (by nofun), logStatusShown, State.fld_setFld_ne _ _ (by nofun),
    State.fld_setFld_ne _ _ (by nofun), State.fld_setFld_same _ _ _ (by decide)]
  exact Nat.mod_eq_of_lt seq.isLt

theorem logRead_busy (seq : Word) (s : State) : (logRead seq s).fld F.lifLogStatusBusy = 0 := by
  rw [logRead_fld _ _ (by nofun), logStatusShown, State.fld_setFld_apart _ _ (by rfl) (by decide) (by decide),
    State.fld_setFld_same _ _ _ (by decide), Nat.zero_mod]

/-- `gone` is set exactly where no record was found. -/
theorem logRead_gone (seq : Word) (s : State) : (logRead seq s).fld F.lifLogStatusGone = boolNat (foundLogRecord seq s).isNone := by
  rw [logRead_fld _ _ (by nofun), logStatusShown, State.fld_setFld_same _ _ _ (by decide)]
  cases foundLogRecord seq s <;> rfl

theorem logRead_data (seq : Word) (s : State) (n : Fin 16) :
    (logRead seq s).reg (.lifLogData n) = BitVec.ofNat 32 (leAt ((foundLogRecord seq s).getD []) (4 * n) 4) := by
  rw [logRead_eq, showLogWords_data _ _ n.isLt]

theorem logRead_reg_ne (seq : Word) (s : State) {r : Reg} (hi : r ≠ .lifLogIdx) (hs : r ≠ .lifLogStatus)
    (hd : ∀ n, r ≠ .lifLogData n) : (logRead seq s).reg r = s.reg r := by
  rw [logRead_eq, showLogWords_reg_ne _ _ _ hd, logStatusShown, State.reg_setFld_ne _ _ hs, State.reg_setFld_ne _ _ hs,
    State.reg_setFld_ne _ _ hi]

/-- LOG_READ reads the log while the control space takes writes. -/
theorem exec_logRead_writable (seq : Word) {s : State} (h : s.writable = true) :
    exec (.logRead seq) s = .next (s.keep (logRead seq s.elapse)) := by
  have hw : s.elapse.writable = true := h
  have hact : onWrite .lifLogIdx (logRead seq) s.elapse = logRead seq s.elapse := if_pos hw
  rw [← hact]
  rfl

/-- Settles O51: a read delivers the record of the seq where the slot holds it and it passes its check; else there is none, which sets
`gone` and leaves nothing for the data words to show. -/
theorem lifeLogRead : Obligations.LifeLogRead := by
  intro s seq hw slot good
  refine ⟨_, exec_logRead_writable seq hw, (State.fld_keep ..).trans (logRead_seq ..), (State.fld_keep ..).trans (logRead_busy ..),
    (State.keep_flash ..).trans (logRead_flash ..), fun x => congrArg (memGet · x) ((State.keep_mem ..).trans (logRead_mem ..)),
    fun r hslot hgood => ?found, fun hbad => ?missing,
    fun r hi hs hd => (State.reg_keep ..).trans (logRead_reg_ne seq s.elapse hi hs hd)⟩
  case found =>
    have hrec : foundLogRecord seq s.elapse = some r := foundLogRecord_eq_some hslot hgood
    refine ⟨(State.fld_keep ..).trans ?_, fun n => (State.reg_keep ..).trans ?_⟩
    · rw [logRead_gone, hrec, Option.isNone_some]
      rfl
    · rw [logRead_data, hrec, Option.getD_some]
  case missing =>
    have hrec : foundLogRecord seq s.elapse = none := foundLogRecord_eq_none hbad
    refine ⟨(State.fld_keep ..).trans ?_, fun n => (State.reg_keep ..).trans ?_⟩
    · rw [logRead_gone, hrec, Option.isNone_none]
      rfl
    · rw [logRead_data, hrec, Option.getD_none, leAt_nil]
      rfl

end Sys2Proof.Machine
end

section
/-! SUPPORT and PROOFS for chapter 16. What an access to the control space changes before its write takes effect, what a write of each
kind does in the halt state, and what a dropped write leaves alone (R434, R471). -/
namespace Sys2Proof.Machine

/-! ### Whole-word fields -/

theorem wordField_whole (w : Word) : wordField w 0 32 = w.toNat := by
  simp only [wordField, Nat.pow_zero, Nat.div_one]
  exact Nat.mod_eq_of_lt w.isLt

/-- A plain write of a register that is one class-L RW field of 32 bits, and not retained, stores the word. -/
theorem plainWrite_whole {r : Reg} {x : Nat} (hf : r.fields = [⟨0, 32, .rw, .l, x⟩]) (hr : r.retained = false) (w : Word) (s : State) :
    plainWrite r w s = s.setReg r w := by
  have hword : wordSetField (s.reg r) 0 32 (wordField w 0 32) = w := by
    rw [wordSetField_whole, wordField_whole, BitVec.ofNat_toNat, BitVec.setWidth_eq]
  simp [plainWrite, hf, writeField, hword, overlayNote, hr]

/-! ### The access that comes before a write -/

/-- Taking over the coarse words changes them only. -/
theorem coarsen_only (s : State) : ∃ c, coarsen s = { s with aoc := { s.aoc with coarse := c } } := by
  unfold coarsen
  dsimp only
  split
  · exact ⟨s.aoc.coarse, rfl⟩
  · exact ⟨_, rfl⟩

/-- An access wakes a sequencer at most. -/
theorem accessWakes_only (sc : Scope) (a : Nat) (s : State) : ∃ l, accessWakes sc a s = { s with sqs := l } := by
  unfold accessWakes
  cases (regAt a).bind fun _ => coreOfAddr a with
  | none => exact ⟨s.sqs, rfl⟩
  | some c =>
    cases sc with
    | device q => exact ⟨_, rfl⟩
    | partition q p =>
      dsimp only
      split
      · exact ⟨_, rfl⟩
      · exact ⟨s.sqs, rfl⟩

@[simp] theorem accessWakes_aoc (sc : Scope) (a : Nat) (s : State) : (accessWakes sc a s).aoc = s.aoc := by
  obtain ⟨l, h⟩ := accessWakes_only sc a s
  rw [h]

/-- The state in which a write through a device-scoped window finds its register. -/
def writeReaches (q : Fin 1024) (a : Nat) (s : State) : State := accessWakes (.device q) a (coarsen s.elapse)

theorem writeReaches_only (q : Fin 1024) (a : Nat) (s : State) :
    ∃ l c, writeReaches q a s = { s.elapse with sqs := l, aoc := { s.aoc with coarse := c } } := by
  obtain ⟨c, hc⟩ := coarsen_only s.elapse
  obtain ⟨l, hl⟩ := accessWakes_only (.device q) a (coarsen s.elapse)
  exact ⟨l, c, by rw [writeReaches, hl, hc]; rfl⟩

section WriteReaches
variable (q : Fin 1024) (a : Nat) (s : State)

@[simp] theorem writeReaches_regs : (writeReaches q a s).regs = s.regs := by
  obtain ⟨l, c, h⟩ := writeReaches_only q a s
  rw [h]; rfl

@[simp] theorem writeReaches_err : (writeReaches q a s).err = s.err := by
  obtain ⟨l, c, h⟩ := writeReaches_only q a s
  rw [h]; rfl

@[simp] theorem writeReaches_mem : (writeReaches q a s).mem = s.mem := by
  obtain ⟨l, c, h⟩ := writeReaches_only q a s
  rw [h]; rfl

@[simp] theorem writeReaches_pages : (writeReaches q a s).pages = s.pages := by
  obtain ⟨l, c, h⟩ := writeReaches_only q a s
  rw [h]; rfl

@[simp] theorem writeReaches_jobs : (writeReaches q a s).jobs = s.jobs := by
  obtain ⟨l, c, h⟩ := writeReaches_only q a s
  rw [h]; rfl

@[simp] theorem writeReaches_up : (writeReaches q a s).up = s.up := by
  obtain ⟨l, c, h⟩ := writeReaches_only q a s
  rw [h]; rfl

@[simp] theorem writeReaches_reg (r : Reg) : (writeReaches q a s).reg r = s.reg r :=
  State.reg_congr_regs _ (writeReaches_regs q a s) r

@[simp] theorem writeReaches_bank (b : Nat) : (writeReaches q a s).bank b = s.bank b := by
  simp only [State.bank, writeReaches_err]

end WriteReaches

theorem exec_registerWrite (a : Nat) (v : Word) (sc : Scope) (s : State) :
    exec (.registerWrite a v sc) s = go s fun t => regWrite sc a v (coarsen t) := rfl

/-- A write that a window passes on to a halted device is one of the halt state, where its register is not that of an absent engine. -/
theorem regWrite_halted {r : Reg} (q : Fin 1024) (v : Word) {u : State} (hup : u.up = true) (hat : regAt r.addr = some r)
    (hhalt : (accessWakes (.device q) r.addr u).on F.errStatusHalted = true)
    (hpresent : ∀ e, r.engine = some e → (accessWakes (.device q) r.addr u).present e = true) :
    regWrite (.device q) r.addr v u = haltWrite r v (accessWakes (.device q) r.addr u) := by
  simp only [regWrite, hup, hat, hhalt, State.mayWrite, Bool.not_true, Bool.false_or, Bool.false_eq_true, if_false, if_true]
  cases he : r.engine with
  | none => rfl
  | some e => simp only [hpresent e he, Bool.not_true, Bool.false_eq_true, if_false]

theorem exec_registerWrite_halted {r : Reg} (q : Fin 1024) (v : Word) {s : State} (hup : s.up = true)
    (hhalt : s.on F.errStatusHalted = true) (hat : regAt r.addr = some r) (hpresent : ∀ e, r.engine = some e → s.present e = true) :
    exec (.registerWrite r.addr v (.device q)) s = .next (s.keep (haltWrite r v (writeReaches q r.addr s))) := by
  have hcoarse : (coarsen s.elapse).up = true := by
    obtain ⟨c, hc⟩ := coarsen_only s.elapse
    rw [hc]
    exact hup
  have hhalted : (writeReaches q r.addr s).on F.errStatusHalted = true := by
    simpa only [State.on, State.fld, writeReaches_reg] using hhalt
  have hthere : ∀ e, r.engine = some e → (writeReaches q r.addr s).present e = true := by
    simpa only [State.present, State.fld, writeReaches_reg] using hpresent
  rw [exec_registerWrite, go, regWrite_halted q v hcoarse hat hhalted hthere, writeReaches]

/-! ### A write that is dropped -/

/-- A record that is not fatal leaves the snapshot of an audit. -/
theorem errRecord_snapshot (e : ErrArgs) (h : e.cls ≠ 3) (s : State) : (errRecord e s).err.snapshot = s.err.snapshot := by
  unfold errRecord
  simp only [show (e.cls == 3) = false by simp [h], Bool.false_and, Bool.false_eq_true, if_false]
  (repeat' split) <;> rfl

theorem dropLogged_snapshot (a : Nat) (s : State) : (dropLogged a s).err.snapshot = s.err.snapshot :=
  errRecord_snapshot _ (Nat.zero_ne_add_one 2) _

/-- The record of a dropped write heads bank 0 where the bank was empty. -/
theorem dropLogged_bank {s : State} (h : s.bank 0 = []) (a : Nat) :
    (dropLogged a s).bank 0 = [newRecord ((s.setFld F.glbDropAddrAddr a).bump F.glbDropCntDrops)
      { bank := 0, unit := 0, cause := 1, cls := 0, address := a }] := by
  unfold dropLogged
  have hbank : ((s.setFld F.glbDropAddrAddr a).bump F.glbDropCntDrops).bank 0 = [] := h
  rw [errRecord_bank _ (Nat.zero_ne_add_one 2), hbank]
  rfl

/-- A write of `r` in `s` was dropped, logged and recorded, and `t` is the state that remains (R434). -/
def WriteDropped (r : Reg) (s t : State) : Prop :=
  t.fld F.glbDropAddrAddr = r.addr % 2 ^ 26 ∧ t.fld F.glbDropCntDrops = (s.fld F.glbDropCntDrops + 1) % 2 ^ 32
    ∧ (s.bank 0 = [] → ∃ x, t.bank 0 = [x] ∧ x.source = 0 ∧ x.cause = 1 ∧ x.cls = 0 ∧ x.address = r.addr)
    ∧ ∀ x, x ∉ [Reg.glbDropAddr, .glbDropCnt, .errBankStat 0] → t.reg x = s.reg x

theorem writeDropped_dropLogged (r : Reg) (s : State) : WriteDropped r s (dropLogged r.addr s) :=
  ⟨dropLogged_addr _, dropLogged_count _, fun hbank => ⟨_, dropLogged_bank hbank _, rfl, rfl, rfl, rfl⟩, fun _ hx => dropLogged_reg _ hx⟩

/-- What a dropped write leaves depends on the registers and on bank 0 as they stood before it. -/
theorem WriteDropped.of_congr {r : Reg} {s u t : State} (hregs : u.regs = s.regs) (hbank : u.bank 0 = s.bank 0)
    (h : WriteDropped r u t) : WriteDropped r s t := by
  simpa only [WriteDropped, State.fld, State.reg_congr_regs s hregs, hbank] using h

/-! ### A write in the halt state (R471) -/

/-- The registers of R471. -/
def takenHalted : Reg → Bool
  | .errBankAck _ | .glbScratch _ | .lifCalSetLo | .lifCalSetHi | .ldgAudit => true
  | _ => false

theorem haltWrite_eq_dropLogged {r : Reg} (h : takenHalted r = false) (w : Word) (s : State) : haltWrite r w s = dropLogged r.addr s := by
  unfold haltWrite
  split
  case h_6 => rfl
  all_goals cases h

theorem haltWrite_scratch (n : Nat) (w : Word) (s : State) : haltWrite (.glbScratch n) w s = s.setReg (.glbScratch n) w :=
  plainWrite_whole (r := .glbScratch n) (x := 0) rfl rfl w s

theorem haltWrite_calSetLo (w : Word) (s : State) : haltWrite .lifCalSetLo w s = s.setReg .lifCalSetLo w :=
  plainWrite_whole (r := .lifCalSetLo) (x := 0) rfl rfl w s

theorem haltWrite_calSetHi (w : Word) (s : State) : haltWrite .lifCalSetHi w s = calendarSet w s := rfl

theorem haltWrite_bankAck (b : Nat) {w : Word} {s : State} (hw : wordField w 0 1 = 1) (hup : s.up = true) :
    haltWrite (.errBankAck b) w s = s.setBank b (s.bank b).tail := by
  have hact : haltWrite (.errBankAck b) w s = bankAck b s := if_pos hw
  rw [hact, bankAck, if_pos hup]

/-- The release bit of LDG_AUDIT, as a halted device takes it. -/
def releaseIfSet (w : Word) (s : State) : State := if wordField w 8 1 = 1 then auditRelease s else s

theorem releaseIfSet_regs (w : Word) (s : State) : (releaseIfSet w s).regs = s.regs := by
  unfold releaseIfSet auditRelease
  (repeat' split) <;> rfl

theorem releaseIfSet_bank (w : Word) (s : State) (b : Nat) : (releaseIfSet w s).bank b = s.bank b := by
  unfold releaseIfSet auditRelease
  (repeat' split) <;> rfl

theorem releaseIfSet_snapshot (w : Word) {s : State} (hup : s.up = true) :
    (releaseIfSet w s).err.snapshot = if wordField w 8 1 = 1 then none else s.err.snapshot := by
  unfold releaseIfSet
  split
  · rw [auditRelease, if_pos hup]
  · rfl

theorem haltWrite_audit (w : Word) (s : State) :
    haltWrite .ldgAudit w s = if wordField w 0 8 = 0 then releaseIfSet w s else dropLogged Reg.ldgAudit.addr (releaseIfSet w s) := rfl

theorem haltWrite_audit_snapshot (w : Word) {s : State} (hup : s.up = true) :
    (haltWrite .ldgAudit w s).err.snapshot = if wordField w 8 1 = 1 then none else s.err.snapshot := by
  rw [haltWrite_audit, ← releaseIfSet_snapshot w hup]
  split
  · rfl
  · exact dropLogged_snapshot _ _

/-- Setting the calendar takes the lower half that was stored before (R443). -/
theorem calendarSet_calendar (hi : Word) (s : State) :
    (calendarSet hi s).clock.calendar = (s.reg .lifCalSetLo).toNat + hi.toNat * 2 ^ 32 := by
  have hlo : (s.setFld F.lifCalSetHiSet hi.toNat).reg .lifCalSetLo = s.reg .lifCalSetLo := State.reg_setFld_ne _ _ nofun
  have hhi : (s.setFld F.lifCalSetHiSet hi.toNat).reg .lifCalSetHi = hi := by
    rw [State.reg_setFld_whole, BitVec.ofNat_toNat, BitVec.setWidth_eq]
  simp only [calendarSet, State.pair, hlo, hhi]

theorem calendarSet_reg_ne (hi : Word) (s : State) {r : Reg} (h : r ≠ .lifCalSetHi) : (calendarSet hi s).reg r = s.reg r := by
  have hregs : (calendarSet hi s).regs = (s.setFld F.lifCalSetHiSet hi.toNat).regs := rfl
  rw [State.reg_congr_regs _ hregs, State.reg_setFld_ne _ _ h]

/-! ### Reads -/

/-- A register that is no lower half of a counter, and of which nothing is latched, reads as its window shows it. -/
theorem readWord_unlatched {sc : Scope} {r : Reg} {s : State} (hat : regAt r.addr = some r) (hhi : r.hiOf = none)
    (hl : (s.aoc.latches.find? fun x => x.1 == scopeQp sc && x.2.1 == r) = none) :
    (readWord sc r.addr s).2 = (accessWakes sc r.addr s).scopedView sc r := by
  simp only [readWord, hat, hhi, accessWakes_aoc, hl]

/-! ### The obligation -/

section Halted
variable {s : State} (q : Fin 1024) (v : Word) (hup : s.up = true) (hhalt : s.on F.errStatusHalted = true)
include hup hhalt

theorem halted_write_stores {r : Reg} (hat : regAt r.addr = some r) (heng : r.engine = none)
    (hstore : ∀ u, haltWrite r v u = u.setReg r v) :
    ∃ t, exec (.registerWrite r.addr v (.device q)) s = .next t ∧ t.reg r = v ∧ ∀ x, x ≠ r → t.reg x = s.reg x := by
  refine ⟨_, exec_registerWrite_halted q v hup hhalt hat (by simp [heng]), ?_, fun x hx => ?_⟩
  · rw [State.reg_keep, hstore, State.reg_setReg_same]
  · rw [State.reg_keep, hstore, State.reg_setReg_ne _ _ hx, writeReaches_reg]

theorem halted_write_acknowledges (b : Fin 88) (hw : wordField v 0 1 = 1) :
    ∃ t, exec (.registerWrite (Reg.errBankAck b).addr v (.device q)) s = .next t ∧ t.bank b = (s.bank b).tail ∧ t.regs = s.regs := by
  have hat : regAt (Reg.errBankAck b).addr = some (.errBankAck b) := by revert b; decide
  have hack := haltWrite_bankAck b hw ((writeReaches_up q (Reg.errBankAck b).addr s).trans hup)
  refine ⟨_, exec_registerWrite_halted q v hup hhalt hat nofun, ?_, ?_⟩
  · rw [hack, writeReaches_bank]
    exact State.bank_setBank_same _ _ _
  · rw [hack]
    exact writeReaches_regs ..

theorem halted_write_sets_calendar :
    ∃ t, exec (.registerWrite Reg.lifCalSetHi.addr v (.device q)) s = .next t ∧ t.clock.calValid = true
      ∧ t.clock.calendar = (s.reg .lifCalSetLo).toNat + v.toNat * 2 ^ 32 ∧ ∀ r, r ≠ Reg.lifCalSetHi → t.reg r = s.reg r := by
  refine ⟨_, exec_registerWrite_halted q v hup hhalt (by decide) nofun, rfl, ?_, fun r hr => ?_⟩
  · rw [haltWrite_calSetHi, State.keep_clock, calendarSet_calendar, writeReaches_reg]
  · rw [haltWrite_calSetHi, State.reg_keep, calendarSet_reg_ne _ _ hr, writeReaches_reg]

theorem halted_write_releases_audit :
    ∃ t, exec (.registerWrite Reg.ldgAudit.addr v (.device q)) s = .next t
      ∧ (t.err.snapshot = if wordField v 8 1 = 1 then none else s.err.snapshot)
      ∧ (wordField v 0 8 = 0 → t.regs = s.regs) ∧ (wordField v 0 8 ≠ 0 → WriteDropped .ldgAudit s t) := by
  refine ⟨_, exec_registerWrite_halted q v hup hhalt (by decide) nofun, ?_, fun hmask => ?_, fun hmask => ?_⟩
  · rw [State.keep_err, haltWrite_audit_snapshot v ((writeReaches_up ..).trans hup), writeReaches_err]
  · rw [State.keep_regs, haltWrite_audit, if_pos hmask, releaseIfSet_regs, writeReaches_regs]
  · rw [haltWrite_audit, if_neg hmask]
    exact (writeDropped_dropLogged .ldgAudit _).of_congr ((releaseIfSet_regs ..).trans (writeReaches_regs ..))
      ((releaseIfSet_bank ..).trans (writeReaches_bank ..))

theorem halted_write_dropped {r : Reg} (hat : regAt r.addr = some r) (hpresent : ∀ e, r.engine = some e → s.present e = true)
    (htaken : takenHalted r = false) :
    ∃ t, exec (.registerWrite r.addr v (.device q)) s = .next t ∧ WriteDropped r s t ∧ t.pages = s.pages ∧ t.jobs = s.jobs
      ∧ MemSame s t := by
  have hdrop := haltWrite_eq_dropLogged htaken v (writeReaches q r.addr s)
  have hrest := dropLogged_rest (s := writeReaches q r.addr s) r.addr
  refine ⟨_, exec_registerWrite_halted q v hup hhalt hat hpresent, ?_, ?_, ?_, fun x => ?_⟩
  · rw [hdrop]
    exact (writeDropped_dropLogged r _).of_congr (writeReaches_regs ..) (writeReaches_bank ..)
  · rw [hdrop, State.keep_pages, hrest, writeReaches_pages]
  · rw [hdrop, State.keep_jobs, hrest, writeReaches_jobs]
  · rw [hdrop, State.keep_mem, hrest, writeReaches_mem]

end Halted

/-- Settles O55: a halted device shows its registers, takes the writes of R471's list, and answers every other one with a dropped write. -/
theorem haltState : Obligations.HaltState := by
  intro s q v hup hhalt dev dropped taken
  exact ⟨fun r hat hhi hl => readWord_unlatched hat hhi hl,
    halted_write_acknowledges q v hup hhalt,
    fun n => halted_write_stores q v hup hhalt (by revert n; decide) rfl (haltWrite_scratch n v),
    halted_write_stores q v hup hhalt (by decide) rfl (haltWrite_calSetLo v),
    halted_write_sets_calendar q v hup hhalt,
    halted_write_releases_audit q v hup hhalt,
    fun r hat hpresent htaken => halted_write_dropped q v hup hhalt hat hpresent htaken⟩

end Sys2Proof.Machine
end
